-- ==== Sys2Proof/Word.lean ====
section
/-! DEFINITION. The word types of the Yelnal: register, lane, address and byte widths (R6, R12, R95). -/

namespace Sys2Proof

/-- One byte of memory (R12). -/
abbrev Byte := BitVec 8
/-- One lane element of a V register, or a narrow special register (R95, R9). -/
abbrev Word := BitVec 32
/-- A scalar register or a virtual address (R6, R12). -/
abbrev Word64 := BitVec 64
/-- One bit per lane: EXEC, a K register, the members of an issue (R95). -/
abbrev LaneMask := BitVec 32
/-- The 32 lane elements of one V register (R95). -/
abbrev LaneReg := Vector Word 32
/-- A lane number (R95). -/
abbrev Lane := Fin 32

end Sys2Proof
end

