-- ==== Sys2Proof/Syntax.lean ====
section
/-! DEFINITION. The syntax of Skelilil instructions and of the device's other steps: one constructor of `Instr`
for each row of the table of operations (R49 and 95_what_each_step_holds). Words carry their decoded fields
(R34 to R48); the steps of engines, dies, host and fabric carry the agent they belong to and the choices that
the spec leaves open. -/

namespace Sys2Proof

/-- Data types, codes 0 to 18 of R47. -/
inductive Ty where
  | s64 | s32 | s16 | s8 | s4 | n64 | n32 | n16 | n8 | b64 | b32 | b1
  | f32 | f16 | bf16 | e4m3 | e5m2 | e2m1 | e8m0
deriving DecidableEq, Repr

/-- COND codes 0x0 to 0xE of R43; 0xF is reserved and is no condition. -/
inductive Cond where
  | al | eq | ne | hs | lo | mi | pl | vs | vc | hi | ls | ge | lt | gt | le
deriving DecidableEq, Repr

/-- Length codes of R15 that an instruction can have. -/
inductive Len where
  | l64 | l96 | l128
deriving DecidableEq, Repr

/-- RM of R48: `dyn` reads FMT.RND of the issuing plane. -/
inductive Rm where
  | dyn | rne | rz | rup | rdn
deriving DecidableEq, Repr

/-- SCO of R48 (R198). -/
inductive Scope where
  | grp | core | clu | die | dev | sys
deriving DecidableEq, Repr

/-- ORD of R48. -/
inductive Ord where
  | relaxed | acq | rel | acqrel
deriving DecidableEq, Repr

/-- CP of R216. -/
inductive Cp where
  | ca | cg | cs
deriving DecidableEq, Repr

/-- AOP codes 0 to 11 of R224. -/
inductive Aop where
  | xchg | cas | add | min | max | and | or | xor | fadd | fmin | fmax | famax
deriving DecidableEq, Repr

/-- What an operand code names (R39). 0x00 where an entry gives it the meaning "absent" is `none` of an
`Option Operand` in that entry's fields (R38). -/
inductive Operand where
  /-- 0x00 to 0x7F: V register. -/
  | v (n : Fin 128)
  /-- 0x80 to 0xBF: S register. -/
  | s (n : Fin 64)
  /-- 0xC0 to 0xC7: K register. -/
  | k (n : Fin 8)
  /-- 0xC8 to 0xD7: handle register. -/
  | h (n : Fin 16)
  /-- 0xD8 to 0xE7: the integers 0 to 15. -/
  | small (n : Fin 16)
  /-- 0xE8 to 0xEB: -1, -2, -4, -8 (index 0 to 3). -/
  | neg (n : Fin 4)
  /-- 0xEC to 0xEF: 0.5, 1.0, 2.0, -1.0 or their FP32 patterns (index 0 to 3). -/
  | fpat (n : Fin 4)
  | exec | pln | fmt | sc | laneid | lit32 | lit64
deriving DecidableEq, Repr

/-- GRD and GNEG of a lane-executed instruction (R42). -/
structure Guard where
  k   : Fin 8
  neg : Bool
deriving DecidableEq, Repr

/-- What every word carries beside its operands: switch marker, safe point, length, and the literal or
extension bits (LIT32 in the low half for the 96-bit form) (R34, R37). -/
structure Ctl where
  sw  : Bool
  sp  : Bool
  len : Len
  lit : BitVec 64
deriving DecidableEq, Repr

/-! ### Class 0 (R56 to R63) -/
structure SInt where
  c : Ctl
  cond : Cond
  ty : Ty
  fs : Bool
  d : Fin 64
  a : Operand
  b : Operand
deriving DecidableEq, Repr

structure SUnary where
  c : Ctl
  cond : Cond
  ty : Ty
  fs : Bool
  d : Fin 64
  a : Operand
deriving DecidableEq, Repr

structure SCompare where
  c : Ctl
  cond : Cond
  ty : Ty
  a : Operand
  b : Operand
deriving DecidableEq, Repr

structure SSelect where
  c : Ctl
  cond : Cond
  ty : Ty
  scnd : Cond
  d : Fin 64
  a : Operand
  b : Operand
deriving DecidableEq, Repr

structure SInsert where
  c : Ctl
  cond : Cond
  w1 : Bool
  d : Fin 64
  a : Operand
deriving DecidableEq, Repr

/-! ### Class 1 (R65 to R73) -/
/-- A relative branch: D for BRC, A for BRZ and BRNZ (S) and BRMZ and BRMA (K or EXEC) (R65). -/
structure Branch where
  c : Ctl
  cond : Cond
  r : Operand
  disp : BitVec 30
deriving DecidableEq, Repr

structure Jump where
  c : Ctl
  cond : Cond
  a : Operand
deriving DecidableEq, Repr

structure MaskOp where
  c : Ctl
  cond : Cond
  fs : Bool
  d : Operand
  m : Operand
deriving DecidableEq, Repr

structure MaskGet where
  c : Ctl
  cond : Cond
  fs : Bool
  d : Operand
deriving DecidableEq, Repr

structure FmtSet where
  c : Ctl
  cond : Cond
  a : Operand
deriving DecidableEq, Repr

structure FmtGet where
  c : Ctl
  cond : Cond
  d : Fin 64
deriving DecidableEq, Repr

structure GetSr where
  c : Ctl
  cond : Cond
  srn : BitVec 8
  d : Fin 64
deriving DecidableEq, Repr

structure SetSr where
  c : Ctl
  cond : Cond
  srn : BitVec 8
  a : Operand
deriving DecidableEq, Repr

structure TrapArgs where
  c : Ctl
  cond : Cond
  n : BitVec 8
  a : Option Operand
deriving DecidableEq, Repr

/-- A once-per-group word without operands: TRET, BKPT, NOP, YIELD, EXIT. -/
structure Plain where
  c : Ctl
  cond : Cond
deriving DecidableEq, Repr

/-- The LIVE word (R24). -/
structure LiveWord where
  lnt : Bool
  mtx : Bool
  lh : BitVec 16
  lk : BitVec 8
  lv : BitVec 16
  ls : BitVec 8
  sp : Bool
  sw : Bool
deriving DecidableEq, Repr

/-! ### Classes 2 and 3 (R120 to R135) -/
structure VUnary where
  c : Ctl
  g : Guard
  ty : Ty
  d : Fin 128
  a : Operand
deriving DecidableEq, Repr

structure VAbs where
  c : Ctl
  g : Guard
  ty : Ty
  sat : Bool
  d : Fin 128
  a : Operand
deriving DecidableEq, Repr

structure VBinary where
  c : Ctl
  g : Guard
  ty : Ty
  d : Fin 128
  a : Operand
  b : Operand
deriving DecidableEq, Repr

structure VTernary where
  c : Ctl
  g : Guard
  ty : Ty
  d : Fin 128
  a : Operand
  b : Operand
  cc : Operand
deriving DecidableEq, Repr

structure VDot where
  c : Ctl
  g : Guard
  ty : Ty
  bn : Bool
  d : Fin 128
  a : Operand
  b : Operand
  cc : Operand
deriving DecidableEq, Repr

/-- VCMP (CC 0 to 5) and VFCMP (CC 0 to 7). -/
structure VCompare where
  c : Ctl
  g : Guard
  ty : Ty
  cc : Fin 8
  d : Fin 8
  a : Operand
  b : Operand
deriving DecidableEq, Repr

structure VSelect where
  c : Ctl
  g : Guard
  ty : Ty
  d : Fin 128
  a : Operand
  b : Operand
  k : Fin 8
deriving DecidableEq, Repr

structure VFUnary where
  c : Ctl
  g : Guard
  ty : Ty
  rm : Rm
  d : Fin 128
  a : Operand
deriving DecidableEq, Repr

structure VFBinary where
  c : Ctl
  g : Guard
  ty : Ty
  rm : Rm
  d : Fin 128
  a : Operand
  b : Operand
deriving DecidableEq, Repr

structure VFTernary where
  c : Ctl
  g : Guard
  ty : Ty
  rm : Rm
  d : Fin 128
  a : Operand
  b : Operand
  cc : Operand
deriving DecidableEq, Repr

structure VFMinMax where
  c : Ctl
  g : Guard
  ty : Ty
  nanp : Bool
  d : Fin 128
  a : Operand
  b : Operand
deriving DecidableEq, Repr

/-! ### Class 4 (R141 to R155) -/
structure Convert where
  c : Ctl
  g : Guard
  ty : Ty
  ty2 : Ty
  rm : Rm
  sat : Bool
  d : Fin 128
  a : Operand
deriving DecidableEq, Repr

/-- VQNT and VDQNT: B is absent in mode 1 (MX32). -/
structure Quant where
  c : Ctl
  g : Guard
  ty : Ty
  mx : Bool
  rm : Rm
  sat : Bool
  d : Fin 128
  a : Operand
  b : Option Operand
deriving DecidableEq, Repr

/-- VPACK and VUNPK. -/
structure Pack where
  c : Ctl
  g : Guard
  ty : Ty
  ty2 : Ty
  rm : Rm
  sat : Bool
  d : Fin 128
  a : Operand
  b : Operand
deriving DecidableEq, Repr

/-- VBCAST, VSHUF, VSWZ: A is a V register. -/
structure Permute where
  c : Ctl
  g : Guard
  d : Fin 128
  a : Fin 128
  b : Operand
deriving DecidableEq, Repr

inductive LaneMode where
  | rot | up | dn | xor
deriving DecidableEq, Repr

structure LaneMove where
  c : Ctl
  g : Guard
  mode : LaneMode
  d : Fin 128
  a : Fin 128
  b : Operand
deriving DecidableEq, Repr

/-- OPR of R152. -/
inductive RedOp where
  | add | min | max | and | or | xor | amax
deriving DecidableEq, Repr

structure Reduce where
  c : Ctl
  g : Guard
  op : RedOp
  excl : Bool
  ty : Ty
  rm : Rm
  d : Fin 128
  a : Operand
deriving DecidableEq, Repr

structure Ballot where
  c : Ctl
  g : Guard
  d : Operand
  a : Operand
deriving DecidableEq, Repr

inductive VoteMode where
  | all | any | eq | cnt
deriving DecidableEq, Repr

structure Vote where
  c : Ctl
  g : Guard
  mode : VoteMode
  d : Operand
  a : Operand
deriving DecidableEq, Repr

structure ReadLane where
  c : Ctl
  g : Guard
  d : Fin 64
  a : Fin 128
  b : Operand
deriving DecidableEq, Repr

structure WriteLane where
  c : Ctl
  g : Guard
  d : Fin 128
  a : Operand
  b : Operand
deriving DecidableEq, Repr

inductive KMode where
  | and | or | xor | andn | orn | nand | nor | xnor
deriving DecidableEq, Repr

structure KOpArgs where
  c : Ctl
  cond : Cond
  mode : KMode
  d : Operand
  a : Operand
  b : Operand
deriving DecidableEq, Repr

structure KMovArgs where
  c : Ctl
  cond : Cond
  d : Operand
  a : Operand
deriving DecidableEq, Repr

structure PSetArgs where
  c : Ctl
  g : Guard
  a : Operand
deriving DecidableEq, Repr

structure PSelArgs where
  c : Ctl
  g : Guard
  a : Fin 8
  b : Fin 8
deriving DecidableEq, Repr

/-- PGET: a V destination has no `k`; a K destination compares with plane `k`. -/
inductive PGetDest where
  | v (d : Fin 128)
  | k (d : Fin 8) (p : Fin 4)
deriving DecidableEq, Repr

structure PGetArgs where
  c : Ctl
  g : Guard
  d : PGetDest
deriving DecidableEq, Repr

/-! ### Class 5 (R136, R214 to R231) -/
/-- LDS, STS, PRF, ATOMS address and access fields. -/
structure SLoad where
  c : Ctl
  cond : Cond
  ty : Ty
  sco : Scope
  ord : Ord
  cp : Cp
  d : Fin 64
  a : Fin 64
  b : Operand
deriving DecidableEq, Repr

structure SStore where
  c : Ctl
  cond : Cond
  ty : Ty
  sco : Scope
  ord : Ord
  cp : Cp
  a : Fin 64
  b : Operand
  data : Operand
deriving DecidableEq, Repr

/-- LDV, LDRO, LDL, LDA, LDC: D a V register, or an S register in the scalar form (R221). -/
structure VLoad where
  c : Ctl
  g : Guard
  ty : Ty
  sco : Scope
  ord : Ord
  cp : Cp
  d : Operand
  a : Operand
  b : Operand
deriving DecidableEq, Repr

structure VStore where
  c : Ctl
  g : Guard
  ty : Ty
  sco : Scope
  ord : Ord
  cp : Cp
  a : Operand
  b : Operand
  data : Operand
deriving DecidableEq, Repr

structure Prefetch where
  c : Ctl
  cond : Cond
  cp : Cp
  a : Fin 64
  b : Operand
deriving DecidableEq, Repr

/-- ATOMS: D is `none` for K0 (nothing returned, R225). -/
structure SAtomic where
  c : Ctl
  cond : Cond
  aop : Aop
  ty : Ty
  sco : Scope
  ord : Ord
  d : Option (Fin 64)
  a : Fin 64
  b : Operand
  data : Operand
deriving DecidableEq, Repr

structure VAtomic where
  c : Ctl
  g : Guard
  aop : Aop
  ty : Ty
  sco : Scope
  ord : Ord
  d : Option (Fin 128)
  a : Operand
  b : Operand
  data : Operand
deriving DecidableEq, Repr

structure FenceArgs where
  c : Ctl
  cond : Cond
  sco : Scope
  ord : Ord
deriving DecidableEq, Repr

structure SealArgs where
  c : Ctl
  cond : Cond
  d : Fin 64
  a : Operand
  b : Operand
deriving DecidableEq, Repr

structure FlushArgs where
  c : Ctl
  cond : Cond
  sco : Scope
deriving DecidableEq, Repr

inductive CacheSel where
  | gen | ro | all
deriving DecidableEq, Repr

structure InvArgs where
  c : Ctl
  cond : Cond
  sel : CacheSel
deriving DecidableEq, Repr

/-! ### Class 6 (R297 to R309) -/
/-- MMA, MMAS, MMAB. In the 128-bit form the offsets and kb stand in EXT, and A, B and C are absent. -/
structure MmaArgs where
  c : Ctl
  cond : Cond
  ct : Fin 8
  sh : Option (Fin 16)
  zr : Bool
  d : Fin 16
  a : Option Operand
  b : Option Operand
  kb : Option Operand
deriving DecidableEq, Repr

structure MmabArgs where
  m : MmaArgs
  andOp : Bool
deriving DecidableEq, Repr

structure MmavArgs where
  c : Ctl
  cond : Cond
  ct : Fin 8
  sh : Option (Fin 16)
  zr : Bool
  mz : Bool
  rq : Fin 4
  kdm : Fin 4
  d : Fin 16
  a : Fin 128
  b : Option Operand
  kb : Option Operand
deriving DecidableEq, Repr

structure MtapArgs where
  c : Ctl
  cond : Cond
  ct : Fin 8
  sh : Option (Fin 16)
  zr : Bool
  ts : Fin 2
  pr : Bool
  d : Fin 16
  a : Option Operand
  kb : Option Operand
deriving DecidableEq, Repr

structure MldtArgs where
  c : Ctl
  cond : Cond
  sh : Option (Fin 16)
  ts : Fin 2
  d : Fin 16
  a : Operand
deriving DecidableEq, Repr

structure MsortArgs where
  c : Ctl
  cond : Cond
  sh : Option (Fin 16)
  d : Fin 16
  a : Operand
  b : Operand
deriving DecidableEq, Repr

structure MzeroArgs where
  c : Ctl
  cond : Cond
  ct : Fin 8
  sh : Option (Fin 16)
  d : Fin 16
deriving DecidableEq, Repr

/-- SEL of MSTAT (R308). -/
inductive StatSel where
  | rsf (q : Operand) | tt0 | tt1
deriving DecidableEq, Repr

structure MstatArgs where
  c : Ctl
  cond : Cond
  sh : Option (Fin 16)
  sel : StatSel
  d : Fin 16
  a : Operand
deriving DecidableEq, Repr

structure EpiArgs where
  c : Ctl
  cond : Cond
  ct : Fin 8
  sh : Option (Fin 16)
  d : Fin 16
  a : Operand
deriving DecidableEq, Repr

/-! ### Class 7 (R156, R159, R259 to R271, R356, R430) -/
/-- The typed stores (R189). -/
inductive Store where
  | l | a | w | c
deriving DecidableEq, Repr

/-- COPY.IN and COPY.OUT; D is `none` for BATCH (R260). -/
structure CopyArgs where
  c : Ctl
  cond : Cond
  st : Store
  sh : Option (Fin 16)
  d : Option (Fin 16)
  la : Fin 64
  ba : Fin 64
  off : Operand
deriving DecidableEq, Repr

structure CopyXsArgs where
  c : Ctl
  cond : Cond
  dst : Store
  src : Store
  sh : Option (Fin 16)
  d : Option (Fin 16)
  so : Operand
  bytes : Operand
  doff : Operand
deriving DecidableEq, Repr

structure HandleArgs where
  c : Ctl
  cond : Cond
  h : Fin 16
deriving DecidableEq, Repr

structure WaitHArgs where
  c : Ctl
  cond : Cond
  d : Option (Fin 64)
  h : Fin 16
deriving DecidableEq, Repr

structure TestHArgs where
  c : Ctl
  cond : Cond
  fs : Bool
  d : Fin 64
  h : Fin 16
deriving DecidableEq, Repr

/-- MOVH: A is `none` for inline 0. -/
structure MovHArgs where
  c : Ctl
  cond : Cond
  d : Fin 16
  a : Option (Fin 16)
deriving DecidableEq, Repr

structure QPutArgs where
  c : Ctl
  cond : Cond
  d : Fin 64
  ch : Operand
  off : Operand
deriving DecidableEq, Repr

inductive QSel where
  | seq | err | widx | state
deriving DecidableEq, Repr

structure QGetArgs where
  c : Ctl
  cond : Cond
  sel : QSel
  d : Fin 64
  ch : Operand
deriving DecidableEq, Repr

structure WaitVArgs where
  c : Ctl
  cond : Cond
  d : Option (Fin 64)
  ch : Operand
  n : Operand
deriving DecidableEq, Repr

/-- WAITW: `n` is `none` in the 128-bit form (EXT). -/
structure WaitWArgs where
  c : Ctl
  cond : Cond
  rel : Bool
  d : Option (Fin 64)
  n : Option Operand
deriving DecidableEq, Repr

inductive BarMode where
  | sync | arr | wait
deriving DecidableEq, Repr

structure BarArgs where
  c : Ctl
  cond : Cond
  mode : BarMode
  id : Fin 16
  count : Option Operand
deriving DecidableEq, Repr

structure SpawnArgs where
  c : Ctl
  g : Guard
  a : Fin 128
  b : Operand
deriving DecidableEq, Repr

structure LexitArgs where
  c : Ctl
  g : Guard
deriving DecidableEq, Repr

structure TraceArgs where
  c : Ctl
  g : Guard
  sh : Option (Fin 16)
  hd : Fin 16
  d : Fin 128
  a : Fin 128
  base : Operand
  table : Option (Fin 64)
deriving DecidableEq, Repr

inductive TrresMode where
  | cont | short | commit | fin
deriving DecidableEq, Repr

structure TrresArgs where
  c : Ctl
  g : Guard
  sh : Option (Fin 16)
  hd : Fin 16
  mode : TrresMode
  d : Fin 128
  t : Option Operand
  base : Operand
  uv : Option Operand
deriving DecidableEq, Repr

inductive TrstatSel where
  | run | park | sus | fin
deriving DecidableEq, Repr

/-- TRSTAT destination: K with a selector, or V. -/
inductive TrstatDest where
  | k (d : Fin 8) (sel : TrstatSel)
  | v (d : Fin 128)
deriving DecidableEq, Repr

structure TrstatArgs where
  c : Ctl
  g : Guard
  d : TrstatDest
  h : Fin 16
deriving DecidableEq, Repr

/-! ### Agents that the steps of the device name -/
/-- A core of a die (R1, R180). -/
structure CoreRef where
  die : Fin 2
  core : Fin 128
deriving DecidableEq, Repr

/-- A group slot of a core (R111). -/
structure GroupRef where
  die : Fin 2
  core : Fin 128
  slot : Fin 32
deriving DecidableEq, Repr

/-- A chain of a context, with the die that serves it (R252). -/
structure ChainRef where
  die : Fin 2
  ctx : BitVec 12
  ch : BitVec 12
deriving DecidableEq, Repr

/-- A barrier of R156: of a team on its core, of a cluster at its root core, or of the grid. -/
inductive BarRef where
  | team (c : CoreRef) (team : Nat) (id : Fin 16)
  | cluster (c : CoreRef) (team : Nat) (id : Fin 4)
  | grid (launch : Nat)
deriving DecidableEq, Repr

/-- The links of R192 whose transfers are retried. -/
inductive Link where
  | mesh (die : Fin 2) | bridge | host (die : Fin 2) | wickline (die : Fin 2) (port : Fin 12) | gddr (die : Fin 2)
deriving DecidableEq, Repr

/-- A member's part in a collective: its device and the record that makes it (R437). -/
structure CollPart where
  dev : BitVec 12
  c   : ChainRef
  idx : Nat
deriving DecidableEq, Repr

/-- What one Wickline flit asks the far device to do (R425, R428, R433, R435, R438, R439). -/
inductive FlitBody where
  /-- PUT data: bytes to an address in the context of the sender's chain; `first` marks the first line of a record. -/
  | write (c : ChainRef) (first : Bool) (va : BitVec 64) (bytes : List Byte)
  /-- A SIGNAL: operation 0 store, 1 add, 2 unsigned max, on 4 or 8 bytes. -/
  | signal (ctx : BitVec 12) (va : BitVec 64) (op : Fin 3) (wide : Bool) (val : BitVec 64)
  /-- A FWD message with its sender's device number and sequence number. -/
  | fwd (ctx : BitVec 12) (ring : BitVec 64) (msg : List Byte) (sdev : BitVec 12) (sseq : BitVec 64)
  /-- A piece of a member's announcement of a collective: KIND, COUNT or LEN, IT, the number of its devices, and those from a rank
  on (R437). -/
  | announce (gid : BitVec 16) (collid : BitVec 32) (part : CollPart) (rank : Nat) (kind : BitVec 8) (count : BitVec 32)
      (fp32 : Bool) (n : Nat) (at' : Nat) (devs : List (BitVec 12))
  /-- Scale word of one block of an ALLREDUCE (R439). -/
  | scale (gid : BitVec 16) (collid : BitVec 32) (rank : Nat) (blk : Nat) (word : BitVec 20)
  /-- Mantissas of one block of an ALLREDUCE (R440). -/
  | mant (gid : BitVec 16) (collid : BitVec 32) (rank : Nat) (blk : Nat) (ms : List Int)
  /-- Bytes of a rank's share of an ALLGATHER, from an offset in it (R438). -/
  | share (gid : BitVec 16) (collid : BitVec 32) (rank : Nat) (off : Nat) (bytes : List Byte)
  /-- A member has found that the members' records differ (R437). -/
  | mismatch (gid : BitVec 16) (collid : BitVec 32) (part : CollPart)
  /-- A member abandons a collective (R442). -/
  | abort (gid : BitVec 16) (collid : BitVec 32) (part : CollPart)
  /-- An acknowledgement, with the status of the far writes (R431, R434). -/
  | ack (status : BitVec 8)
  /-- A window marker, and route control: both act on the fabric alone (R425, R427). -/
  | marker (win : BitVec 64)
  | route (bytes : List Byte)
deriving DecidableEq, Repr

/-- BOOTCFG (R451). -/
structure BootCfg where
  rta : BitVec 64
  resHi : BitVec 12
  devnum : BitVec 12
  ipart : BitVec 8
  wlu : BitVec 9
  plim : BitVec 12
  resLo : BitVec 11
deriving DecidableEq, Repr

/-- Where the sconce die has a die's controller find its firmware image in host memory, and how long that is (R451). -/
structure ImageSrc where
  addr : Nat
  len  : Nat
deriving DecidableEq, Repr

/-- The device that sent a flit, and the one that it is for (R424, R427). -/
structure FlitEnds where
  src : BitVec 12
  dst : BitVec 12
deriving DecidableEq, Repr

/-- An acknowledgement: the status of R237, and the window in which its flit was sent (R431, R443). -/
structure Ack where
  status : BitVec 8
  win    : BitVec 64
deriving DecidableEq, Repr

/-- What names a collective: GID of its device group, and COLLID (R436, R437). -/
structure CollName where
  gid    : BitVec 16
  collid : BitVec 32
deriving DecidableEq, Repr

/-- An abort of a member's part, and the window in which its flit was sent (R442, R443). -/
structure PartAbort where
  part : CollPart
  win  : BitVec 64
deriving DecidableEq, Repr

/-- One operation or event of the part: the rows of the table of operations, one constructor each. -/
inductive Instr where
  -- class 0
  | sadd (x : SInt) | ssub (x : SInt) | smul (x : SInt) | smulh (x : SInt) | smulhn (x : SInt)
  | sdiv (x : SInt) | sdivn (x : SInt) | srem (x : SInt) | sremn (x : SInt)
  | sand (x : SInt) | sor (x : SInt) | sxor (x : SInt) | sandn (x : SInt)
  | sshl (x : SInt) | sshr (x : SInt) | ssra (x : SInt) | srot (x : SInt)
  | smin (x : SInt) | smax (x : SInt) | sminn (x : SInt) | smaxn (x : SInt)
  | scmp (x : SCompare) | ssel (x : SSelect) | smov (x : SUnary) | sli (x : SInsert)
  | sbfx (x : SInt) | sbfi (x : SInt)
  | spopc (x : SUnary) | sclz (x : SUnary) | sctz (x : SUnary) | sbrev (x : SUnary)
  -- class 1
  | br (x : Branch) | brc (x : Branch) | brz (x : Branch) | brnz (x : Branch) | brmz (x : Branch)
  | brma (x : Branch) | call (x : Branch) | calli (x : Jump) | ret (x : Jump) | jmpi (x : Jump)
  | mset (x : MaskOp) | mget (x : MaskGet) | mand (x : MaskOp) | mor (x : MaskOp) | mandn (x : MaskOp)
  | mxor (x : MaskOp) | mpop (x : MaskOp) | mffs (x : MaskOp)
  | fmtset (x : FmtSet) | fmtget (x : FmtGet) | getsr (x : GetSr) | setsr (x : SetSr)
  | trap (x : TrapArgs) | tret (x : Plain) | bkpt (x : Plain) | nop (x : Plain) | pidle (c : Ctl)
  | yield (x : Plain) | sleep (x : Jump) | live (x : LiveWord) | skipCode (w : BitVec 30)
  | illegalInstruction (sub : BitVec 8) (word : BitVec 64)
  -- class 2
  | vadd (x : VBinary) | vsub (x : VBinary) | vmul (x : VBinary) | vmulh (x : VBinary) | vmulhn (x : VBinary)
  | vmad (x : VTernary) | vand (x : VBinary) | vor (x : VBinary) | vxor (x : VBinary) | vandn (x : VBinary)
  | vshl (x : VBinary) | vshr (x : VBinary) | vsra (x : VBinary)
  | vmin (x : VBinary) | vmax (x : VBinary) | vminn (x : VBinary) | vmaxn (x : VBinary)
  | vabs (x : VAbs) | vaddsat (x : VBinary) | vsubsat (x : VBinary)
  | vcmp (x : VCompare) | vsel (x : VSelect) | vmov (x : VUnary) | vbfx (x : VBinary) | vbfi (x : VBinary)
  | vpopc (x : VUnary) | vclz (x : VUnary) | vdot4 (x : VDot) | vmulw (x : VBinary) | vadd64 (x : VBinary)
  -- class 3
  | vfadd (x : VFBinary) | vfsub (x : VFBinary) | vfmul (x : VFBinary) | vfma (x : VFTernary)
  | vfmin (x : VFMinMax) | vfmax (x : VFMinMax) | vfabs (x : VUnary) | vfneg (x : VUnary) | vfcmp (x : VCompare)
  | vfrcp (x : VFUnary) | vfrsq (x : VFUnary) | vfsqrt (x : VFUnary) | vfdiv (x : VFBinary)
  | vfexp2 (x : VFUnary) | vflog2 (x : VFUnary) | vfsin (x : VFUnary) | vfcos (x : VFUnary) | vftanh (x : VFUnary)
  | vfrnd (x : VFUnary) | vfclass (x : VUnary) | vhfma (x : VFTernary) | vhadd (x : VFBinary)
  | vhmul (x : VFBinary) | vfdot2 (x : VFTernary)
  -- class 4
  | vcvt (x : Convert) | vqnt (x : Quant) | vdqnt (x : Quant) | vamax (x : VBinary) | vpack (x : Pack) | vunpk (x : Pack)
  | vlane (x : LaneMove) | vbcast (x : Permute) | vshuf (x : Permute) | vswz (x : Permute)
  | vscan (x : Reduce) | vred (x : Reduce) | vballot (x : Ballot) | vvote (x : Vote)
  | vrdlane (x : ReadLane) | vwrlane (x : WriteLane) | kop (x : KOpArgs) | kmov (x : KMovArgs)
  | pset (x : PSetArgs) | pselk (x : PSelArgs) | pget (x : PGetArgs)
  -- class 5
  | lds (x : SLoad) | sts (x : SStore) | ldv (x : VLoad) | stv (x : VStore) | ldl (x : VLoad) | stl (x : VStore)
  | lda (x : VLoad) | sta (x : VStore) | ldc (x : VLoad) | stc (x : VStore) | ldro (x : VLoad) | prf (x : Prefetch)
  | atoms (x : SAtomic) | atomv (x : VAtomic) | atoml (x : VAtomic) | fence (x : FenceArgs)
  | sealPages (x : SealArgs) | unseal (x : SealArgs) | cflush (x : FlushArgs) | cinv (x : InvArgs)
  -- class 6
  | mma (x : MmaArgs) | mmas (x : MmaArgs) | mmav (x : MmavArgs) | mmab (x : MmabArgs) | mtap (x : MtapArgs)
  | mldt (x : MldtArgs) | msort (x : MsortArgs) | mzero (x : MzeroArgs) | mstat (x : MstatArgs) | epi (x : EpiArgs)
  -- class 7
  | copyIn (x : CopyArgs) | copyOut (x : CopyArgs) | copyXs (x : CopyXsArgs) | bseal (x : HandleArgs)
  | waith (x : WaitHArgs) | testh (x : TestHArgs) | canh (x : HandleArgs) | movh (x : MovHArgs)
  | qput (x : QPutArgs) | qget (x : QGetArgs) | waitv (x : WaitVArgs) | waitw (x : WaitWArgs)
  | bar (x : BarArgs) | barc (x : BarArgs) | barg (x : BarArgs) | spawn (x : SpawnArgs) | exit (x : Plain)
  | lexit (x : LexitArgs) | trace (x : TraceArgs) | trres (x : TrresArgs) | trstat (x : TrstatArgs)
  -- steps of groups and of memory
  | variableLatencyResult (g : GroupRef) (i : Nat)
  | watchdogExpiry (g : GroupRef)
  | sleepExpiry (g : GroupRef)
  -- the steps that a count makes due: a constructor beyond the 245th that carries data cannot be built by compiled code
  | collectiveTimeout (c : ChainRef)
  | preemptDeadline (launch : Nat)
  | coreClockGate (c : CoreRef)
  | coreWake (c : CoreRef)
  | storeFifoLeave (g : GroupRef)
  | storeReachL2 (c : CoreRef) (i : Nat)
  | atomicEngineService (die : Fin 2) (slice : Fin 128)
  | cflushComplete (g : GroupRef)
  | l2Writeback (line : Nat) (bad : Bool)
  | l2Scrub (die : Fin 2) (slice : Fin 128) (corrected : List Nat) (bad : List Nat)
  | linkRetry (l : Link) (failed : Option (List Nat))
  | pageWalk (die : Fin 2) (i : Nat)
  | faultRecordWrite (die : Fin 2)
  | pagerRetry (die : Fin 2) (ans : BitVec 64)
  | pagerDecline (die : Fin 2) (ans : BitVec 64)
  -- command processor, tickets, placement, barriers, spawning
  | launch (c : ChainRef)
  | mwait (c : ChainRef)
  | mwaitPoll (c : ChainRef)
  | msignal (c : ChainRef)
  | ticketTake (c : CoreRef) (launch : Nat)
  | ticketSteal (c : CoreRef) (launch : Nat)
  | teamStart (die : Fin 2) (launch : Nat) (cluster : Nat)
  | groupRetire (g : GroupRef)
  | barrierArrivalCount (b : BarRef)
  | barrierRelease (b : BarRef)
  | spawnRecordAccept (g : GroupRef)
  | binTimerExpiry (die : Fin 2) (bin : Fin 256)
  | spawnedGroupPlace (die : Fin 2)
  -- per-core engines
  | copyCommandStart (c : CoreRef) (tag : Word)
  | copyCommandEnd (c : CoreRef) (tag : Word)
  | engineCancellation (c : CoreRef) (tag : Word) (pieces : List Nat)
  | matrixCommandStart (c : CoreRef) (tag : Word)
  | matrixKblockEnd (c : CoreRef)
  | matrixCommandEnd (c : CoreRef)
  | epilogueStart (c : CoreRef) (tag : Word)
  | epilogueEnd (c : CoreRef)
  | traceLaneStart (c : CoreRef) (tag : Word) (lane : Lane)
  | trresLaneResume (c : CoreRef) (tag : Word) (lane : Lane)
  | lanternFetch (c : CoreRef) (tag : Word) (lane : Lane)
  | lanternLoopStep (c : CoreRef) (tag : Word) (lane : Lane)
  | lanternParkPoll (c : CoreRef) (tag : Word) (lane : Lane)
  | traversalCommandEnd (c : CoreRef) (tag : Word)
  -- chains and device engines
  | qputRingWaitEnd (g : GroupRef)
  | chainRecordStart (c : ChainRef)
  | chainRecordComplete (c : ChainRef)
  | waitvWake (g : GroupRef)
  | build (c : ChainRef)
  | skim (c : ChainRef)
  | switch (c : ChainRef)
  | reclaim (c : ChainRef)
  | reclaimPoll (c : ChainRef)
  | put (c : ChainRef)
  | fwd (c : ChainRef)
  | signal (c : ChainRef)
  | allreduce (c : ChainRef)
  | allgather (c : ChainRef)
  | flitAdmit (die : Fin 2) (i : Nat)
  | wicklineFlitArrival (die : Fin 2) (ends : FlitEnds) (win : BitVec 64) (f : FlitBody)
  | lamplighterAck (c : ChainRef) (ack : Ack)
  | collectiveAbort (name : CollName) (abort : PartAbort)
  | windowBoundary
  | waitwWake (g : GroupRef)
  | ptpLock (t : Nat)
  | ptpLockLoss
  -- host, peers, management
  | hostWrite (pa : Nat) (bytes : List Byte)
  | hostRead (pa : Nat) (n : Nat)
  | peerWindowRead (pa : Nat) (n : Nat)
  | registerWrite (die : Fin 2) (off : BitVec 12) (val : BitVec 64)
  | pgraWrite (die : Fin 2) (val : BitVec 64)
  | pgrsWrite (die : Fin 2) (val : BitVec 64)
  | nstatClear (die : Fin 2) (val : BitVec 64)
  | nmaskWrite (die : Fin 2) (val : BitVec 64)
  | killLaunch (die : Fin 2) (rec : BitVec 64)
  | killContext (die : Fin 2) (rec : BitVec 64)
  | preempt (die : Fin 2) (rec : BitVec 64)
  | contextSave (launch : Nat)
  | restore (die : Fin 2) (rec : BitVec 64)
  | tlbinv (die : Fin 2) (rec : BitVec 64)
  | ctxinv (die : Fin 2) (rec : BitVec 64)
  | chreset (die : Fin 2) (rec : BitVec 64)
  | chstate (die : Fin 2) (rec : BitVec 64)
  | powerSample (milliwatts : Nat)
  | thermalStep (die : Fin 2) (centi : Nat)
  | moduleReset (image0 : ImageSrc) (image1 : ImageSrc) (cfgs : Vector Nat 2)
  | attestationRequest (die : Fin 2) (nonce : BitVec 384)
  | hostSnoop (line : Nat)
  | hcmdRefused (die : Fin 2) (rec : BitVec 64)
  | peerWindowWrite (pa : Nat) (bytes : List Byte)
deriving DecidableEq, Repr

end Sys2Proof
end

