-- ==== Sys2Proof/Decode.lean ====
section
/-! DEFINITION. Decoding of Skelilil words (R34 to R52) and the encoder. A word is read field by field; the checks of
R50 are made in its order, and the first that fails rejects the word by name. The encoder writes the same fields. -/

namespace Sys2Proof

/-- Why a word is no instruction, with the sub-cause of the illegal-instruction trap (R31, R50). -/
inductive Reject where
  /-- Sub-cause 1: the opcode is unassigned (R49). -/
  | unassigned
  /-- Sub-cause 3: VER is not 0b00 (R17). -/
  | badVersion
  /-- Sub-cause 2: an unused field or bit is not zero (R38). -/
  | reservedBit
  /-- Sub-cause 8: a length or an operand code is not permitted (R40, R44, R45). -/
  | notPermitted
  /-- Sub-cause 9: a field holds a reserved value (R43, R46). -/
  | reservedValue
deriving DecidableEq, Repr

def Reject.sub : Reject → BitVec 8
  | .unassigned => 1
  | .badVersion => 3
  | .reservedBit => 2
  | .notPermitted => 8
  | .reservedValue => 9

/-- The fields of the standard layout (R34), most significant first. -/
structure Fields where
  fn  : BitVec 14
  c   : BitVec 8
  b   : BitVec 8
  a   : BitVec 8
  d   : BitVec 8
  gc  : BitVec 4
  op  : BitVec 8
  sp  : BitVec 1
  sw  : BitVec 1
  ver : BitVec 2
  len : BitVec 2
deriving DecidableEq, Repr

def Fields.split (w : BitVec 64) : Fields where
  fn  := w.extractLsb' 50 14
  c   := w.extractLsb' 42 8
  b   := w.extractLsb' 34 8
  a   := w.extractLsb' 26 8
  d   := w.extractLsb' 18 8
  gc  := w.extractLsb' 14 4
  op  := w.extractLsb' 6 8
  sp  := w.extractLsb' 5 1
  sw  := w.extractLsb' 4 1
  ver := w.extractLsb' 2 2
  len := w.extractLsb' 0 2

def Fields.join (f : Fields) : BitVec 64 :=
  f.fn ++ f.c ++ f.b ++ f.a ++ f.d ++ f.gc ++ f.op ++ f.sp ++ f.sw ++ f.ver ++ f.len

/-! ### Codes -/

def Ty.code : Ty → BitVec 5
  | .s64 => 0 | .s32 => 1 | .s16 => 2 | .s8 => 3 | .s4 => 4 | .n64 => 5 | .n32 => 6 | .n16 => 7 | .n8 => 8
  | .b64 => 9 | .b32 => 10 | .b1 => 11 | .f32 => 12 | .f16 => 13 | .bf16 => 14 | .e4m3 => 15 | .e5m2 => 16
  | .e2m1 => 17 | .e8m0 => 18

/-- TY and TY2 (R47); 19 to 31 are reserved. -/
def Ty.ofCode (c : BitVec 5) : Option Ty :=
  match c.toNat with
  | 0 => some .s64 | 1 => some .s32 | 2 => some .s16 | 3 => some .s8 | 4 => some .s4 | 5 => some .n64
  | 6 => some .n32 | 7 => some .n16 | 8 => some .n8 | 9 => some .b64 | 10 => some .b32 | 11 => some .b1
  | 12 => some .f32 | 13 => some .f16 | 14 => some .bf16 | 15 => some .e4m3 | 16 => some .e5m2
  | 17 => some .e2m1 | 18 => some .e8m0 | _ => none

def Cond.code : Cond → BitVec 4
  | .al => 0 | .eq => 1 | .ne => 2 | .hs => 3 | .lo => 4 | .mi => 5 | .pl => 6 | .vs => 7 | .vc => 8 | .hi => 9
  | .ls => 10 | .ge => 11 | .lt => 12 | .gt => 13 | .le => 14

/-- COND and SCND (R43); 0xF is reserved. -/
def Cond.ofCode (c : BitVec 4) : Option Cond :=
  match c.toNat with
  | 0 => some .al | 1 => some .eq | 2 => some .ne | 3 => some .hs | 4 => some .lo | 5 => some .mi | 6 => some .pl
  | 7 => some .vs | 8 => some .vc | 9 => some .hi | 10 => some .ls | 11 => some .ge | 12 => some .lt
  | 13 => some .gt | 14 => some .le | _ => none

def Rm.code : Rm → BitVec 3
  | .dyn => 0 | .rne => 1 | .rz => 2 | .rup => 3 | .rdn => 4

def Rm.ofCode (c : BitVec 3) : Option Rm :=
  match c.toNat with
  | 0 => some .dyn | 1 => some .rne | 2 => some .rz | 3 => some .rup | 4 => some .rdn | _ => none

def Scope.code : Scope → BitVec 3
  | .grp => 0 | .core => 1 | .clu => 2 | .die => 3 | .dev => 4 | .sys => 5

def Scope.ofCode (c : BitVec 3) : Option Scope :=
  match c.toNat with
  | 0 => some .grp | 1 => some .core | 2 => some .clu | 3 => some .die | 4 => some .dev | 5 => some .sys | _ => none

def Ord.code : Ord → BitVec 2
  | .relaxed => 0 | .acq => 1 | .rel => 2 | .acqrel => 3

def Ord.ofCode (c : BitVec 2) : Ord :=
  match c.toNat with
  | 0 => .relaxed | 1 => .acq | 2 => .rel | _ => .acqrel

def Cp.code : Cp → BitVec 2
  | .ca => 0 | .cg => 1 | .cs => 2

def Cp.ofCode (c : BitVec 2) : Option Cp :=
  match c.toNat with
  | 0 => some .ca | 1 => some .cg | 2 => some .cs | _ => none

def Aop.code : Aop → BitVec 4
  | .xchg => 0 | .cas => 1 | .add => 2 | .min => 3 | .max => 4 | .and => 5 | .or => 6 | .xor => 7 | .fadd => 8
  | .fmin => 9 | .fmax => 10 | .famax => 11

def Aop.ofCode (c : BitVec 4) : Option Aop :=
  match c.toNat with
  | 0 => some .xchg | 1 => some .cas | 2 => some .add | 3 => some .min | 4 => some .max | 5 => some .and
  | 6 => some .or | 7 => some .xor | 8 => some .fadd | 9 => some .fmin | 10 => some .fmax | 11 => some .famax
  | _ => none

def Len.code : Len → BitVec 2
  | .l64 => 0 | .l96 => 1 | .l128 => 2

/-- Bytes of a form (R15). -/
def Len.bytes : Len → Nat
  | .l64 => 8 | .l96 => 12 | .l128 => 16

/-- An operand code (R39). -/
def Operand.code : Operand → BitVec 8
  | .v n => BitVec.ofNat 8 n.val
  | .s n => BitVec.ofNat 8 (0x80 + n.val)
  | .k n => BitVec.ofNat 8 (0xC0 + n.val)
  | .h n => BitVec.ofNat 8 (0xC8 + n.val)
  | .small n => BitVec.ofNat 8 (0xD8 + n.val)
  | .neg n => BitVec.ofNat 8 (0xE8 + n.val)
  | .fpat n => BitVec.ofNat 8 (0xEC + n.val)
  | .exec => 0xF0
  | .pln => 0xF1
  | .fmt => 0xF2
  | .sc => 0xF3
  | .laneid => 0xF4
  | .lit32 => 0xFE
  | .lit64 => 0xFF

/-- What an operand code names; 0xF5 to 0xFD are reserved (R39). -/
def Operand.ofCode (c : BitVec 8) : Option Operand :=
  let n := c.toNat
  if h : n < 0x80 then some (.v ⟨n, h⟩)
  else if h : n - 0x80 < 64 then some (.s ⟨n - 0x80, h⟩)
  else if h : n - 0xC0 < 8 then some (.k ⟨n - 0xC0, h⟩)
  else if h : n - 0xC8 < 16 then some (.h ⟨n - 0xC8, h⟩)
  else if h : n - 0xD8 < 16 then some (.small ⟨n - 0xD8, h⟩)
  else if h : n - 0xE8 < 4 then some (.neg ⟨n - 0xE8, h⟩)
  else if h : n - 0xEC < 4 then some (.fpat ⟨n - 0xEC, h⟩)
  else if n = 0xF0 then some .exec
  else if n = 0xF1 then some .pln
  else if n = 0xF2 then some .fmt
  else if n = 0xF3 then some .sc
  else if n = 0xF4 then some .laneid
  else if n = 0xFE then some .lit32
  else if n = 0xFF then some .lit64
  else none

/-! ### The decoder's checks -/

/-- A word being decoded: its fields, bits [127:64], its length and the launch's V allocation (R40, R50). -/
structure Src where
  f : Fields
  w : BitVec 64
  hi : BitVec 64
  len : Len
  valloc : Nat
deriving DecidableEq, Repr

abbrev Dec (α : Type) := Except Reject α

def check (p : Bool) (r : Reject) : Dec Unit := if p then .ok () else .error r

def need {α : Type} (r : Reject) : Option α → Dec α
  | some x => .ok x
  | none => .error r

/-- Order 4 for a class with LIT64 (`lit64`) or none (R44, R45): a literal form names its literal in a source. -/
def Src.chkLen (x : Src) (lit64 : Bool) (srcs : List (BitVec 8)) : Dec Unit :=
  match x.len with
  | .l64 => .ok ()
  | .l96 => check (srcs.contains 0xFE) .notPermitted
  | .l128 => check (lit64 && srcs.contains 0xFF) .notPermitted

/-- Order 5: an unused field or bit is zero (R38). -/
def zero {n : Nat} (b : BitVec n) : Dec Unit := check (b == 0#n) .reservedBit

def Src.ctl (x : Src) : Ctl :=
  { sw := x.f.sw == 1#1, sp := x.f.sp == 1#1, len := x.len,
    lit := match x.len with
      | .l64 => 0
      | .l96 => (x.hi.extractLsb' 0 32).setWidth 64
      | .l128 => x.hi }

def Src.cond (x : Src) : Dec Cond := need .reservedValue (Cond.ofCode x.f.gc)

def Src.guard (x : Src) : Guard := ⟨⟨(x.f.gc.extractLsb' 0 3).toNat, (x.f.gc.extractLsb' 0 3).isLt⟩, x.f.gc.getLsbD 3⟩

/-- TY, from [63:59], within the set an entry accepts (R46). -/
def Src.ty (x : Src) (ok : Ty → Bool) : Dec Ty := do
  let t ← need .reservedValue (Ty.ofCode (x.f.fn.extractLsb' 9 5))
  check (ok t) .reservedValue
  return t

/-- TY2, from [58:54] (R46). -/
def Src.ty2 (x : Src) (ok : Ty → Bool) : Dec Ty := do
  let t ← need .reservedValue (Ty.ofCode (x.f.fn.extractLsb' 4 5))
  check (ok t) .reservedValue
  return t

def Src.rm (x : Src) : Dec Rm := need .reservedValue (Rm.ofCode (x.f.fn.extractLsb' 1 3))

/-- Order 7: an operand of a kind that the entry accepts; a V register within the allocation; a literal code only in
the form that carries it (R39, R40). -/
def Src.operand (x : Src) (ok : Operand → Bool) (c : BitVec 8) : Dec Operand := do
  let o ← need .notPermitted (Operand.ofCode c)
  check (ok o) .notPermitted
  match o with
  | .v n => check (n.val < x.valloc) .notPermitted
  | .lit32 => check (x.len = .l96) .notPermitted
  | .lit64 => check (x.len = .l128) .notPermitted
  | _ => .ok ()
  return o

def Src.sreg (_x : Src) (c : BitVec 8) : Dec (Fin 64) :=
  match Operand.ofCode c with
  | some (.s n) => .ok n
  | _ => .error .notPermitted

def Src.kreg (_x : Src) (c : BitVec 8) : Dec (Fin 8) :=
  match Operand.ofCode c with
  | some (.k n) => .ok n
  | _ => .error .notPermitted

def Src.hreg (_x : Src) (c : BitVec 8) : Dec (Fin 16) :=
  match Operand.ofCode c with
  | some (.h n) => .ok n
  | _ => .error .notPermitted

/-- A V register; `pair` for an even register of a 64-bit pair (R40). -/
def Src.vreg (x : Src) (pair : Bool) (c : BitVec 8) : Dec (Fin 128) :=
  match Operand.ofCode c with
  | some (.v n) => do
    check (n.val < x.valloc && (!pair || n.val % 2 == 0)) .notPermitted
    return n
  | _ => .error .notPermitted

/-- Kinds of operand (R39). -/
def Operand.isInline : Operand → Bool
  | .small _ | .neg _ | .fpat _ => true
  | _ => false
def Operand.isS : Operand → Bool
  | .s _ => true
  | _ => false
def Operand.isV : Operand → Bool
  | .v _ => true
  | _ => false
def Operand.isK : Operand → Bool
  | .k _ => true
  | _ => false
/-- S, inline, LIT32 and LIT64. -/
def Operand.isSImm (o : Operand) : Bool := o.isS || o.isInline || o == .lit32 || o == .lit64
/-- S, inline and LIT32. -/
def Operand.isSImm32 (o : Operand) : Bool := o.isS || o.isInline || o == .lit32

/-! ### Class 0 (R56 to R63) -/

/-- Sources of class 0 (R57); `whole` for field B of the shifts and bit fields, which takes LIT64 under every type. -/
def scalarSrc (ty : Ty) (whole : Bool) (o : Operand) : Bool :=
  match o with
  | .s _ | .k _ | .small _ | .neg _ | .fpat _ | .exec | .fmt | .sc | .lit32 => true
  | .lit64 => whole || ty == .s64 || ty == .n64 || ty == .b64
  | _ => false

/-- TY of class 0 (R56). -/
def Ty.isScalar : Ty → Bool
  | .s64 | .n64 | .b64 | .s32 | .n32 | .b32 => true
  | _ => false

def decSInt (x : Src) (whole : Bool) (mk : SInt → Instr) : Dec Instr := do
  x.chkLen true [x.f.a, x.f.b]
  zero x.f.c
  zero (x.f.fn.extractLsb' 1 8)
  let cond ← x.cond
  let ty ← x.ty Ty.isScalar
  let d ← x.sreg x.f.d
  let a ← x.operand (scalarSrc ty false) x.f.a
  let b ← x.operand (scalarSrc ty whole) x.f.b
  return mk { c := x.ctl, cond, ty, fs := x.f.fn.getLsbD 0, d, a, b }

def decSUnary (x : Src) (mk : SUnary → Instr) : Dec Instr := do
  x.chkLen true [x.f.a]
  zero x.f.c
  zero x.f.b
  zero (x.f.fn.extractLsb' 1 8)
  let cond ← x.cond
  let ty ← x.ty Ty.isScalar
  let d ← x.sreg x.f.d
  let a ← x.operand (scalarSrc ty false) x.f.a
  return mk { c := x.ctl, cond, ty, fs := x.f.fn.getLsbD 0, d, a }

def decScmp (x : Src) : Dec Instr := do
  x.chkLen true [x.f.a, x.f.b]
  zero x.f.c
  zero x.f.d
  zero (x.f.fn.extractLsb' 0 9)
  let cond ← x.cond
  let ty ← x.ty Ty.isScalar
  let a ← x.operand (scalarSrc ty false) x.f.a
  let b ← x.operand (scalarSrc ty false) x.f.b
  return .scmp { c := x.ctl, cond, ty, a, b }

/-- SSEL: SCND in FX [54:51] (R62). -/
def decSsel (x : Src) : Dec Instr := do
  x.chkLen true [x.f.a, x.f.b]
  zero x.f.c
  zero (x.f.fn.extractLsb' 5 4)
  zero (x.f.fn.extractLsb' 0 1)
  let cond ← x.cond
  let ty ← x.ty Ty.isScalar
  let scnd ← need .reservedValue (Cond.ofCode (x.f.fn.extractLsb' 1 4))
  let d ← x.sreg x.f.d
  let a ← x.operand (scalarSrc ty false) x.f.a
  let b ← x.operand (scalarSrc ty false) x.f.b
  return .ssel { c := x.ctl, cond, ty, scnd, d, a, b }

/-- SLI: TY 0, WH in FX [51] (R62). -/
def decSli (x : Src) : Dec Instr := do
  x.chkLen true [x.f.a]
  zero x.f.c
  zero x.f.b
  zero (x.f.fn.extractLsb' 2 7)
  zero (x.f.fn.extractLsb' 0 1)
  let cond ← x.cond
  let _ ← x.ty (· == .s64)
  let d ← x.sreg x.f.d
  let a ← x.operand Operand.isSImm32 x.f.a
  return .sli { c := x.ctl, cond, w1 := x.f.fn.getLsbD 1, d, a }

/-! ### Class 1 (R65 to R73) -/

/-- The branch layout is 64 bits only; DISP stands in [63:34] (R35, R44). -/
def Src.disp (x : Src) : BitVec 30 := x.f.fn ++ x.f.c ++ x.f.b

/-- BR and CALL: D and A unused. -/
def decBranch (x : Src) (mk : Branch → Instr) : Dec Instr := do
  check (x.len = .l64) .notPermitted
  zero x.f.d
  zero x.f.a
  let cond ← x.cond
  return mk { c := x.ctl, cond, r := .s 0, disp := x.disp }

/-- BRC: D is S1 to S63 (R65). -/
def decBrc (x : Src) : Dec Instr := do
  check (x.len = .l64) .notPermitted
  zero x.f.a
  let cond ← x.cond
  let d ← x.sreg x.f.d
  check (d != 0) .notPermitted
  return .brc { c := x.ctl, cond, r := .s d, disp := x.disp }

/-- BRZ, BRNZ, BRMZ, BRMA: A names the register tested (R65). -/
def decBrTest (x : Src) (ok : Operand → Bool) (mk : Branch → Instr) : Dec Instr := do
  check (x.len = .l64) .notPermitted
  zero x.f.d
  let cond ← x.cond
  let r ← x.operand ok x.f.a
  return mk { c := x.ctl, cond, r, disp := x.disp }

/-- CALLI, RET, JMPI, SLEEP: D, B, C and FN zero (R66, R73). -/
def decJump (x : Src) (ok : Operand → Bool) (mk : Jump → Instr) : Dec Instr := do
  x.chkLen true [x.f.a]
  zero x.f.d
  zero x.f.b
  zero x.f.c
  zero x.f.fn
  let cond ← x.cond
  let a ← x.operand ok x.f.a
  return mk { c := x.ctl, cond, a }

/-- m of the mask instructions: K, S, EXEC, inline, LIT32 (R68). -/
def maskSrc (o : Operand) : Bool := o.isK || o.isSImm32 || o == .exec

def decMask (x : Src) (sOnly : Bool) (mk : MaskOp → Instr) : Dec Instr := do
  x.chkLen true [x.f.a]
  zero x.f.b
  zero x.f.c
  zero (x.f.fn.extractLsb' 1 13)
  let cond ← x.cond
  let d ← x.operand (fun o => o.isS || (o.isK && !sOnly)) x.f.d
  let m ← x.operand maskSrc x.f.a
  return mk { c := x.ctl, cond, fs := x.f.fn.getLsbD 0, d, m }

def decMget (x : Src) : Dec Instr := do
  x.chkLen true []
  zero x.f.a
  zero x.f.b
  zero x.f.c
  zero (x.f.fn.extractLsb' 1 13)
  let cond ← x.cond
  let d ← x.operand (fun o => o.isS || o.isK) x.f.d
  return .mget { c := x.ctl, cond, fs := x.f.fn.getLsbD 0, d }

def decFmtset (x : Src) : Dec Instr := do
  x.chkLen true [x.f.a]
  zero x.f.d
  zero x.f.b
  zero x.f.c
  zero x.f.fn
  let cond ← x.cond
  let a ← x.operand Operand.isSImm32 x.f.a
  return .fmtset { c := x.ctl, cond, a }

def decFmtget (x : Src) : Dec Instr := do
  x.chkLen true []
  zero x.f.a
  zero x.f.b
  zero x.f.c
  zero x.f.fn
  let cond ← x.cond
  let d ← x.sreg x.f.d
  return .fmtget { c := x.ctl, cond, d }

/-- SRN in FX [57:50] (R70). -/
def Src.srn (x : Src) : BitVec 8 := x.f.fn.extractLsb' 0 8

def decGetsr (x : Src) : Dec Instr := do
  x.chkLen true []
  zero x.f.a
  zero x.f.b
  zero x.f.c
  zero (x.f.fn.extractLsb' 8 6)
  let cond ← x.cond
  let d ← x.sreg x.f.d
  return .getsr { c := x.ctl, cond, srn := x.srn, d }

def decSetsr (x : Src) : Dec Instr := do
  x.chkLen true [x.f.a]
  zero x.f.d
  zero x.f.b
  zero x.f.c
  zero (x.f.fn.extractLsb' 8 6)
  let cond ← x.cond
  let a ← x.operand Operand.isSImm x.f.a
  return .setsr { c := x.ctl, cond, srn := x.srn, a }

/-- TRAP: n in FX [57:50]; A is absent when 0x00 (R38, R71). -/
def decTrap (x : Src) : Dec Instr := do
  x.chkLen true [x.f.a]
  zero x.f.d
  zero x.f.b
  zero x.f.c
  zero (x.f.fn.extractLsb' 8 6)
  let cond ← x.cond
  if x.f.a == 0 then return .trap { c := x.ctl, cond, n := x.srn, a := none }
  let a ← x.operand Operand.isSImm x.f.a
  return .trap { c := x.ctl, cond, n := x.srn, a := some a }

/-- TRET, BKPT, YIELD: every other field zero. -/
def decPlain (x : Src) (mk : Plain → Instr) : Dec Instr := do
  x.chkLen true []
  zero x.f.d
  zero x.f.a
  zero x.f.b
  zero x.f.c
  zero x.f.fn
  let cond ← x.cond
  return mk { c := x.ctl, cond }

/-- NOP: 64 bits, COND among the fields that are zero (R72). -/
def decNop (x : Src) : Dec Instr := do
  check (x.len = .l64) .notPermitted
  zero x.f.d
  zero x.f.a
  zero x.f.b
  zero x.f.c
  zero x.f.fn
  zero x.f.gc
  return .nop { c := x.ctl, cond := .al }

/-- PIDLE: any length, every field zero, SW and SP included (R45, R72). -/
def decPidle (x : Src) : Dec Instr := do
  zero x.f.d
  zero x.f.a
  zero x.f.b
  zero x.f.c
  zero x.f.fn
  zero x.f.gc
  zero x.f.sw
  zero x.f.sp
  return .pidle x.ctl

/-- The LIVE word (R24). -/
def LiveWord.ofBits (w : BitVec 64) : LiveWord where
  lnt := w.getLsbD 63
  mtx := w.getLsbD 62
  lh := w.extractLsb' 46 16
  lk := w.extractLsb' 38 8
  lv := w.extractLsb' 22 16
  ls := w.extractLsb' 14 8
  sp := w.getLsbD 5
  sw := w.getLsbD 4

def bit (b : Bool) : BitVec 1 := if b then 1#1 else 0#1

def LiveWord.bits (l : LiveWord) : BitVec 64 :=
  bit l.lnt ++ bit l.mtx ++ l.lh ++ l.lk ++ l.lv ++ l.ls ++ 0x3F#8 ++ bit l.sp ++ bit l.sw ++ 0#2 ++ 0#2

/-- Order 4 for LIVE: 64 bits only; no other field is checked (R25). -/
def decLive (x : Src) : Dec Instr := do
  check (x.len = .l64) .notPermitted
  return .live (LiveWord.ofBits x.w)

/-! ### Classes 2 and 3 (R116, R120, R127) -/

/-- A source of class 2; `wide` for a 64-bit operand, whose V register is an even pair (R116, R126). -/
def Src.vsrc (x : Src) (wide : Bool) (c : BitVec 8) : Dec Operand := do
  let o ← x.operand (fun o => o.isV || o.isSImm32 || o == .pln || o == .laneid || (wide && o == .lit64)) c
  match o with
  | .v n => check (!wide || n.val % 2 == 0) .notPermitted
  | _ => .ok ()
  return o

/-- A source of VADD64: an even pair, S, an inline code, LIT32 or LIT64 (R126). -/
def Src.pairSrc (x : Src) (c : BitVec 8) : Dec Operand := do
  let o ← x.operand (fun o => o.isV || o.isSImm) c
  match o with
  | .v n => check (n.val % 2 == 0) .notPermitted
  | _ => .ok ()
  return o

/-- A source of class 3 (R116). -/
def Src.fsrc (x : Src) (c : BitVec 8) : Dec Operand := x.operand (fun o => o.isV || o.isSImm32) c

/-- TY sets of class 2 (R120). -/
def Ty.isW32 : Ty → Bool
  | .s32 | .n32 | .b32 => true
  | _ => false
def Ty.isPackable : Ty → Bool
  | .s32 | .n32 | .b32 | .s16 | .n16 | .s8 | .n8 => true
  | _ => false
def Ty.isSatType : Ty → Bool
  | .s32 | .n32 | .s16 | .n16 | .s8 | .n8 => true
  | _ => false
def Ty.isAbsType : Ty → Bool
  | .s32 | .s16 | .s8 => true
  | _ => false
def Ty.isMovType : Ty → Bool
  | .s32 | .n32 | .b32 | .b64 => true
  | _ => false
/-- TY of VMULW (R120). -/
def Ty.isMulwType : Ty → Bool
  | .s32 | .n32 => true
  | _ => false
def Ty.isWide : Ty → Bool
  | .s64 | .n64 | .b64 => true
  | _ => false
/-- TY of class 3 (R127). -/
def Ty.isLaneFloat : Ty → Bool
  | .f32 | .f16 | .bf16 => true
  | _ => false
def Ty.isHalf : Ty → Bool
  | .f16 | .bf16 => true
  | _ => false

/-- Two-source instructions of class 2; `dw` and `sw` for a pair as destination and as sources. -/
def decVBinary (x : Src) (tys : Ty → Bool) (dw sw : Bool) (mk : VBinary → Instr) : Dec Instr := do
  x.chkLen sw [x.f.a, x.f.b]
  zero x.f.c
  zero (x.f.fn.extractLsb' 0 9)
  let ty ← x.ty tys
  let d ← x.vreg dw x.f.d
  let src := if sw then x.pairSrc else x.vsrc false
  let a ← src x.f.a
  let b ← src x.f.b
  return mk { c := x.ctl, g := x.guard, ty, d, a, b }

def decVmad (x : Src) : Dec Instr := do
  x.chkLen false [x.f.a, x.f.b, x.f.c]
  zero (x.f.fn.extractLsb' 0 9)
  let ty ← x.ty Ty.isW32
  let d ← x.vreg false x.f.d
  let a ← x.vsrc false x.f.a
  let b ← x.vsrc false x.f.b
  let cc ← x.vsrc false x.f.c
  return .vmad { c := x.ctl, g := x.guard, ty, d, a, b, cc }

/-- VPOPC, VCLZ, VMOV: the 128-bit form only for a 64-bit operand (R120). -/
def decVUnary (x : Src) (tys : Ty → Bool) (mk : VUnary → Instr) : Dec Instr := do
  let wide := x.f.fn.extractLsb' 9 5 == Ty.b64.code && tys .b64
  x.chkLen wide [x.f.a]
  zero x.f.b
  zero x.f.c
  zero (x.f.fn.extractLsb' 0 9)
  let ty ← x.ty tys
  let d ← x.vreg wide x.f.d
  let a ← x.vsrc wide x.f.a
  return mk { c := x.ctl, g := x.guard, ty, d, a }

/-- VABS: SAT in [50] (R123). -/
def decVabs (x : Src) : Dec Instr := do
  x.chkLen false [x.f.a]
  zero x.f.b
  zero x.f.c
  zero (x.f.fn.extractLsb' 1 8)
  let ty ← x.ty Ty.isAbsType
  let d ← x.vreg false x.f.d
  let a ← x.vsrc false x.f.a
  return .vabs { c := x.ctl, g := x.guard, ty, sat := x.f.fn.getLsbD 0, d, a }

/-- VCMP: CC in [52:50], 6 and 7 reserved (R124). -/
def decVcmp (x : Src) : Dec Instr := do
  x.chkLen false [x.f.a, x.f.b]
  zero x.f.c
  zero (x.f.fn.extractLsb' 3 6)
  let ty ← x.ty Ty.isW32
  let cc := x.f.fn.extractLsb' 0 3
  check (cc.toNat < 6) .reservedValue
  let d ← x.kreg x.f.d
  let a ← x.vsrc false x.f.a
  let b ← x.vsrc false x.f.b
  return .vcmp { c := x.ctl, g := x.guard, ty, cc := ⟨cc.toNat, cc.isLt⟩, d, a, b }

def decVsel (x : Src) : Dec Instr := do
  x.chkLen false [x.f.a, x.f.b, x.f.c]
  zero (x.f.fn.extractLsb' 0 9)
  let ty ← x.ty Ty.isW32
  let d ← x.vreg false x.f.d
  let a ← x.vsrc false x.f.a
  let b ← x.vsrc false x.f.b
  let k ← x.kreg x.f.c
  return .vsel { c := x.ctl, g := x.guard, ty, d, a, b, k }

/-- VDOT4: BN in [50] (R126). -/
def decVdot4 (x : Src) : Dec Instr := do
  x.chkLen false [x.f.a, x.f.b, x.f.c]
  zero (x.f.fn.extractLsb' 1 8)
  let ty ← x.ty fun t => t == .s8 || t == .n8
  let d ← x.vreg false x.f.d
  let a ← x.vsrc false x.f.a
  let b ← x.vsrc false x.f.b
  let cc ← x.vsrc false x.f.c
  return .vdot4 { c := x.ctl, g := x.guard, ty, bn := x.f.fn.getLsbD 0, d, a, b, cc }

def decVFBinary (x : Src) (tys : Ty → Bool) (mk : VFBinary → Instr) : Dec Instr := do
  x.chkLen false [x.f.a, x.f.b]
  zero x.f.c
  zero (x.f.fn.extractLsb' 4 5)
  zero (x.f.fn.extractLsb' 0 1)
  let ty ← x.ty tys
  let rm ← x.rm
  let d ← x.vreg false x.f.d
  let a ← x.fsrc x.f.a
  let b ← x.fsrc x.f.b
  return mk { c := x.ctl, g := x.guard, ty, rm, d, a, b }

def decVFTernary (x : Src) (tys : Ty → Bool) (mk : VFTernary → Instr) : Dec Instr := do
  x.chkLen false [x.f.a, x.f.b, x.f.c]
  zero (x.f.fn.extractLsb' 4 5)
  zero (x.f.fn.extractLsb' 0 1)
  let ty ← x.ty tys
  let rm ← x.rm
  let d ← x.vreg false x.f.d
  let a ← x.fsrc x.f.a
  let b ← x.fsrc x.f.b
  let cc ← x.fsrc x.f.c
  return mk { c := x.ctl, g := x.guard, ty, rm, d, a, b, cc }

def decVFUnary (x : Src) (mk : VFUnary → Instr) : Dec Instr := do
  x.chkLen false [x.f.a]
  zero x.f.b
  zero x.f.c
  zero (x.f.fn.extractLsb' 4 5)
  zero (x.f.fn.extractLsb' 0 1)
  let ty ← x.ty Ty.isLaneFloat
  let rm ← x.rm
  let d ← x.vreg false x.f.d
  let a ← x.fsrc x.f.a
  return mk { c := x.ctl, g := x.guard, ty, rm, d, a }

/-- VFABS, VFNEG, VFCLASS: RM zero (R127). -/
def decVFPlain (x : Src) (mk : VUnary → Instr) : Dec Instr := do
  x.chkLen false [x.f.a]
  zero x.f.b
  zero x.f.c
  zero (x.f.fn.extractLsb' 0 9)
  let ty ← x.ty Ty.isLaneFloat
  let d ← x.vreg false x.f.d
  let a ← x.fsrc x.f.a
  return mk { c := x.ctl, g := x.guard, ty, d, a }

/-- VFMIN, VFMAX: NANP in [54] (R127, R129). -/
def decVFMinMax (x : Src) (mk : VFMinMax → Instr) : Dec Instr := do
  x.chkLen false [x.f.a, x.f.b]
  zero x.f.c
  zero (x.f.fn.extractLsb' 5 4)
  zero (x.f.fn.extractLsb' 0 4)
  let ty ← x.ty Ty.isLaneFloat
  let d ← x.vreg false x.f.d
  let a ← x.fsrc x.f.a
  let b ← x.fsrc x.f.b
  return mk { c := x.ctl, g := x.guard, ty, nanp := x.f.fn.getLsbD 4, d, a, b }

/-- VFCMP: CC in [56:54] (R131). -/
def decVfcmp (x : Src) : Dec Instr := do
  x.chkLen false [x.f.a, x.f.b]
  zero x.f.c
  zero (x.f.fn.extractLsb' 7 2)
  zero (x.f.fn.extractLsb' 0 4)
  let ty ← x.ty Ty.isLaneFloat
  let cc := x.f.fn.extractLsb' 4 3
  let d ← x.kreg x.f.d
  let a ← x.fsrc x.f.a
  let b ← x.fsrc x.f.b
  return .vfcmp { c := x.ctl, g := x.guard, ty, cc := ⟨cc.toNat, cc.isLt⟩, d, a, b }

/-! ### Class 5 (R136, R215 to R231) -/

/-- Element size in bytes (R136); 0 for the 4-bit types and .b1, which no access takes. -/
def Ty.bytes : Ty → Nat
  | .s8 | .n8 | .e4m3 | .e5m2 | .e8m0 => 1
  | .s16 | .n16 | .f16 | .bf16 => 2
  | .s32 | .n32 | .b32 | .f32 => 4
  | .s64 | .n64 | .b64 => 8
  | .s4 | .b1 | .e2m1 => 0

/-- The load set (R215). -/
def Ty.isLoad (t : Ty) : Bool := t.bytes != 0

/-- TY of LDC and STC (R215). -/
def Ty.isCst : Ty → Bool
  | .s32 | .n32 | .b32 | .f32 => true
  | _ => false

def Src.scoBits (x : Src) : BitVec 3 := x.f.fn.extractLsb' 6 3
def Src.ordBits (x : Src) : BitVec 2 := x.f.fn.extractLsb' 4 2

/-- Order 5: SCO other than 0 with ORD = 0 (R136, R215). -/
def Src.chkSco (x : Src) : Dec Unit := check (x.scoBits == 0#3 || x.ordBits != 0#2) .reservedBit

/-- SCO up to `max` (R215). -/
def Src.sco (x : Src) (max : Nat) : Dec Scope := do
  check (x.scoBits.toNat ≤ max) .reservedValue
  need .reservedValue (Scope.ofCode x.scoBits)

/-- ORD within the codes accepted (R215). -/
def Src.ord (x : Src) (ok : List Ord) : Dec Ord := do
  let o := Ord.ofCode x.ordBits
  check (ok.contains o) .reservedValue
  return o

def Src.cp (x : Src) : Dec Cp := need .reservedValue (Cp.ofCode (x.f.fn.extractLsb' 2 2))

/-- Offset B of a once-per-group global access: S, inline, LIT32, LIT64 (R217). -/
def Src.offS (x : Src) : Dec Operand := x.operand Operand.isSImm x.f.b

def decLds (x : Src) : Dec Instr := do
  x.chkLen true [x.f.a, x.f.b]
  zero x.f.c
  zero (x.f.fn.extractLsb' 0 2)
  x.chkSco
  let cond ← x.cond
  let ty ← x.ty Ty.isLoad
  let sco ← x.sco 5
  let ord ← x.ord [.relaxed, .acq]
  let cp ← x.cp
  let d ← x.sreg x.f.d
  let a ← x.sreg x.f.a
  let b ← x.offS
  return .lds { c := x.ctl, cond, ty, sco, ord, cp, d, a, b }

/-- LIT64 as data: under the 64-bit types, and under the formats of 8 bits, of which R41 does not speak
(notes/assumptions/88). -/
def Ty.takesLit64 : Ty → Bool
  | .s64 | .n64 | .b64 | .e4m3 | .e5m2 | .e8m0 => true
  | _ => false

/-- Data of a once-per-group store or atomic: S, inline, LIT32, and LIT64 where the type has it (R41, R217). -/
def Src.dataS (x : Src) (ty : Ty) : Dec Operand := x.operand (fun o => o.isSImm32 || (ty.takesLit64 && o == .lit64)) x.f.c

def decSts (x : Src) : Dec Instr := do
  x.chkLen true [x.f.a, x.f.b, x.f.c]
  zero x.f.d
  zero (x.f.fn.extractLsb' 0 2)
  x.chkSco
  let cond ← x.cond
  let ty ← x.ty Ty.isLoad
  let sco ← x.sco 5
  let ord ← x.ord [.relaxed, .rel]
  let cp ← x.cp
  let a ← x.sreg x.f.a
  let b ← x.offS
  let data ← x.dataS ty
  return .sts { c := x.ctl, cond, ty, sco, ord, cp, a, b, data }

/-- A base of LDV, STV, LDRO and ATOMV: an S register or an even V pair (R136). -/
def Src.baseV (x : Src) : Dec Operand := do
  let o ← x.operand (fun o => o.isS || o.isV) x.f.a
  match o with
  | .v n => check (n.val % 2 == 0) .notPermitted
  | _ => .ok ()
  return o

/-- An offset of LDV, STV, LDRO and ATOMV (R136). -/
def Src.offV (x : Src) : Dec Operand := x.operand (fun o => o.isV || o.isSImm) x.f.b

/-- Store or atomic data per lane: a V register, an even pair for an 8-byte type, S, inline, LIT32 (R136, R217). -/
def Src.dataV (x : Src) (ty : Ty) (lit64 : Bool) : Dec Operand := do
  let o ← x.operand (fun o => o.isV || o.isSImm32 || (lit64 && o == .lit64)) x.f.c
  match o with
  | .v n => check (!ty.isWide || n.val % 2 == 0) .notPermitted
  | _ => .ok ()
  return o

def decLdv (x : Src) : Dec Instr := do
  x.chkLen true [x.f.a, x.f.b]
  zero x.f.c
  zero (x.f.fn.extractLsb' 0 2)
  x.chkSco
  let ty ← x.ty Ty.isLoad
  let sco ← x.sco 5
  let ord ← x.ord [.relaxed, .acq]
  let cp ← x.cp
  let d ← x.vreg ty.isWide x.f.d
  let a ← x.baseV
  let b ← x.offV
  return .ldv { c := x.ctl, g := x.guard, ty, sco, ord, cp, d := .v d, a, b }

def decStv (x : Src) : Dec Instr := do
  x.chkLen true [x.f.a, x.f.b, x.f.c]
  zero x.f.d
  zero (x.f.fn.extractLsb' 0 2)
  x.chkSco
  let ty ← x.ty Ty.isLoad
  let sco ← x.sco 5
  let ord ← x.ord [.relaxed, .rel]
  let cp ← x.cp
  let a ← x.baseV
  let b ← x.offV
  let data ← x.dataV ty false
  return .stv { c := x.ctl, g := x.guard, ty, sco, ord, cp, a, b, data }

/-- A destination of LDL, LDA, LDC, LDRO: a V register, or, where there is a scalar form, an S register, which takes
guard 0b0000 and no V register (R221). -/
def Src.destL (x : Src) (ty : Ty) (scalar : Bool) : Dec Operand := do
  let o ← x.operand (fun o => o.isV || (scalar && o.isS)) x.f.d
  match o with
  | .v n => check (!ty.isWide || n.val % 2 == 0) .notPermitted
  | _ =>
    check (x.f.gc == 0#4 && !(x.f.a.toNat < 128) && !(x.f.b.toNat < 128)) .notPermitted
  return o

/-- A base of a typed-store access: S or V (R217). -/
def Src.baseL (x : Src) : Dec Operand := x.operand (fun o => o.isS || o.isV) x.f.a

/-- An offset of a typed-store access: V, S, inline, LIT32 (R217). -/
def Src.offL (x : Src) : Dec Operand := x.operand (fun o => o.isV || o.isSImm32) x.f.b

def decTypedLoad (x : Src) (tys : Ty → Bool) (scalar : Bool) (mk : VLoad → Instr) : Dec Instr := do
  x.chkLen true [x.f.a, x.f.b]
  zero x.f.c
  zero (x.f.fn.extractLsb' 0 4)
  x.chkSco
  let ty ← x.ty tys
  let sco ← x.sco 1
  let ord ← x.ord [.relaxed, .acq]
  let d ← x.destL ty scalar
  let a ← x.baseL
  let b ← x.offL
  return mk { c := x.ctl, g := x.guard, ty, sco, ord, cp := .ca, d, a, b }

def decTypedStore (x : Src) (tys : Ty → Bool) (mk : VStore → Instr) : Dec Instr := do
  x.chkLen true [x.f.a, x.f.b, x.f.c]
  zero x.f.d
  zero (x.f.fn.extractLsb' 0 4)
  x.chkSco
  let ty ← x.ty tys
  let sco ← x.sco 1
  let ord ← x.ord [.relaxed, .rel]
  let a ← x.baseL
  let b ← x.offL
  let data ← x.dataV ty false
  return mk { c := x.ctl, g := x.guard, ty, sco, ord, cp := .ca, a, b, data }

def decLdro (x : Src) : Dec Instr := do
  x.chkLen true [x.f.a, x.f.b]
  zero x.f.c
  zero (x.f.fn.extractLsb' 0 9)
  let ty ← x.ty Ty.isLoad
  let d ← x.destL ty true
  let a ← x.baseV
  let b ← x.offV
  return .ldro { c := x.ctl, g := x.guard, ty, sco := .grp, ord := .relaxed, cp := .ca, d, a, b }

def decPrf (x : Src) : Dec Instr := do
  x.chkLen true [x.f.a, x.f.b]
  zero x.f.d
  zero x.f.c
  zero (x.f.fn.extractLsb' 4 10)
  zero (x.f.fn.extractLsb' 0 2)
  let cond ← x.cond
  let cp ← x.cp
  check (cp != .cs) .reservedValue
  let a ← x.sreg x.f.a
  let b ← x.offS
  return .prf { c := x.ctl, cond, cp, a, b }

/-- TY that an AOP accepts (R224). -/
def Aop.accepts (o : Aop) (t : Ty) : Bool :=
  match o with
  | .xchg | .cas => t == .s32 || t == .n32 || t == .b32 || t == .f32 || t == .s64 || t == .n64 || t == .b64
  | .add | .min | .max => t == .s32 || t == .n32 || t == .s64 || t == .n64
  | .and | .or | .xor => t == .b32 || t == .b64 || t == .s32 || t == .n32 || t == .s64 || t == .n64
  | .fadd => t == .f32 || t == .f16 || t == .bf16
  | .fmin | .fmax | .famax => t == .f32

def Src.aop (x : Src) : Dec Aop := need .reservedValue (Aop.ofCode (x.f.fn.extractLsb' 0 4))

def Ord.all : List Ord := [.relaxed, .acq, .rel, .acqrel]

def decAtoms (x : Src) : Dec Instr := do
  x.chkLen true [x.f.a, x.f.b, x.f.c]
  x.chkSco
  let cond ← x.cond
  let aop ← x.aop
  let ty ← x.ty aop.accepts
  let sco ← x.sco 5
  let ord ← x.ord Ord.all
  let d ← if x.f.d == 0xC0 then (do check (aop != .cas) .notPermitted; return none) else some <$> x.sreg x.f.d
  let a ← x.sreg x.f.a
  let b ← x.offS
  let data ← x.dataS ty
  return .atoms { c := x.ctl, cond, aop, ty, sco, ord, d, a, b, data }

def decAtomv (x : Src) : Dec Instr := do
  x.chkLen true [x.f.a, x.f.b, x.f.c]
  x.chkSco
  let aop ← x.aop
  let ty ← x.ty aop.accepts
  let sco ← x.sco 5
  let ord ← x.ord Ord.all
  let d ← if x.f.d == 0xC0 then (do check (aop != .cas) .notPermitted; return none)
    else some <$> x.vreg ty.isWide x.f.d
  let a ← x.baseV
  let b ← x.offV
  let data ← x.dataV ty ty.takesLit64
  return .atomv { c := x.ctl, g := x.guard, aop, ty, sco, ord, d, a, b, data }

def decAtoml (x : Src) : Dec Instr := do
  x.chkLen true [x.f.a, x.f.b, x.f.c]
  x.chkSco
  let aop ← x.aop
  let ty ← x.ty aop.accepts
  let sco ← x.sco 1
  let ord ← x.ord Ord.all
  let d ← if x.f.d == 0xC0 then (do check (aop != .cas) .notPermitted; return none)
    else some <$> x.vreg ty.isWide x.f.d
  let a ← x.baseL
  let b ← x.offL
  let data ← x.dataV ty false
  return .atoml { c := x.ctl, g := x.guard, aop, ty, sco, ord, d, a, b, data }

def decFence (x : Src) : Dec Instr := do
  x.chkLen true []
  zero x.f.d
  zero x.f.a
  zero x.f.b
  zero x.f.c
  zero (x.f.fn.extractLsb' 9 5)
  zero (x.f.fn.extractLsb' 0 4)
  let cond ← x.cond
  let sco ← x.sco 5
  let ord ← x.ord [.acq, .rel, .acqrel]
  return .fence { c := x.ctl, cond, sco, ord }

/-- SEAL, UNSEAL: A is S, inline 0, LIT32 or LIT64; B is S, inline or LIT32 (R230). -/
def decSeal (x : Src) (mk : SealArgs → Instr) : Dec Instr := do
  x.chkLen true [x.f.a, x.f.b]
  zero x.f.c
  zero x.f.fn
  let cond ← x.cond
  let d ← x.sreg x.f.d
  let a ← x.operand (fun o => o.isS || o == .small 0 || o == .lit32 || o == .lit64) x.f.a
  let b ← x.operand Operand.isSImm32 x.f.b
  return mk { c := x.ctl, cond, d, a, b }

def decCflush (x : Src) : Dec Instr := do
  x.chkLen true []
  zero x.f.d
  zero x.f.a
  zero x.f.b
  zero x.f.c
  zero (x.f.fn.extractLsb' 9 5)
  zero (x.f.fn.extractLsb' 0 6)
  let cond ← x.cond
  let sco ← x.sco 5
  return .cflush { c := x.ctl, cond, sco }

/-- CINV: partition in [53:52], 3 reserved (R229). -/
def decCinv (x : Src) : Dec Instr := do
  x.chkLen true []
  zero x.f.d
  zero x.f.a
  zero x.f.b
  zero x.f.c
  zero (x.f.fn.extractLsb' 4 10)
  zero (x.f.fn.extractLsb' 0 2)
  let cond ← x.cond
  let sel : CacheSel ← match (x.f.fn.extractLsb' 2 2).toNat with
    | 0 => .ok .gen | 1 => .ok .ro | 2 => .ok .all | _ => .error .reservedValue
  return .cinv { c := x.ctl, cond, sel }

/-! ### Class 4 (R141 to R155) -/

/-- Set C and set P of R141. -/
def Ty.inSetC : Ty → Bool
  | .f32 | .f16 | .bf16 | .e4m3 | .e5m2 | .e2m1 | .s32 | .n32 | .s16 | .n16 | .s8 | .n8 | .s4 => true
  | _ => false
def Ty.inSetP : Ty → Bool
  | .s16 | .n16 | .s8 | .n8 | .s4 | .f16 | .bf16 | .e4m3 | .e5m2 | .e2m1 => true
  | _ => false
def Ty.isQuant : Ty → Bool
  | .e4m3 | .e5m2 | .e2m1 | .s8 | .s4 => true
  | _ => false
def Ty.isMx : Ty → Bool
  | .e4m3 | .e5m2 | .e2m1 => true
  | _ => false
def Ty.isUnpacked : Ty → Bool
  | .s32 | .n32 | .f32 => true
  | _ => false

/-- A source of a lane-executed class-4 instruction (R142). -/
def Src.csrc (x : Src) (c : BitVec 8) : Dec Operand := x.vsrc false c

/-- A uniform operand: S, inline, LIT32 (R150). -/
def Src.uni (x : Src) (c : BitVec 8) : Dec Operand := x.operand Operand.isSImm32 c

def decVcvt (x : Src) : Dec Instr := do
  x.chkLen false [x.f.a]
  zero x.f.b
  zero x.f.c
  let ty ← x.ty Ty.inSetC
  let ty2 ← x.ty2 Ty.inSetC
  let rm ← x.rm
  let d ← x.vreg false x.f.d
  let a ← x.csrc x.f.a
  return .vcvt { c := x.ctl, g := x.guard, ty, ty2, rm, sat := x.f.fn.getLsbD 0, d, a }

/-- VQNT and VDQNT: MODE in TY2's place; in mode 1 B and SAT are zero (R145, R146). -/
def decQuant (x : Src) (satUsed : Bool) (mk : Quant → Instr) : Dec Instr := do
  let mode := x.f.fn.extractLsb' 4 5
  let mx := mode == 1#5
  x.chkLen false (if mx then [x.f.a] else [x.f.a, x.f.b])
  if mx then zero x.f.b else .ok ()
  zero x.f.c
  if mx || !satUsed then zero (x.f.fn.extractLsb' 0 1) else .ok ()
  let ty ← x.ty fun t => if mx then t.isMx else t.isQuant
  check (mode.toNat < 2) .reservedValue
  let rm ← x.rm
  let d ← x.vreg false x.f.d
  let a ← x.csrc x.f.a
  let b ← if mx then .ok none else some <$> x.csrc x.f.b
  return mk { c := x.ctl, g := x.guard, ty, mx, rm, sat := x.f.fn.getLsbD 0, d, a, b }

def decVamax (x : Src) : Dec Instr := do
  x.chkLen false [x.f.a, x.f.b]
  zero x.f.c
  zero (x.f.fn.extractLsb' 0 9)
  let ty ← x.ty Ty.isLaneFloat
  let d ← x.vreg false x.f.d
  let a ← x.csrc x.f.a
  let b ← x.csrc x.f.b
  return .vamax { c := x.ctl, g := x.guard, ty, d, a, b }

def decPack (x : Src) (t1 t2 : Ty → Bool) (mk : Pack → Instr) : Dec Instr := do
  x.chkLen false [x.f.a, x.f.b]
  zero x.f.c
  let ty ← x.ty t1
  let ty2 ← x.ty2 t2
  let rm ← x.rm
  let d ← x.vreg false x.f.d
  let a ← x.csrc x.f.a
  let b ← x.csrc x.f.b
  return mk { c := x.ctl, g := x.guard, ty, ty2, rm, sat := x.f.fn.getLsbD 0, d, a, b }

/-- VBCAST, VSHUF, VSWZ: B per lane for VSHUF, uniform for the others (R150). -/
def decPermute (x : Src) (perLane : Bool) (mk : Permute → Instr) : Dec Instr := do
  x.chkLen false [x.f.a, x.f.b]
  zero x.f.c
  zero (x.f.fn.extractLsb' 0 9)
  let _ ← x.ty (· == .b32)
  let d ← x.vreg false x.f.d
  let a ← x.vreg false x.f.a
  let b ← x.operand (fun o => o.isSImm32 || (perLane && o.isV)) x.f.b
  return mk { c := x.ctl, g := x.guard, d, a, b }

def LaneMode.code : LaneMode → BitVec 2
  | .rot => 0 | .up => 1 | .dn => 2 | .xor => 3
def LaneMode.ofCode (c : BitVec 2) : LaneMode :=
  match c.toNat with
  | 0 => .rot | 1 => .up | 2 => .dn | _ => .xor

def decVlane (x : Src) : Dec Instr := do
  x.chkLen false [x.f.a, x.f.b]
  zero x.f.c
  zero (x.f.fn.extractLsb' 6 3)
  zero (x.f.fn.extractLsb' 0 4)
  let _ ← x.ty (· == .b32)
  let d ← x.vreg false x.f.d
  let a ← x.vreg false x.f.a
  let b ← x.uni x.f.b
  return .vlane { c := x.ctl, g := x.guard, mode := LaneMode.ofCode (x.f.fn.extractLsb' 4 2), d, a, b }

def RedOp.code : RedOp → BitVec 3
  | .add => 0 | .min => 1 | .max => 2 | .and => 3 | .or => 4 | .xor => 5 | .amax => 6
def RedOp.ofCode (c : BitVec 3) : Option RedOp :=
  match c.toNat with
  | 0 => some .add | 1 => some .min | 2 => some .max | 3 => some .and | 4 => some .or | 5 => some .xor
  | 6 => some .amax | _ => none

/-- Types of an OPR (R152). -/
def RedOp.accepts (o : RedOp) (t : Ty) : Bool :=
  match o with
  | .add | .min | .max => t == .f32 || t == .s32 || t == .n32 || t == .b32
  | .and | .or | .xor => t == .s32 || t == .n32 || t == .b32
  | .amax => t == .f32

/-- VSCAN and VRED: RM only for ADD of .f32 (R141, R152). -/
def decReduce (x : Src) (scan : Bool) (mk : Reduce → Instr) : Dec Instr := do
  x.chkLen false [x.f.a]
  zero x.f.b
  zero x.f.c
  zero (x.f.fn.extractLsb' 8 1)
  if scan then .ok () else zero (x.f.fn.extractLsb' 7 1)
  if x.f.fn.extractLsb' 4 3 == 0#3 && x.f.fn.extractLsb' 9 5 == Ty.f32.code then .ok ()
  else zero (x.f.fn.extractLsb' 1 3)
  zero (x.f.fn.extractLsb' 0 1)
  let op ← need .reservedValue (RedOp.ofCode (x.f.fn.extractLsb' 4 3))
  let ty ← x.ty op.accepts
  let rm ← x.rm
  let d ← x.vreg false x.f.d
  let a ← x.csrc x.f.a
  return mk { c := x.ctl, g := x.guard, op, excl := x.f.fn.getLsbD 7, ty, rm, d, a }

/-- A V register within the allocation, or another register kind (R153). -/
def decVballot (x : Src) : Dec Instr := do
  x.chkLen false [x.f.a]
  zero x.f.b
  zero x.f.c
  zero (x.f.fn.extractLsb' 0 9)
  let _ ← x.ty (· == .b32)
  let d ← x.operand (fun o => o.isV || o.isK) x.f.d
  let a ← x.csrc x.f.a
  return .vballot { c := x.ctl, g := x.guard, d, a }

def VoteMode.code : VoteMode → BitVec 2
  | .all => 0 | .any => 1 | .eq => 2 | .cnt => 3
def VoteMode.ofCode (c : BitVec 2) : VoteMode :=
  match c.toNat with
  | 0 => .all | 1 => .any | 2 => .eq | _ => .cnt

def decVvote (x : Src) : Dec Instr := do
  x.chkLen false [x.f.a]
  zero x.f.b
  zero x.f.c
  zero (x.f.fn.extractLsb' 6 3)
  zero (x.f.fn.extractLsb' 0 4)
  let _ ← x.ty (· == .b32)
  let d ← x.operand (fun o => o.isV || o.isS) x.f.d
  let a ← x.csrc x.f.a
  return .vvote { c := x.ctl, g := x.guard, mode := VoteMode.ofCode (x.f.fn.extractLsb' 4 2), d, a }

def decVrdlane (x : Src) : Dec Instr := do
  x.chkLen false [x.f.a, x.f.b]
  zero x.f.c
  zero (x.f.fn.extractLsb' 0 9)
  let _ ← x.ty (· == .b32)
  let d ← x.sreg x.f.d
  let a ← x.vreg false x.f.a
  let b ← x.uni x.f.b
  return .vrdlane { c := x.ctl, g := x.guard, d, a, b }

def decVwrlane (x : Src) : Dec Instr := do
  x.chkLen false [x.f.a, x.f.b]
  zero x.f.c
  zero (x.f.fn.extractLsb' 0 9)
  let _ ← x.ty (· == .b32)
  let d ← x.vreg false x.f.d
  let a ← x.uni x.f.a
  let b ← x.uni x.f.b
  return .vwrlane { c := x.ctl, g := x.guard, d, a, b }

def KMode.code : KMode → BitVec 3
  | .and => 0 | .or => 1 | .xor => 2 | .andn => 3 | .orn => 4 | .nand => 5 | .nor => 6 | .xnor => 7
def KMode.ofCode (c : BitVec 3) : KMode :=
  match c.toNat with
  | 0 => .and | 1 => .or | 2 => .xor | 3 => .andn | 4 => .orn | 5 => .nand | 6 => .nor | _ => .xnor

/-- KOP: MODE in [56:54], TY 0 (R154). -/
def decKop (x : Src) : Dec Instr := do
  x.chkLen false [x.f.a, x.f.b]
  zero x.f.c
  zero (x.f.fn.extractLsb' 7 7)
  zero (x.f.fn.extractLsb' 0 4)
  let cond ← x.cond
  let d ← x.operand (fun o => o.isS || o.isK) x.f.d
  let a ← x.operand maskSrc x.f.a
  let b ← x.operand maskSrc x.f.b
  return .kop { c := x.ctl, cond, mode := KMode.ofCode (x.f.fn.extractLsb' 4 3), d, a, b }

def decKmov (x : Src) : Dec Instr := do
  x.chkLen false [x.f.a]
  zero x.f.b
  zero x.f.c
  zero x.f.fn
  let cond ← x.cond
  let d ← x.operand (fun o => o.isS || o.isK) x.f.d
  let a ← x.operand maskSrc x.f.a
  return .kmov { c := x.ctl, cond, d, a }

/-- D of PSET and PSELK is PLN only (R155). -/
def decPset (x : Src) : Dec Instr := do
  x.chkLen false [x.f.a]
  zero x.f.b
  zero x.f.c
  zero x.f.fn
  let _ ← x.operand (· == .pln) x.f.d
  let a ← x.csrc x.f.a
  return .pset { c := x.ctl, g := x.guard, a }

def decPselk (x : Src) : Dec Instr := do
  x.chkLen false [x.f.a, x.f.b]
  zero x.f.c
  zero x.f.fn
  let _ ← x.operand (· == .pln) x.f.d
  let a ← x.kreg x.f.a
  let b ← x.kreg x.f.b
  return .pselk { c := x.ctl, g := x.guard, a, b }

/-- PGET: a V destination with B zero, or a K destination with B inline 0 to 3 (R155). -/
def decPget (x : Src) : Dec Instr := do
  x.chkLen false (if x.f.d.toNat < 128 then [] else [x.f.b])
  zero x.f.a
  if x.f.d.toNat < 128 then zero x.f.b else .ok ()
  zero x.f.c
  zero x.f.fn
  let d ← x.operand (fun o => o.isV || o.isK) x.f.d
  match d with
  | .k n =>
    match Operand.ofCode x.f.b with
    | some (.small p) =>
      if h : p.val < 4 then return .pget { c := x.ctl, g := x.guard, d := .k n ⟨p.val, h⟩ }
      else .error .notPermitted
    | _ => .error .notPermitted
  | .v n => return .pget { c := x.ctl, g := x.guard, d := .v n }
  | _ => .error .notPermitted

/-! ### Class 6 (R297 to R311) -/

/-- Order 4 for a class with EXT (R44, R45): `ext` tells that the entry defines extension fields. -/
def Src.chkExt (x : Src) (ext : Bool) : Dec Unit :=
  match x.len with
  | .l64 => .ok ()
  | .l96 => .error .notPermitted
  | .l128 => check (ext && !([x.f.d, x.f.a, x.f.b, x.f.c].contains 0xFF)) .notPermitted

/-- CT or FX2, SHE, SH and FX of classes 6 and 7 (R46). -/
def Src.ctBits (x : Src) : BitVec 3 := x.f.fn.extractLsb' 11 3
def Src.sheBit (x : Src) : BitVec 1 := x.f.fn.extractLsb' 10 1
def Src.shBits (x : Src) : BitVec 4 := x.f.fn.extractLsb' 6 4
def Src.fx (x : Src) (lo n : Nat) : BitVec n := x.f.fn.extractLsb' (lo - 50) n

/-- SH must be zero when SHE is 0 (R46). -/
def Src.chkSh (x : Src) : Dec Unit := check (x.sheBit == 1#1 || x.shBits == 0#4) .reservedBit

/-- The start condition (R240). -/
def Src.sh (x : Src) : Option (Fin 16) := if x.sheBit = 1#1 then some ⟨x.shBits.toNat, x.shBits.isLt⟩ else none

/-- No start condition (R259). -/
def Src.noSh (x : Src) : Dec Unit := do
  zero x.sheBit
  zero x.shBits

def Src.ct (x : Src) : Fin 8 := ⟨x.ctBits.toNat, x.ctBits.isLt⟩

/-- An offset or count: an S register or 0xD8 to 0xE7 (R260, R298). -/
def Operand.isOff : Operand → Bool
  | .s _ | .small _ => true
  | _ => false

def Src.off (x : Src) (c : BitVec 8) : Dec Operand := x.operand Operand.isOff c

/-- An offset that the 128-bit form carries in EXT (R298). -/
def Src.offExt (x : Src) (c : BitVec 8) : Dec (Option Operand) :=
  match x.len with
  | .l128 => .ok none
  | _ => do return some (← x.off c)

/-- Order 5 of a 128-bit block command: operand fields that are absent, and reserved EXT bits (R298). -/
def Src.zeroExt (x : Src) (a boff aoff : Bool) : Dec Unit :=
  match x.len with
  | .l128 => do
    if a then zero x.f.a
    zero x.f.b
    zero x.f.c
    zero (x.hi.extractLsb' 50 14)
    if boff then zero (x.hi.extractLsb' 21 21)
    if aoff then zero (x.hi.extractLsb' 0 21)
  | _ => .ok ()

def decMma (x : Src) (mk : MmaArgs → Instr) : Dec Instr := do
  x.chkExt true
  x.zeroExt true false false
  zero (x.fx 51 5)
  x.chkSh
  let cond ← x.cond
  let d ← x.hreg x.f.d
  let a ← x.offExt x.f.a
  let b ← x.offExt x.f.b
  let kb ← x.offExt x.f.c
  return mk { c := x.ctl, cond, ct := x.ct, sh := x.sh, zr := x.f.fn.getLsbD 0, d, a, b, kb }

def decMmab (x : Src) : Dec Instr := do
  x.chkExt true
  x.zeroExt true false false
  zero (x.fx 52 4)
  x.chkSh
  let cond ← x.cond
  let d ← x.hreg x.f.d
  let a ← x.offExt x.f.a
  let b ← x.offExt x.f.b
  let kb ← x.offExt x.f.c
  return .mmab { m := { c := x.ctl, cond, ct := x.ct, sh := x.sh, zr := x.f.fn.getLsbD 0, d, a, b, kb },
                 andOp := x.f.fn.getLsbD 1 }

def decMmav (x : Src) : Dec Instr := do
  x.chkExt true
  x.zeroExt false false true
  x.chkSh
  let cond ← x.cond
  let d ← x.hreg x.f.d
  let a ← x.vreg false x.f.a
  let b ← x.offExt x.f.b
  let kb ← x.offExt x.f.c
  return .mmav { c := x.ctl, cond, ct := x.ct, sh := x.sh, zr := x.f.fn.getLsbD 0, mz := x.f.fn.getLsbD 1,
                 rq := ⟨(x.fx 52 2).toNat, (x.fx 52 2).isLt⟩, kdm := ⟨(x.fx 54 2).toNat, (x.fx 54 2).isLt⟩, d, a, b, kb }

def Src.ts (x : Src) : Fin 2 := if x.f.fn.getLsbD 1 then 1 else 0

def decMtap (x : Src) : Dec Instr := do
  x.chkExt true
  x.zeroExt true true false
  zero x.f.b
  zero (x.fx 53 3)
  x.chkSh
  let cond ← x.cond
  let d ← x.hreg x.f.d
  let a ← x.offExt x.f.a
  let kb ← x.offExt x.f.c
  return .mtap { c := x.ctl, cond, ct := x.ct, sh := x.sh, zr := x.f.fn.getLsbD 0, ts := x.ts, pr := x.f.fn.getLsbD 2,
                 d, a, kb }

def decMldt (x : Src) : Dec Instr := do
  x.chkExt false
  zero x.f.b
  zero x.f.c
  zero x.ctBits
  zero (x.fx 52 4)
  zero (x.fx 50 1)
  x.chkSh
  let cond ← x.cond
  let d ← x.hreg x.f.d
  let a ← x.off x.f.a
  return .mldt { c := x.ctl, cond, sh := x.sh, ts := x.ts, d, a }

def decMsort (x : Src) : Dec Instr := do
  x.chkExt false
  zero x.f.c
  zero x.ctBits
  zero (x.fx 50 6)
  x.chkSh
  let cond ← x.cond
  let d ← x.hreg x.f.d
  let a ← x.off x.f.a
  let b ← x.off x.f.b
  return .msort { c := x.ctl, cond, sh := x.sh, d, a, b }

def decMzero (x : Src) : Dec Instr := do
  x.chkExt false
  zero x.f.a
  zero x.f.b
  zero x.f.c
  zero (x.fx 50 6)
  x.chkSh
  let cond ← x.cond
  let d ← x.hreg x.f.d
  return .mzero { c := x.ctl, cond, ct := x.ct, sh := x.sh, d }

/-- SEL of MSTAT with q for .RSF (R308). -/
def Src.statSel (x : Src) : Dec StatSel :=
  match (x.fx 50 2).toNat with
  | 0 => do return .rsf (← x.off x.f.b)
  | 1 => .ok .tt0
  | _ => .ok .tt1

def decMstat (x : Src) : Dec Instr := do
  x.chkExt false
  zero x.f.c
  zero x.ctBits
  zero (x.fx 52 4)
  if x.fx 50 2 != 0#2 then zero x.f.b
  x.chkSh
  let cond ← x.cond
  check (x.fx 50 2 != 3#2) .reservedValue
  let d ← x.hreg x.f.d
  let a ← x.off x.f.a
  let sel ← x.statSel
  return .mstat { c := x.ctl, cond, sh := x.sh, sel, d, a }

def decEpi (x : Src) : Dec Instr := do
  x.chkExt false
  zero x.f.b
  zero x.f.c
  zero (x.fx 50 6)
  x.chkSh
  let cond ← x.cond
  let d ← x.hreg x.f.d
  let a ← x.off x.f.a
  return .epi { c := x.ctl, cond, ct := x.ct, sh := x.sh, d, a }

/-! ### Class 7 (R156, R159 to R161, R259 to R271, R356, R357, R430) -/

def Store.code : Store → BitVec 2
  | .l => 0 | .a => 1 | .w => 2 | .c => 3

/-- A store code; 3 is reserved, and the W-store is no source (R260). -/
def Store.ofCode (c : BitVec 2) (source : Bool) : Option Store :=
  match c.toNat with
  | 0 => some .l
  | 1 => some .a
  | 2 => if source then none else some .w
  | _ => none

/-- Handle of a COPY, or BATCH (R260). -/
def Src.copyDest (x : Src) : Dec (Option (Fin 16)) :=
  if x.fx 51 1 = 1#1 then .ok none else do return some (← x.hreg x.f.d)

def decCopy (x : Src) : Dec Instr := do
  x.chkExt false
  zero (x.fx 50 1)
  zero (x.ctBits.extractLsb' 2 1)
  let kind := x.fx 54 2
  if kind = 0#2 || kind = 1#2 then zero x.ctBits
  if x.fx 51 1 = 1#1 then zero x.f.d
  x.chkSh
  let cond ← x.cond
  check (kind != 3#2) .reservedValue
  let st ← need .reservedValue (Store.ofCode (x.fx 52 2) (kind == 1#2))
  let src ← need .reservedValue (if kind = 2#2 then Store.ofCode (x.ctBits.extractLsb' 0 2) true else some .l)
  let d ← x.copyDest
  if kind = 2#2 then
    let so ← x.off x.f.a
    let bytes ← x.off x.f.b
    let doff ← x.off x.f.c
    return .copyXs { c := x.ctl, cond, dst := st, src, sh := x.sh, d, so, bytes, doff }
  else
    let la ← x.sreg x.f.a
    let ba ← x.sreg x.f.b
    let off ← x.off x.f.c
    let y : CopyArgs := { c := x.ctl, cond, st, sh := x.sh, d, la, ba, off }
    return if kind = 0#2 then .copyIn y else .copyOut y

/-- Order 5 of a class-7 instruction without a start condition and with the FX bits of `mask` in use. -/
def Src.zero7 (x : Src) (mask : BitVec 6) : Dec Unit := do
  zero x.ctBits
  x.noSh
  zero (x.f.fn.extractLsb' 0 6 &&& ~~~mask)

def decBseal (x : Src) : Dec Instr := do
  x.chkExt false
  zero x.f.a
  zero x.f.b
  zero x.f.c
  x.zero7 0
  let cond ← x.cond
  let h ← x.hreg x.f.d
  return .bseal { c := x.ctl, cond, h }

/-- An S destination that may be absent (R259). -/
def Src.optS (x : Src) (c : BitVec 8) : Dec (Option (Fin 64)) :=
  if c = 0 then .ok none else do return some (← x.sreg c)

def decWaith (x : Src) : Dec Instr := do
  x.chkExt false
  zero x.f.b
  zero x.f.c
  x.zero7 0
  let cond ← x.cond
  let d ← x.optS x.f.d
  let h ← x.hreg x.f.a
  return .waith { c := x.ctl, cond, d, h }

def decTesth (x : Src) : Dec Instr := do
  x.chkExt false
  zero x.f.b
  zero x.f.c
  x.zero7 1
  let cond ← x.cond
  let d ← x.sreg x.f.d
  let h ← x.hreg x.f.a
  return .testh { c := x.ctl, cond, fs := x.f.fn.getLsbD 0, d, h }

def decCanh (x : Src) : Dec Instr := do
  x.chkExt false
  zero x.f.d
  zero x.f.b
  zero x.f.c
  x.zero7 0
  let cond ← x.cond
  let h ← x.hreg x.f.a
  return .canh { c := x.ctl, cond, h }

/-- A of MOVH: H, or inline 0 (R268). -/
def Src.movhSrc (x : Src) : Dec (Option (Fin 16)) :=
  if x.f.a = 0xD8 then .ok none else do return some (← x.hreg x.f.a)

def decMovh (x : Src) : Dec Instr := do
  x.chkExt false
  zero x.f.b
  zero x.f.c
  x.zero7 0
  let cond ← x.cond
  let d ← x.hreg x.f.d
  let a ← x.movhSrc
  return .movh { c := x.ctl, cond, d, a }

def decQput (x : Src) : Dec Instr := do
  x.chkExt false
  zero x.f.c
  x.zero7 0
  let cond ← x.cond
  let d ← x.sreg x.f.d
  let ch ← x.off x.f.a
  let off ← x.off x.f.b
  return .qput { c := x.ctl, cond, d, ch, off }

def QSel.code : QSel → BitVec 2
  | .seq => 0 | .err => 1 | .widx => 2 | .state => 3

def QSel.ofCode (c : BitVec 2) : QSel :=
  match c.toNat with
  | 0 => .seq | 1 => .err | 2 => .widx | _ => .state

def decQget (x : Src) : Dec Instr := do
  x.chkExt false
  zero x.f.b
  zero x.f.c
  x.zero7 3
  let cond ← x.cond
  let d ← x.sreg x.f.d
  let ch ← x.off x.f.a
  return .qget { c := x.ctl, cond, sel := QSel.ofCode (x.fx 50 2), d, ch }

def decWaitv (x : Src) : Dec Instr := do
  x.chkExt false
  zero x.f.c
  x.zero7 0
  let cond ← x.cond
  let d ← x.optS x.f.d
  let ch ← x.off x.f.a
  let n ← x.off x.f.b
  return .waitv { c := x.ctl, cond, d, ch, n }

def decWaitw (x : Src) : Dec Instr := do
  x.chkExt true
  zero x.f.b
  zero x.f.c
  if x.len = .l128 then zero x.f.a
  x.zero7 1
  let cond ← x.cond
  let d ← x.optS x.f.d
  let n ← x.offExt x.f.a
  return .waitw { c := x.ctl, cond, rel := x.f.fn.getLsbD 0, d, n }

def BarMode.code : BarMode → BitVec 2
  | .sync => 0 | .arr => 1 | .wait => 2

def BarMode.ofCode (c : BitVec 2) : Option BarMode :=
  match c.toNat with
  | 0 => some .sync | 1 => some .arr | 2 => some .wait | _ => none

/-- An operand field in which 0x00 means "absent" (R38). -/
def Src.opt (x : Src) (ok : Operand → Bool) (c : BitVec 8) : Dec (Option Operand) :=
  if c = 0 then .ok none else do return some (← x.operand ok c)

/-- BAR, BARC and BARG with ids below `ids`; `count` tells that A may hold a count: BARG requires 0x00 (R156;
notes/assumptions/52). -/
def decBar (x : Src) (ids : Nat) (count : Bool) (mk : BarArgs → Instr) : Dec Instr := do
  x.chkExt false
  zero x.f.d
  zero x.f.b
  zero x.f.c
  x.zero7 0x3F
  let cond ← x.cond
  let mode ← need .reservedValue (BarMode.ofCode (x.fx 50 2))
  check ((x.fx 52 4).toNat < ids) .reservedValue
  let n ← x.opt (fun o => count && (o.isS || o.isInline)) x.f.a
  return mk { c := x.ctl, cond, mode, id := ⟨(x.fx 52 4).toNat, (x.fx 52 4).isLt⟩, count := n }

/-- A names 14 consecutive V registers within the allocation (R159). -/
def decSpawn (x : Src) : Dec Instr := do
  x.chkExt false
  zero x.f.d
  zero x.f.c
  x.zero7 0
  let a ← x.vreg false x.f.a
  check (a.val + 13 < x.valloc) .notPermitted
  let b ← x.operand (fun o => o.isV || o.isS || o.isInline) x.f.b
  return .spawn { c := x.ctl, g := x.guard, a, b }

def decExit (x : Src) : Dec Instr := do
  x.chkExt false
  zero x.f.d
  zero x.f.a
  zero x.f.b
  zero x.f.c
  zero x.f.fn
  zero x.f.sp
  let cond ← x.cond
  return .exit { c := x.ctl, cond }

def decLexit (x : Src) : Dec Instr := do
  x.chkExt false
  zero x.f.d
  zero x.f.a
  zero x.f.b
  zero x.f.c
  zero x.f.fn
  zero x.f.sp
  return .lexit { c := x.ctl, g := x.guard }

def Src.hd (x : Src) : Fin 16 := ⟨(x.fx 52 4).toNat, (x.fx 52 4).isLt⟩

/-- C of TRACE; the 128-bit form carries the table address (R357). -/
def Src.traceTable (x : Src) : Dec (Option (Fin 64)) :=
  match x.len with
  | .l128 => .ok none
  | _ => do return some (← x.sreg x.f.c)

def decTrace (x : Src) : Dec Instr := do
  x.chkExt true
  zero x.ctBits
  zero (x.fx 50 2)
  x.chkSh
  if x.len = .l128 then
    zero x.f.c
    zero (x.hi.extractLsb' 56 8)
  let d ← x.vreg false x.f.d
  let a ← x.vreg false x.f.a
  let base ← x.off x.f.b
  let table ← x.traceTable
  return .trace { c := x.ctl, g := x.guard, sh := x.sh, hd := x.hd, d, a, base, table }

def TrresMode.code : TrresMode → BitVec 2
  | .cont => 0 | .short => 1 | .commit => 2 | .fin => 3

def TrresMode.ofCode (c : BitVec 2) : TrresMode :=
  match c.toNat with
  | 0 => .cont | 1 => .short | 2 => .commit | _ => .fin

def decTrres (x : Src) : Dec Instr := do
  x.chkExt false
  zero x.ctBits
  x.chkSh
  let mode := TrresMode.ofCode (x.fx 50 2)
  if mode = .cont || mode = .fin then zero x.f.a
  if mode != .commit then zero x.f.c
  let d ← x.vreg false x.f.d
  let t ← x.opt (fun o => o.isV || o.isS || o.isInline) x.f.a
  let base ← x.off x.f.b
  let uv ← x.opt (fun o => o.isV || o.isS) x.f.c
  return .trres { c := x.ctl, g := x.guard, sh := x.sh, hd := x.hd, mode, d, t, base, uv }

def TrstatSel.code : TrstatSel → BitVec 3
  | .run => 0 | .park => 1 | .sus => 2 | .fin => 3

def TrstatSel.ofCode (c : BitVec 3) : Option TrstatSel :=
  match c.toNat with
  | 0 => some .run | 1 => some .park | 2 => some .sus | 3 => some .fin | _ => none

def decTrstat (x : Src) : Dec Instr := do
  x.chkExt false
  zero x.f.b
  zero x.f.c
  x.zero7 7
  match Operand.ofCode x.f.d with
  | some (.v _) =>
    zero (x.fx 50 3)
    let d ← x.vreg false x.f.d
    let h ← x.hreg x.f.a
    return .trstat { c := x.ctl, g := x.guard, d := .v d, h }
  | _ =>
    let sel ← need .reservedValue (TrstatSel.ofCode (x.fx 50 3))
    let d ← x.kreg x.f.d
    let h ← x.hreg x.f.a
    return .trstat { c := x.ctl, g := x.guard, d := .k d sel, h }

/-! ### The opcode map (R49) -/

/-- Class 0; no entry stands at 0x1F. -/
def decodeClass0 (x : Src) (low : Nat) : Dec Instr :=
  match low with
  | 0x00 => decSInt x false .sadd
  | 0x01 => decSInt x false .ssub
  | 0x02 => decSInt x false .smul
  | 0x03 => decSInt x false .smulh
  | 0x04 => decSInt x false .smulhn
  | 0x05 => decSInt x false .sdiv
  | 0x06 => decSInt x false .sdivn
  | 0x07 => decSInt x false .srem
  | 0x08 => decSInt x false .sremn
  | 0x09 => decSInt x false .sand
  | 0x0A => decSInt x false .sor
  | 0x0B => decSInt x false .sxor
  | 0x0C => decSInt x false .sandn
  | 0x0D => decSInt x true .sshl
  | 0x0E => decSInt x true .sshr
  | 0x0F => decSInt x true .ssra
  | 0x10 => decSInt x true .srot
  | 0x11 => decSInt x false .smin
  | 0x12 => decSInt x false .smax
  | 0x13 => decSInt x false .sminn
  | 0x14 => decSInt x false .smaxn
  | 0x15 => decScmp x
  | 0x16 => decSsel x
  | 0x17 => decSUnary x .smov
  | 0x18 => decSli x
  | 0x19 => decSInt x true .sbfx
  | 0x1A => decSInt x true .sbfi
  | 0x1B => decSUnary x .spopc
  | 0x1C => decSUnary x .sclz
  | 0x1D => decSUnary x .sctz
  | 0x1E => decSUnary x .sbrev
  | _ => .error .unassigned

/-- A of RET: S1 to S63 (R66). -/
def retSrc (o : Operand) : Bool := o.isS && o != .s 0

/-- A of BRMZ and BRMA (R65). -/
def branchMask (o : Operand) : Bool := o.isK || o == .exec

/-- Class 1. -/
def decodeClass1 (x : Src) (low : Nat) : Dec Instr :=
  match low with
  | 0x00 => decBranch x .br
  | 0x01 => decBrc x
  | 0x02 => decBrTest x Operand.isS .brz
  | 0x03 => decBrTest x Operand.isS .brnz
  | 0x04 => decBrTest x branchMask .brmz
  | 0x05 => decBrTest x branchMask .brma
  | 0x06 => decBranch x .call
  | 0x07 => decJump x Operand.isSImm .calli
  | 0x08 => decJump x retSrc .ret
  | 0x09 => decJump x Operand.isSImm .jmpi
  | 0x0A => decMask x false .mset
  | 0x0B => decMget x
  | 0x0C => decMask x false .mand
  | 0x0D => decMask x false .mor
  | 0x0E => decMask x false .mandn
  | 0x0F => decMask x false .mxor
  | 0x10 => decMask x true .mpop
  | 0x11 => decMask x true .mffs
  | 0x12 => decFmtset x
  | 0x13 => decFmtget x
  | 0x14 => decGetsr x
  | 0x15 => decSetsr x
  | 0x16 => decTrap x
  | 0x17 => decPlain x .tret
  | 0x18 => decPlain x .bkpt
  | 0x19 => decNop x
  | 0x1A => decPidle x
  | 0x1B => decPlain x .yield
  | 0x1C => decJump x Operand.isSImm .sleep
  | 0x1F => decLive x
  | _ => .error .unassigned

/-- Class 2. -/
def decodeClass2 (x : Src) (low : Nat) : Dec Instr :=
  match low with
  | 0x00 => decVBinary x Ty.isPackable false false .vadd
  | 0x01 => decVBinary x Ty.isPackable false false .vsub
  | 0x02 => decVBinary x Ty.isW32 false false .vmul
  | 0x03 => decVBinary x Ty.isW32 false false .vmulh
  | 0x04 => decVBinary x Ty.isW32 false false .vmulhn
  | 0x05 => decVmad x
  | 0x06 => decVBinary x Ty.isW32 false false .vand
  | 0x07 => decVBinary x Ty.isW32 false false .vor
  | 0x08 => decVBinary x Ty.isW32 false false .vxor
  | 0x09 => decVBinary x Ty.isW32 false false .vandn
  | 0x0A => decVBinary x Ty.isW32 false false .vshl
  | 0x0B => decVBinary x Ty.isW32 false false .vshr
  | 0x0C => decVBinary x Ty.isW32 false false .vsra
  | 0x0D => decVBinary x Ty.isPackable false false .vmin
  | 0x0E => decVBinary x Ty.isPackable false false .vmax
  | 0x0F => decVBinary x Ty.isPackable false false .vminn
  | 0x10 => decVBinary x Ty.isPackable false false .vmaxn
  | 0x11 => decVabs x
  | 0x12 => decVBinary x Ty.isSatType false false .vaddsat
  | 0x13 => decVBinary x Ty.isSatType false false .vsubsat
  | 0x14 => decVcmp x
  | 0x15 => decVsel x
  | 0x16 => decVUnary x Ty.isMovType .vmov
  | 0x17 => decVBinary x Ty.isW32 false false .vbfx
  | 0x18 => decVBinary x Ty.isW32 false false .vbfi
  | 0x19 => decVUnary x Ty.isW32 .vpopc
  | 0x1A => decVUnary x Ty.isW32 .vclz
  | 0x1B => decVdot4 x
  | 0x1C => decVBinary x Ty.isMulwType true false .vmulw
  | 0x1D => decVBinary x Ty.isWide true true .vadd64
  | _ => .error .unassigned

/-- Class 3. -/
def decodeClass3 (x : Src) (low : Nat) : Dec Instr :=
  match low with
  | 0x00 => decVFBinary x Ty.isLaneFloat .vfadd
  | 0x01 => decVFBinary x Ty.isLaneFloat .vfsub
  | 0x02 => decVFBinary x Ty.isLaneFloat .vfmul
  | 0x03 => decVFTernary x Ty.isLaneFloat .vfma
  | 0x04 => decVFMinMax x .vfmin
  | 0x05 => decVFMinMax x .vfmax
  | 0x06 => decVFPlain x .vfabs
  | 0x07 => decVFPlain x .vfneg
  | 0x08 => decVfcmp x
  | 0x09 => decVFUnary x .vfrcp
  | 0x0A => decVFUnary x .vfrsq
  | 0x0B => decVFUnary x .vfsqrt
  | 0x0C => decVFBinary x Ty.isLaneFloat .vfdiv
  | 0x0D => decVFUnary x .vfexp2
  | 0x0E => decVFUnary x .vflog2
  | 0x0F => decVFUnary x .vfsin
  | 0x10 => decVFUnary x .vfcos
  | 0x11 => decVFUnary x .vftanh
  | 0x12 => decVFUnary x .vfrnd
  | 0x13 => decVFPlain x .vfclass
  | 0x14 => decVFTernary x Ty.isHalf .vhfma
  | 0x15 => decVFBinary x Ty.isHalf .vhadd
  | 0x16 => decVFBinary x Ty.isHalf .vhmul
  | 0x17 => decVFTernary x Ty.isHalf .vfdot2
  | _ => .error .unassigned

/-- Class 4. -/
def decodeClass4 (x : Src) (low : Nat) : Dec Instr :=
  match low with
  | 0x00 => decVcvt x
  | 0x01 => decQuant x true .vqnt
  | 0x02 => decQuant x false .vdqnt
  | 0x03 => decVamax x
  | 0x04 => decPack x Ty.inSetP Ty.isUnpacked .vpack
  | 0x05 => decPack x Ty.isUnpacked Ty.inSetP .vunpk
  | 0x06 => decVlane x
  | 0x07 => decPermute x false .vbcast
  | 0x08 => decPermute x true .vshuf
  | 0x09 => decPermute x false .vswz
  | 0x0A => decReduce x true .vscan
  | 0x0B => decReduce x false .vred
  | 0x0C => decVballot x
  | 0x0D => decVvote x
  | 0x0E => decVrdlane x
  | 0x0F => decVwrlane x
  | 0x10 => decKop x
  | 0x11 => decKmov x
  | 0x12 => decPset x
  | 0x13 => decPselk x
  | 0x14 => decPget x
  | _ => .error .unassigned

/-- Class 5. -/
def decodeClass5 (x : Src) (low : Nat) : Dec Instr :=
  match low with
  | 0x00 => decLds x
  | 0x01 => decSts x
  | 0x02 => decLdv x
  | 0x03 => decStv x
  | 0x04 => decTypedLoad x Ty.isLoad true .ldl
  | 0x05 => decTypedStore x Ty.isLoad .stl
  | 0x06 => decTypedLoad x Ty.isLoad false .lda
  | 0x07 => decTypedStore x Ty.isLoad .sta
  | 0x08 => decTypedLoad x Ty.isCst false .ldc
  | 0x09 => decTypedStore x Ty.isCst .stc
  | 0x0A => decLdro x
  | 0x0B => decPrf x
  | 0x0C => decAtoms x
  | 0x0D => decAtomv x
  | 0x0E => decAtoml x
  | 0x0F => decFence x
  | 0x10 => decSeal x .sealPages
  | 0x11 => decSeal x .unseal
  | 0x12 => decCflush x
  | 0x13 => decCinv x
  | _ => .error .unassigned

/-- Class 6. -/
def decodeClass6 (x : Src) (low : Nat) : Dec Instr :=
  match low with
  | 0x00 => decMma x .mma
  | 0x01 => decMma x .mmas
  | 0x02 => decMmav x
  | 0x03 => decMmab x
  | 0x04 => decMtap x
  | 0x05 => decMldt x
  | 0x06 => decMsort x
  | 0x07 => decMzero x
  | 0x08 => decMstat x
  | 0x09 => decEpi x
  | _ => .error .unassigned

/-- Class 7. -/
def decodeClass7 (x : Src) (low : Nat) : Dec Instr :=
  match low with
  | 0x00 => decCopy x
  | 0x01 => decBseal x
  | 0x02 => decWaith x
  | 0x03 => decTesth x
  | 0x04 => decCanh x
  | 0x05 => decMovh x
  | 0x06 => decQput x
  | 0x07 => decQget x
  | 0x08 => decWaitv x
  | 0x09 => decWaitw x
  | 0x0A => decBar x 16 true .bar
  | 0x0B => decBar x 4 true .barc
  | 0x0C => decBar x 1 false .barg
  | 0x0D => decSpawn x
  | 0x0E => decExit x
  | 0x0F => decLexit x
  | 0x10 => decTrace x
  | 0x11 => decTrres x
  | 0x12 => decTrstat x
  | _ => .error .unassigned

/-- The instruction in bits [127:0], for a launch that has `valloc` V registers: a skip code whatever it holds (R52),
else the checks of R50 in their order, from VER on. -/
def decode (valloc : Nat) (w hi : BitVec 64) : Dec Instr :=
  let f := Fields.split w
  let low := (f.op.extractLsb' 0 5).toNat
  let go (len : Len) : Dec Instr :=
    if f.ver != 0#2 then .error .badVersion
    else
      let x : Src := { f, w, hi, len, valloc }
      match (f.op.extractLsb' 5 3).toNat with
      | 0 => decodeClass0 x low
      | 1 => decodeClass1 x low
      | 2 => decodeClass2 x low
      | 3 => decodeClass3 x low
      | 4 => decodeClass4 x low
      | 5 => decodeClass5 x low
      | 6 => decodeClass6 x low
      | _ => decodeClass7 x low
  match f.len.toNat with
  | 0 => go .l64
  | 1 => go .l96
  | 2 => go .l128
  | _ => .ok (.skipCode (w.extractLsb' 2 30))

/-- What the decoder reads from an instruction whose bits are `w`, lowest first, under the largest allocation. -/
def decodeTableWord (nbits w : Nat) : Option Instr :=
  let w := w % 2 ^ nbits
  match decode 128 (BitVec.ofNat 64 w) (BitVec.ofNat 64 (w / 2 ^ 64)) with
  | .ok i => some i
  | .error _ => none

/-! ### The encoder -/

/-- The code of an S, K or H register (R39). -/
def sCode (n : Fin 64) : BitVec 8 := (Operand.s n).code
def kCode (n : Fin 8) : BitVec 8 := (Operand.k n).code
def hCode (n : Fin 16) : BitVec 8 := (Operand.h n).code
def vCode (n : Fin 128) : BitVec 8 := (Operand.v n).code

/-- The code of a field that may be absent (R38). -/
def optCode : Option Operand → BitVec 8
  | none => 0
  | some o => o.code

def Guard.code (g : Guard) : BitVec 4 := bit g.neg ++ BitVec.ofNat 3 g.k.val

/-- A standard word from its parts (R34). -/
def Ctl.fields (c : Ctl) (op : BitVec 8) (gc : BitVec 4) (fn : BitVec 14) (d a b cc : BitVec 8) : Fields :=
  { fn, c := cc, b, a, d, gc, op, sp := bit c.sp, sw := bit c.sw, ver := 0, len := c.len.code }

def SInt.fields (x : SInt) (op : BitVec 8) : Fields :=
  x.c.fields op x.cond.code (x.ty.code ++ 0#8 ++ bit x.fs) (sCode x.d) x.a.code x.b.code 0

def SUnary.fields (x : SUnary) (op : BitVec 8) : Fields :=
  x.c.fields op x.cond.code (x.ty.code ++ 0#8 ++ bit x.fs) (sCode x.d) x.a.code 0 0

def SCompare.fields (x : SCompare) (op : BitVec 8) : Fields :=
  x.c.fields op x.cond.code (x.ty.code ++ 0#9) 0 x.a.code x.b.code 0

def SSelect.fields (x : SSelect) (op : BitVec 8) : Fields :=
  x.c.fields op x.cond.code (x.ty.code ++ 0#4 ++ x.scnd.code ++ 0#1) (sCode x.d) x.a.code x.b.code 0

def SInsert.fields (x : SInsert) (op : BitVec 8) : Fields :=
  x.c.fields op x.cond.code (0#12 ++ bit x.w1 ++ 0#1) (sCode x.d) x.a.code 0 0

/-- The branch layout: DISP in the places of FN, C and B (R35). -/
def Branch.fields (x : Branch) (op d a : BitVec 8) : Fields :=
  x.c.fields op x.cond.code (x.disp.extractLsb' 16 14) d a (x.disp.extractLsb' 0 8) (x.disp.extractLsb' 8 8)

def Jump.fields (x : Jump) (op : BitVec 8) : Fields := x.c.fields op x.cond.code 0 0 x.a.code 0 0

def MaskOp.fields (x : MaskOp) (op : BitVec 8) : Fields :=
  x.c.fields op x.cond.code (0#13 ++ bit x.fs) x.d.code x.m.code 0 0

def Plain.fields (x : Plain) (op : BitVec 8) : Fields := x.c.fields op x.cond.code 0 0 0 0 0

def VUnary.fields (x : VUnary) (op : BitVec 8) : Fields :=
  x.c.fields op x.g.code (x.ty.code ++ 0#9) (vCode x.d) x.a.code 0 0
def VBinary.fields (x : VBinary) (op : BitVec 8) : Fields :=
  x.c.fields op x.g.code (x.ty.code ++ 0#9) (vCode x.d) x.a.code x.b.code 0
def VTernary.fields (x : VTernary) (op : BitVec 8) : Fields :=
  x.c.fields op x.g.code (x.ty.code ++ 0#9) (vCode x.d) x.a.code x.b.code x.cc.code
def VAbs.fields (x : VAbs) (op : BitVec 8) : Fields :=
  x.c.fields op x.g.code (x.ty.code ++ 0#8 ++ bit x.sat) (vCode x.d) x.a.code 0 0
def VSelect.fields (x : VSelect) (op : BitVec 8) : Fields :=
  x.c.fields op x.g.code (x.ty.code ++ 0#9) (vCode x.d) x.a.code x.b.code (kCode x.k)
def VDot.fields (x : VDot) (op : BitVec 8) : Fields :=
  x.c.fields op x.g.code (x.ty.code ++ 0#8 ++ bit x.bn) (vCode x.d) x.a.code x.b.code x.cc.code
def VFUnary.fields (x : VFUnary) (op : BitVec 8) : Fields :=
  x.c.fields op x.g.code (x.ty.code ++ 0#5 ++ x.rm.code ++ 0#1) (vCode x.d) x.a.code 0 0
def VFBinary.fields (x : VFBinary) (op : BitVec 8) : Fields :=
  x.c.fields op x.g.code (x.ty.code ++ 0#5 ++ x.rm.code ++ 0#1) (vCode x.d) x.a.code x.b.code 0
def VFTernary.fields (x : VFTernary) (op : BitVec 8) : Fields :=
  x.c.fields op x.g.code (x.ty.code ++ 0#5 ++ x.rm.code ++ 0#1) (vCode x.d) x.a.code x.b.code x.cc.code
def VFMinMax.fields (x : VFMinMax) (op : BitVec 8) : Fields :=
  x.c.fields op x.g.code (x.ty.code ++ 0#4 ++ bit x.nanp ++ 0#4) (vCode x.d) x.a.code x.b.code 0

/-- FN of class 5 (R46). -/
def fn5 (ty : BitVec 5) (sco : Scope) (ord : Ord) (cpx : BitVec 4) : BitVec 14 := ty ++ sco.code ++ ord.code ++ cpx

def SLoad.fields (x : SLoad) (op : BitVec 8) : Fields :=
  x.c.fields op x.cond.code (fn5 x.ty.code x.sco x.ord (x.cp.code ++ 0#2)) (sCode x.d) (sCode x.a) x.b.code 0
def SStore.fields (x : SStore) (op : BitVec 8) : Fields :=
  x.c.fields op x.cond.code (fn5 x.ty.code x.sco x.ord (x.cp.code ++ 0#2)) 0 (sCode x.a) x.b.code x.data.code
def VLoad.fields (x : VLoad) (op : BitVec 8) : Fields :=
  x.c.fields op x.g.code (fn5 x.ty.code x.sco x.ord (x.cp.code ++ 0#2)) x.d.code x.a.code x.b.code 0
def VStore.fields (x : VStore) (op : BitVec 8) : Fields :=
  x.c.fields op x.g.code (fn5 x.ty.code x.sco x.ord (x.cp.code ++ 0#2)) 0 x.a.code x.b.code x.data.code
def SAtomic.fields (x : SAtomic) (op : BitVec 8) : Fields :=
  x.c.fields op x.cond.code (fn5 x.ty.code x.sco x.ord x.aop.code) (match x.d with | some n => sCode n | none => 0xC0)
    (sCode x.a) x.b.code x.data.code
def VAtomic.fields (x : VAtomic) (op : BitVec 8) : Fields :=
  x.c.fields op x.g.code (fn5 x.ty.code x.sco x.ord x.aop.code) (match x.d with | some n => vCode n | none => 0xC0)
    x.a.code x.b.code x.data.code
def CacheSel.code : CacheSel → BitVec 2
  | .gen => 0 | .ro => 1 | .all => 2

/-- FN of class 4 (R46). -/
def fn4 (ty ty2 : BitVec 5) (rm : Rm) (sat : Bool) : BitVec 14 := ty ++ ty2 ++ rm.code ++ bit sat

def Convert.fields (x : Convert) (op : BitVec 8) : Fields :=
  x.c.fields op x.g.code (fn4 x.ty.code x.ty2.code x.rm x.sat) (vCode x.d) x.a.code 0 0
def Quant.fields (x : Quant) (op : BitVec 8) : Fields :=
  x.c.fields op x.g.code (fn4 x.ty.code (0#4 ++ bit x.mx) x.rm x.sat) (vCode x.d) x.a.code (optCode x.b) 0
def Pack.fields (x : Pack) (op : BitVec 8) : Fields :=
  x.c.fields op x.g.code (fn4 x.ty.code x.ty2.code x.rm x.sat) (vCode x.d) x.a.code x.b.code 0
def Permute.fields (x : Permute) (op : BitVec 8) : Fields :=
  x.c.fields op x.g.code (fn4 Ty.b32.code 0 .dyn false) (vCode x.d) (vCode x.a) x.b.code 0
def Reduce.fields (x : Reduce) (op : BitVec 8) : Fields :=
  x.c.fields op x.g.code (fn4 x.ty.code (0#1 ++ bit x.excl ++ x.op.code) x.rm false) (vCode x.d) x.a.code 0 0
def PGetArgs.fields (x : PGetArgs) (op : BitVec 8) : Fields :=
  match x.d with
  | .v n => x.c.fields op x.g.code 0 (vCode n) 0 0 0
  | .k n p => x.c.fields op x.g.code 0 (kCode n) 0 (Operand.small ⟨p.val, by omega⟩).code 0

/-- FN of classes 6 and 7 (R46). -/
def fn6 (ct : BitVec 3) (sh : Option (Fin 16)) (fx : BitVec 6) : BitVec 14 :=
  ct ++ (match sh with
    | some n => 1#1 ++ BitVec.ofNat 4 n.val
    | none => 0#5) ++ fx

def optS : Option (Fin 64) → BitVec 8
  | none => 0
  | some n => sCode n

def optH : Option (Fin 16) → BitVec 8
  | none => 0
  | some n => hCode n

def MmaArgs.fieldsWith (x : MmaArgs) (op : BitVec 8) (fx1 : BitVec 1) : Fields :=
  x.c.fields op x.cond.code (fn6 (BitVec.ofNat 3 x.ct.val) x.sh (0#4 ++ fx1 ++ bit x.zr)) (hCode x.d) (optCode x.a)
    (optCode x.b) (optCode x.kb)
def MmavArgs.fields (x : MmavArgs) (op : BitVec 8) : Fields :=
  x.c.fields op x.cond.code
    (fn6 (BitVec.ofNat 3 x.ct.val) x.sh (BitVec.ofNat 2 x.kdm.val ++ BitVec.ofNat 2 x.rq.val ++ bit x.mz ++ bit x.zr))
    (hCode x.d) (vCode x.a) (optCode x.b) (optCode x.kb)
def MtapArgs.fields (x : MtapArgs) (op : BitVec 8) : Fields :=
  x.c.fields op x.cond.code
    (fn6 (BitVec.ofNat 3 x.ct.val) x.sh (0#3 ++ bit x.pr ++ BitVec.ofNat 1 x.ts.val ++ bit x.zr))
    (hCode x.d) (optCode x.a) 0 (optCode x.kb)
def StatSel.code : StatSel → BitVec 2
  | .rsf _ => 0 | .tt0 => 1 | .tt1 => 2
def StatSel.q : StatSel → BitVec 8
  | .rsf o => o.code
  | _ => 0
def CopyArgs.fieldsWith (x : CopyArgs) (kind : BitVec 2) : Fields :=
  x.c.fields 0xE0 x.cond.code (fn6 0 x.sh (kind ++ x.st.code ++ bit x.d.isNone ++ 0#1)) (optH x.d) (sCode x.la)
    (sCode x.ba) x.off.code
def BarArgs.fields (x : BarArgs) (op : BitVec 8) : Fields :=
  x.c.fields op x.cond.code (fn6 0 none (BitVec.ofNat 4 x.id.val ++ x.mode.code)) 0 (optCode x.count) 0 0

/-- The fields of an instruction word; a step that is no word has none. -/
def Instr.fields : Instr → Fields
  | .sadd x => x.fields 0x00
  | .ssub x => x.fields 0x01
  | .smul x => x.fields 0x02
  | .smulh x => x.fields 0x03
  | .smulhn x => x.fields 0x04
  | .sdiv x => x.fields 0x05
  | .sdivn x => x.fields 0x06
  | .srem x => x.fields 0x07
  | .sremn x => x.fields 0x08
  | .sand x => x.fields 0x09
  | .sor x => x.fields 0x0A
  | .sxor x => x.fields 0x0B
  | .sandn x => x.fields 0x0C
  | .sshl x => x.fields 0x0D
  | .sshr x => x.fields 0x0E
  | .ssra x => x.fields 0x0F
  | .srot x => x.fields 0x10
  | .smin x => x.fields 0x11
  | .smax x => x.fields 0x12
  | .sminn x => x.fields 0x13
  | .smaxn x => x.fields 0x14
  | .scmp x => x.fields 0x15
  | .ssel x => x.fields 0x16
  | .smov x => x.fields 0x17
  | .sli x => x.fields 0x18
  | .sbfx x => x.fields 0x19
  | .sbfi x => x.fields 0x1A
  | .spopc x => x.fields 0x1B
  | .sclz x => x.fields 0x1C
  | .sctz x => x.fields 0x1D
  | .sbrev x => x.fields 0x1E
  | .br x => x.fields 0x20 0 0
  | .brc x => x.fields 0x21 x.r.code 0
  | .brz x => x.fields 0x22 0 x.r.code
  | .brnz x => x.fields 0x23 0 x.r.code
  | .brmz x => x.fields 0x24 0 x.r.code
  | .brma x => x.fields 0x25 0 x.r.code
  | .call x => x.fields 0x26 0 0
  | .calli x => x.fields 0x27
  | .ret x => x.fields 0x28
  | .jmpi x => x.fields 0x29
  | .mset x => x.fields 0x2A
  | .mget x => x.c.fields 0x2B x.cond.code (0#13 ++ bit x.fs) x.d.code 0 0 0
  | .mand x => x.fields 0x2C
  | .mor x => x.fields 0x2D
  | .mandn x => x.fields 0x2E
  | .mxor x => x.fields 0x2F
  | .mpop x => x.fields 0x30
  | .mffs x => x.fields 0x31
  | .fmtset x => x.c.fields 0x32 x.cond.code 0 0 x.a.code 0 0
  | .fmtget x => x.c.fields 0x33 x.cond.code 0 (sCode x.d) 0 0 0
  | .getsr x => x.c.fields 0x34 x.cond.code (0#6 ++ x.srn) (sCode x.d) 0 0 0
  | .setsr x => x.c.fields 0x35 x.cond.code (0#6 ++ x.srn) 0 x.a.code 0 0
  | .trap x => x.c.fields 0x36 x.cond.code (0#6 ++ x.n) 0 (optCode x.a) 0 0
  | .tret x => x.fields 0x37
  | .bkpt x => x.fields 0x38
  | .nop x => x.fields 0x39
  | .pidle c => c.fields 0x3A 0 0 0 0 0 0
  | .yield x => x.fields 0x3B
  | .sleep x => x.fields 0x3C
  | .live l => Fields.split l.bits
  | .skipCode w => Fields.split (0#32 ++ w ++ 3#2)
  | .illegalInstruction _ w => Fields.split w
  | .vadd x => x.fields 0x40
  | .vsub x => x.fields 0x41
  | .vmul x => x.fields 0x42
  | .vmulh x => x.fields 0x43
  | .vmulhn x => x.fields 0x44
  | .vmad x => x.fields 0x45
  | .vand x => x.fields 0x46
  | .vor x => x.fields 0x47
  | .vxor x => x.fields 0x48
  | .vandn x => x.fields 0x49
  | .vshl x => x.fields 0x4A
  | .vshr x => x.fields 0x4B
  | .vsra x => x.fields 0x4C
  | .vmin x => x.fields 0x4D
  | .vmax x => x.fields 0x4E
  | .vminn x => x.fields 0x4F
  | .vmaxn x => x.fields 0x50
  | .vabs x => x.fields 0x51
  | .vaddsat x => x.fields 0x52
  | .vsubsat x => x.fields 0x53
  | .vcmp x => x.c.fields 0x54 x.g.code (x.ty.code ++ 0#6 ++ BitVec.ofNat 3 x.cc.val) (kCode x.d) x.a.code x.b.code 0
  | .vsel x => x.fields 0x55
  | .vmov x => x.fields 0x56
  | .vbfx x => x.fields 0x57
  | .vbfi x => x.fields 0x58
  | .vpopc x => x.fields 0x59
  | .vclz x => x.fields 0x5A
  | .vdot4 x => x.fields 0x5B
  | .vmulw x => x.fields 0x5C
  | .vadd64 x => x.fields 0x5D
  | .vfadd x => x.fields 0x60
  | .vfsub x => x.fields 0x61
  | .vfmul x => x.fields 0x62
  | .vfma x => x.fields 0x63
  | .vfmin x => x.fields 0x64
  | .vfmax x => x.fields 0x65
  | .vfabs x => x.fields 0x66
  | .vfneg x => x.fields 0x67
  | .vfcmp x => x.c.fields 0x68 x.g.code (x.ty.code ++ 0#2 ++ BitVec.ofNat 3 x.cc.val ++ 0#4) (kCode x.d) x.a.code x.b.code 0
  | .vfrcp x => x.fields 0x69
  | .vfrsq x => x.fields 0x6A
  | .vfsqrt x => x.fields 0x6B
  | .vfdiv x => x.fields 0x6C
  | .vfexp2 x => x.fields 0x6D
  | .vflog2 x => x.fields 0x6E
  | .vfsin x => x.fields 0x6F
  | .vfcos x => x.fields 0x70
  | .vftanh x => x.fields 0x71
  | .vfrnd x => x.fields 0x72
  | .vfclass x => x.fields 0x73
  | .vhfma x => x.fields 0x74
  | .vhadd x => x.fields 0x75
  | .vhmul x => x.fields 0x76
  | .vfdot2 x => x.fields 0x77
  | .lds x => x.fields 0xA0
  | .sts x => x.fields 0xA1
  | .ldv x => x.fields 0xA2
  | .stv x => x.fields 0xA3
  | .ldl x => x.fields 0xA4
  | .stl x => x.fields 0xA5
  | .lda x => x.fields 0xA6
  | .sta x => x.fields 0xA7
  | .ldc x => x.fields 0xA8
  | .stc x => x.fields 0xA9
  | .ldro x => x.fields 0xAA
  | .prf x => x.c.fields 0xAB x.cond.code (0#10 ++ x.cp.code ++ 0#2) 0 (sCode x.a) x.b.code 0
  | .atoms x => x.fields 0xAC
  | .atomv x => x.fields 0xAD
  | .atoml x => x.fields 0xAE
  | .fence x => x.c.fields 0xAF x.cond.code (fn5 0 x.sco x.ord 0) 0 0 0 0
  | .sealPages x => x.c.fields 0xB0 x.cond.code 0 (sCode x.d) x.a.code x.b.code 0
  | .unseal x => x.c.fields 0xB1 x.cond.code 0 (sCode x.d) x.a.code x.b.code 0
  | .cflush x => x.c.fields 0xB2 x.cond.code (fn5 0 x.sco .relaxed 0) 0 0 0 0
  | .cinv x => x.c.fields 0xB3 x.cond.code (0#10 ++ x.sel.code ++ 0#2) 0 0 0 0
  | .vcvt x => x.fields 0x80
  | .vqnt x => x.fields 0x81
  | .vdqnt x => x.fields 0x82
  | .vamax x => x.fields 0x83
  | .vpack x => x.fields 0x84
  | .vunpk x => x.fields 0x85
  | .vlane x => x.c.fields 0x86 x.g.code (fn4 Ty.b32.code (0#3 ++ x.mode.code) .dyn false) (vCode x.d) (vCode x.a) x.b.code 0
  | .vbcast x => x.fields 0x87
  | .vshuf x => x.fields 0x88
  | .vswz x => x.fields 0x89
  | .vscan x => x.fields 0x8A
  | .vred x => x.fields 0x8B
  | .vballot x => x.c.fields 0x8C x.g.code (fn4 Ty.b32.code 0 .dyn false) x.d.code x.a.code 0 0
  | .vvote x => x.c.fields 0x8D x.g.code (fn4 Ty.b32.code (0#3 ++ x.mode.code) .dyn false) x.d.code x.a.code 0 0
  | .vrdlane x => x.c.fields 0x8E x.g.code (fn4 Ty.b32.code 0 .dyn false) (sCode x.d) (vCode x.a) x.b.code 0
  | .vwrlane x => x.c.fields 0x8F x.g.code (fn4 Ty.b32.code 0 .dyn false) (vCode x.d) x.a.code x.b.code 0
  | .kop x => x.c.fields 0x90 x.cond.code (fn4 0 (0#2 ++ x.mode.code) .dyn false) x.d.code x.a.code x.b.code 0
  | .kmov x => x.c.fields 0x91 x.cond.code 0 x.d.code x.a.code 0 0
  | .pset x => x.c.fields 0x92 x.g.code 0 Operand.pln.code x.a.code 0 0
  | .pselk x => x.c.fields 0x93 x.g.code 0 Operand.pln.code (kCode x.a) (kCode x.b) 0
  | .pget x => x.fields 0x94
  | .mma x => x.fieldsWith 0xC0 0
  | .mmas x => x.fieldsWith 0xC1 0
  | .mmav x => x.fields 0xC2
  | .mmab x => x.m.fieldsWith 0xC3 (bit x.andOp)
  | .mtap x => x.fields 0xC4
  | .mldt x => x.c.fields 0xC5 x.cond.code (fn6 0 x.sh (0#4 ++ BitVec.ofNat 1 x.ts.val ++ 0#1)) (hCode x.d) x.a.code 0 0
  | .msort x => x.c.fields 0xC6 x.cond.code (fn6 0 x.sh 0) (hCode x.d) x.a.code x.b.code 0
  | .mzero x => x.c.fields 0xC7 x.cond.code (fn6 (BitVec.ofNat 3 x.ct.val) x.sh 0) (hCode x.d) 0 0 0
  | .mstat x => x.c.fields 0xC8 x.cond.code (fn6 0 x.sh (0#4 ++ x.sel.code)) (hCode x.d) x.a.code x.sel.q 0
  | .epi x => x.c.fields 0xC9 x.cond.code (fn6 (BitVec.ofNat 3 x.ct.val) x.sh 0) (hCode x.d) x.a.code 0 0
  | .copyIn x => x.fieldsWith 0
  | .copyOut x => x.fieldsWith 1
  | .copyXs x => x.c.fields 0xE0 x.cond.code (fn6 (0#1 ++ x.src.code) x.sh (2#2 ++ x.dst.code ++ bit x.d.isNone ++ 0#1))
      (optH x.d) x.so.code x.bytes.code x.doff.code
  | .bseal x => x.c.fields 0xE1 x.cond.code 0 (hCode x.h) 0 0 0
  | .waith x => x.c.fields 0xE2 x.cond.code 0 (optS x.d) (hCode x.h) 0 0
  | .testh x => x.c.fields 0xE3 x.cond.code (0#13 ++ bit x.fs) (sCode x.d) (hCode x.h) 0 0
  | .canh x => x.c.fields 0xE4 x.cond.code 0 0 (hCode x.h) 0 0
  | .movh x => x.c.fields 0xE5 x.cond.code 0 (hCode x.d) (match x.a with | some n => hCode n | none => 0xD8) 0 0
  | .qput x => x.c.fields 0xE6 x.cond.code 0 (sCode x.d) x.ch.code x.off.code 0
  | .qget x => x.c.fields 0xE7 x.cond.code (0#12 ++ x.sel.code) (sCode x.d) x.ch.code 0 0
  | .waitv x => x.c.fields 0xE8 x.cond.code 0 (optS x.d) x.ch.code x.n.code 0
  | .waitw x => x.c.fields 0xE9 x.cond.code (0#13 ++ bit x.rel) (optS x.d) (optCode x.n) 0 0
  | .bar x => x.fields 0xEA
  | .barc x => x.fields 0xEB
  | .barg x => x.fields 0xEC
  | .spawn x => x.c.fields 0xED x.g.code 0 0 (vCode x.a) x.b.code 0
  | .exit x => x.fields 0xEE
  | .lexit x => x.c.fields 0xEF x.g.code 0 0 0 0 0
  | .trace x => x.c.fields 0xF0 x.g.code (fn6 0 x.sh (BitVec.ofNat 4 x.hd.val ++ 0#2)) (vCode x.d) (vCode x.a)
      x.base.code (optS x.table)
  | .trres x => x.c.fields 0xF1 x.g.code (fn6 0 x.sh (BitVec.ofNat 4 x.hd.val ++ x.mode.code)) (vCode x.d) (optCode x.t)
      x.base.code (optCode x.uv)
  | .trstat x => match x.d with
    | .k d sel => x.c.fields 0xF2 x.g.code (0#11 ++ sel.code) (kCode d) (hCode x.h) 0 0
    | .v d => x.c.fields 0xF2 x.g.code 0 (vCode d) (hCode x.h) 0 0
  | _ => Fields.split 0

/-- Bits [63:0] of an instruction. -/
def Instr.word (i : Instr) : BitVec 64 := i.fields.join

/-- Switch marker, safe point, length and literal of an instruction word. -/
def Instr.ctl : Instr → Ctl
  | .sadd x => x.c
  | .ssub x => x.c
  | .smul x => x.c
  | .smulh x => x.c
  | .smulhn x => x.c
  | .sdiv x => x.c
  | .sdivn x => x.c
  | .srem x => x.c
  | .sremn x => x.c
  | .sand x => x.c
  | .sor x => x.c
  | .sxor x => x.c
  | .sandn x => x.c
  | .sshl x => x.c
  | .sshr x => x.c
  | .ssra x => x.c
  | .srot x => x.c
  | .smin x => x.c
  | .smax x => x.c
  | .sminn x => x.c
  | .smaxn x => x.c
  | .scmp x => x.c
  | .ssel x => x.c
  | .smov x => x.c
  | .sli x => x.c
  | .sbfx x => x.c
  | .sbfi x => x.c
  | .spopc x => x.c
  | .sclz x => x.c
  | .sctz x => x.c
  | .sbrev x => x.c
  | .br x => x.c
  | .brc x => x.c
  | .brz x => x.c
  | .brnz x => x.c
  | .brmz x => x.c
  | .brma x => x.c
  | .call x => x.c
  | .calli x => x.c
  | .ret x => x.c
  | .jmpi x => x.c
  | .mset x => x.c
  | .mget x => x.c
  | .mand x => x.c
  | .mor x => x.c
  | .mandn x => x.c
  | .mxor x => x.c
  | .mpop x => x.c
  | .mffs x => x.c
  | .fmtset x => x.c
  | .fmtget x => x.c
  | .getsr x => x.c
  | .setsr x => x.c
  | .trap x => x.c
  | .tret x => x.c
  | .bkpt x => x.c
  | .nop x => x.c
  | .pidle c => c
  | .yield x => x.c
  | .sleep x => x.c
  | .live l => ⟨l.sw, l.sp, .l64, 0⟩
  | .vadd x => x.c
  | .vsub x => x.c
  | .vmul x => x.c
  | .vmulh x => x.c
  | .vmulhn x => x.c
  | .vmad x => x.c
  | .vand x => x.c
  | .vor x => x.c
  | .vxor x => x.c
  | .vandn x => x.c
  | .vshl x => x.c
  | .vshr x => x.c
  | .vsra x => x.c
  | .vmin x => x.c
  | .vmax x => x.c
  | .vminn x => x.c
  | .vmaxn x => x.c
  | .vabs x => x.c
  | .vaddsat x => x.c
  | .vsubsat x => x.c
  | .vcmp x => x.c
  | .vsel x => x.c
  | .vmov x => x.c
  | .vbfx x => x.c
  | .vbfi x => x.c
  | .vpopc x => x.c
  | .vclz x => x.c
  | .vdot4 x => x.c
  | .vmulw x => x.c
  | .vadd64 x => x.c
  | .vfadd x => x.c
  | .vfsub x => x.c
  | .vfmul x => x.c
  | .vfma x => x.c
  | .vfmin x => x.c
  | .vfmax x => x.c
  | .vfabs x => x.c
  | .vfneg x => x.c
  | .vfcmp x => x.c
  | .vfrcp x => x.c
  | .vfrsq x => x.c
  | .vfsqrt x => x.c
  | .vfdiv x => x.c
  | .vfexp2 x => x.c
  | .vflog2 x => x.c
  | .vfsin x => x.c
  | .vfcos x => x.c
  | .vftanh x => x.c
  | .vfrnd x => x.c
  | .vfclass x => x.c
  | .vhfma x => x.c
  | .vhadd x => x.c
  | .vhmul x => x.c
  | .vfdot2 x => x.c
  | .vcvt x => x.c
  | .vqnt x => x.c
  | .vdqnt x => x.c
  | .vamax x => x.c
  | .vpack x => x.c
  | .vunpk x => x.c
  | .vlane x => x.c
  | .vbcast x => x.c
  | .vshuf x => x.c
  | .vswz x => x.c
  | .vscan x => x.c
  | .vred x => x.c
  | .vballot x => x.c
  | .vvote x => x.c
  | .vrdlane x => x.c
  | .vwrlane x => x.c
  | .kop x => x.c
  | .kmov x => x.c
  | .pset x => x.c
  | .pselk x => x.c
  | .pget x => x.c
  | .lds x => x.c
  | .sts x => x.c
  | .ldv x => x.c
  | .stv x => x.c
  | .ldl x => x.c
  | .stl x => x.c
  | .lda x => x.c
  | .sta x => x.c
  | .ldc x => x.c
  | .stc x => x.c
  | .ldro x => x.c
  | .prf x => x.c
  | .atoms x => x.c
  | .atomv x => x.c
  | .atoml x => x.c
  | .fence x => x.c
  | .sealPages x => x.c
  | .unseal x => x.c
  | .cflush x => x.c
  | .cinv x => x.c
  | .mma x => x.c
  | .mmas x => x.c
  | .mmav x => x.c
  | .mmab x => x.m.c
  | .mtap x => x.c
  | .mldt x => x.c
  | .msort x => x.c
  | .mzero x => x.c
  | .mstat x => x.c
  | .epi x => x.c
  | .copyIn x => x.c
  | .copyOut x => x.c
  | .copyXs x => x.c
  | .bseal x => x.c
  | .waith x => x.c
  | .testh x => x.c
  | .canh x => x.c
  | .movh x => x.c
  | .qput x => x.c
  | .qget x => x.c
  | .waitv x => x.c
  | .waitw x => x.c
  | .bar x => x.c
  | .barc x => x.c
  | .barg x => x.c
  | .spawn x => x.c
  | .exit x => x.c
  | .lexit x => x.c
  | .trace x => x.c
  | .trres x => x.c
  | .trstat x => x.c
  | _ => ⟨false, false, .l64, 0⟩

/-- Bits [127:64] that go with an instruction word (R37). -/
def Instr.hi (i : Instr) : BitVec 64 := i.ctl.lit

/-- Bits [127:0] of an instruction: the encoding written from the layouts of R34 to R37, 0 above its length. -/
def encode (i : Instr) : BitVec 128 := i.hi ++ i.word

end Sys2Proof
end

