-- ==== Sys2Proof/Machine/State.lean ====
section
/-! DEFINITION. The state of a YNL-4800: its groups, cores, dies, memory, launches, chains, fabric and host
registers, as plain data. Every register and every piece of state the spec names has one home here; INVENTORY.md
lists them with their rules and reset values. -/

namespace Sys2Proof.Machine

/-- Bytes by address in canonical form: addresses strictly rising, no entry equal to 0, which is what an unlisted
address reads as (R451 zeroes device memory; notes/assumptions/2). -/
abbrev Mem := List Host.Cell

/-- The lines poisoned, dirty or held are named by line number, physical address / 128 (R181, R193). -/
abbrev LineNo := Nat

/-! ### Groups -/

/-- STATE of a handle word; 3 is not used (R236). -/
inductive HState where
  | empty | pending | complete
deriving DecidableEq, Repr

/-- ENG of a handle word (R236). -/
inductive Eng where
  | none | copy | batch | matrix | epilogue | lantern
deriving DecidableEq, Repr

/-- A handle register: the fields of its handle word; the tag names the command that it tracks (R236, R238). `bare` marks that
of a traversal without a member, which names no command (R358, R363). -/
structure Handle where
  state  : HState
  eng    : Eng
  status : Byte
  tag    : Word
  bare   : Bool
deriving DecidableEq, Repr

/-- One descriptor of the plane region table (R98), offsets from CBASE. -/
structure Region where
  base   : Nat
  stride : Nat
  npl    : Nat
deriving DecidableEq, Repr

/-- A trap to be entered: the arguments of TakeTrap in R32. `rbase` and `off` are the resume point of R106. -/
structure TrapReq where
  code  : Byte
  sub   : Byte
  info  : Word64
  rbase : Word
  off   : Word
deriving DecidableEq, Repr

/-- A fault found when an access was performed, waiting for the next run boundary; `ofWrite` says that the access is of a
store, an atomic or a QPUT, whose fault is kept when its group has exited (R374). -/
structure Deferred where
  seq  : Nat
  lane : Nat
  code : Byte
  sub  : Byte
  info : Word64
  ofWrite : Bool
deriving DecidableEq, Repr

/-- What a Waiting group waits on (R113). -/
inductive Wait where
  /-- SLEEP: cycles left (R73). -/
  | sleep (cycles : Nat)
  /-- WAITH on Hk with its destination (R265). -/
  | handle (h : Fin 16) (d : Option (Fin 64))
  /-- WAITV: chain and sequence number (R271). -/
  | seq (ch : BitVec 12) (n : Word64) (d : Option (Fin 64))
  /-- WAITW: window number (R430). -/
  | window (n : Word64) (d : Option (Fin 64))
  /-- A barrier: the phase open when a group that has never arrived began to wait, whether the wait belongs to a SYNC (R157), and
  the value of its count operand, 0 for none (R397). -/
  | barrier (b : BarRef) (opened : Nat) (sync : Bool) (count : Nat)
deriving DecidableEq, Repr

/-- The run boundary that a Parked group has reached, and what follows its park (R20, R22, R25). -/
inductive Boundary where
  /-- SW, or SP when `sp` (R20, R25). -/
  | switch (sp : Bool)
  | trap (t : TrapReq)
  | tret (sp : Bool)
  /-- SLEEP of the value that an S register holds after the park, or of `n` cycles (R22, R73). -/
  | sleep (reg : Option (Fin 64)) (n : Nat) (sp : Bool)
  /-- WAITH, WAITV, WAITW, BAR, BARC, BARG: the instruction issues, arrives or waits only after the park (R22). -/
  | wait
deriving DecidableEq, Repr

/-- The states of a group (R113). -/
inductive Run where
  | placed | ready | parked (b : Boundary) | waiting (c : Ctl) (w : Wait) | suspended | exiting | retired | aborted
deriving DecidableEq, Repr

/-- Destination of an outstanding result. -/
inductive Dest where
  | none
  | s (n : Fin 64)
  | v (n : Fin 128)
  | vpair (n : Fin 128)
deriving DecidableEq, Repr

/-- The address spaces an access can name (R178, R189). -/
inductive Space where
  | glob | l | a | w | c
deriving DecidableEq, Repr

/-- One lane element of an access: the lane (0 for a once-per-group access), its address, its data and its
compare value; `val` is the value read once the element has been performed. -/
structure LaneAcc where
  lane : Lane
  addr : Nat
  data : Word64
  cmp  : Word64
  val  : Option Word64
deriving DecidableEq, Repr

/-- What an outstanding result still waits on (R18). -/
inductive PendKind where
  /-- A result already computed, as of SDIV (R60); `sc` are the flags it also writes. -/
  | computed (sc : Option (BitVec 4))
  /-- A load of a space (LDRO when `ro`). -/
  | load (sp : Space) (ro : Bool)
  /-- A value-returning atomic; its operation stands in the store FIFO (R376). -/
  | atomic
  /-- SEAL or UNSEAL with base page and page count (R230, R231). -/
  | seal (clear : Bool) (vpn : Nat) (npg : Nat)
  /-- QPUT: the sequence number arrives when the append has been written (R269). -/
  | qput
deriving DecidableEq, Repr

/-- An outstanding variable-latency result: one entry of the operand log (R18, R21, R376). `due` and `dueHi` are
the lanes of the destination, and of the odd register of a pair, whose last write is still this one (R20, R377);
`dueSc` the same for SC. -/
structure Pend where
  seq    : Nat
  /-- Position in the group's store sequence: how many stores precede it (FPOS of R376). -/
  fpos   : Nat
  instr  : Instr
  off    : Word
  kind   : PendKind
  ty     : Ty
  sco    : Scope
  ord    : Ord
  cp     : Cp
  dst    : Dest
  due    : LaneMask
  dueHi  : LaneMask
  dueSc  : Bool
  scalar : Bool
  lanes  : List LaneAcc
deriving DecidableEq, Repr

/-- What a store FIFO entry does when it leaves (R200, R226, R255). -/
inductive FifoKind where
  | store
  | atomic (op : Aop)
  /-- QPUT to a chain with the entry's offset and the index once it is reserved (R255). -/
  | qput (ch : BitVec 12) (bytes : List Byte) (idx : Option Nat)
deriving DecidableEq, Repr

/-- One entry of the store FIFO; `lanes` holds the elements still to be performed (R378). `sent` marks an atomic
whose requests stand at the slices (R226). -/
structure FifoEntry where
  seq    : Nat
  /-- Position in the group's store sequence (FPOS of R400). -/
  fpos   : Nat
  instr  : Instr
  sp     : Space
  kind   : FifoKind
  ty     : Ty
  width  : Nat
  sco    : Scope
  ord    : Ord
  ret    : Bool
  scalar : Bool
  lanes  : List LaneAcc
  sent   : Bool
  /-- A trap has reported a fault of this instruction: a later one of another lane is not reported (R374). -/
  told   : Bool
deriving DecidableEq, Repr

/-- A fence still in force: later loads wait while `acq`, later stores while `rel` (R204, R227). -/
structure Fence where
  seq : Nat
  sco : Scope
  acq : Bool
  rel : Bool
deriving DecidableEq, Repr

/-- A register that holds an uncorrectable error: S, a lane of V, K, H, or a special register by its number (R375). -/
inductive RegName where
  | s (n : Fin 64)
  | v (n : Fin 128) (i : Lane)
  | k (n : Fin 8)
  | h (n : Fin 16)
  | special (n : BitVec 8)
deriving DecidableEq, Repr

/-- A continuation record of SPAWN: its entry address and payload words (R159, R171). -/
structure SpawnRec where
  entry   : Word64
  payload : List Word
deriving DecidableEq, Repr

/-- A group: one control thread with its 32 lanes (R6 to R10, R95, R96, R111 to R113). -/
structure Group where
  die      : Fin 2
  core     : Fin 128
  slot     : Fin 32
  /-- Key of the launch the group belongs to (R162). -/
  launch   : Nat
  /-- Key of the team the group belongs to (R112). -/
  team     : Nat
  ctx      : BitVec 12
  spawned  : Bool
  run      : Run
  /-- S0 to S63 (R6). -/
  s        : Vector Word64 64
  /-- V0 to V127 (R95). -/
  v        : Vector LaneReg 128
  /-- K0 to K7 (R39). -/
  k        : Vector LaneMask 8
  /-- H0 to H15 (R236). -/
  h        : Vector Handle 16
  /-- V registers allocated: 32, 64, 96 or 128 (R40, R162). -/
  valloc   : Nat
  pc       : Word
  /-- Plane whose turn it is at this offset, and whether the offset has just been reached (R103). -/
  plane    : Fin 4
  fresh    : Bool
  /-- A word has issued at this offset of a region (R105). -/
  issued   : Bool
  /-- Length of plane 0's word at this offset of a region (R103). -/
  span     : Nat
  /-- The LIVE word that follows the safe-point instruction last fetched (R24, R108). -/
  live     : Option LiveWord
  /-- SC: N Z C V (R8). -/
  sc       : BitVec 4
  status   : Word
  exec     : LaneMask
  /-- Exit mask: lanes that have left by LEXIT or never started (R161). -/
  exitm    : LaneMask
  /-- PLN of each lane (R96). -/
  pln      : Vector (BitVec 2) 32
  /-- FMT.0 to FMT.3 (R81). -/
  fmt      : Vector Word 4
  wdog     : Word
  /-- Watchdog count (R28). -/
  wcnt     : Nat
  /-- A watchdog trap is due at the next run boundary (R29). -/
  wdue     : Bool
  trapbase : Word64
  xpc      : Word64
  xcause   : Word64
  xinfo    : Word64
  xscratch : Word64
  groupid  : Word
  teamid   : Word
  clusterid : Word
  cbase    : Word64
  csize    : Word
  /-- The launch's plane regions, as the core read them (R99). -/
  regions  : List Region
  /-- Outstanding results, in program order (R21). -/
  log      : List Pend
  /-- Store FIFO, oldest first (R200). -/
  fifo     : List FifoEntry
  /-- Program-order position of the next access, and stores so far: the next position in the store sequence (FPOS of
  R376). -/
  seq      : Nat
  stores   : Nat
  fences   : List Fence
  /-- CFLUSH in force: its position and scope (R228). -/
  cflush   : Option (Nat × Scope)
  deferred : List Deferred
  /-- The waiting instruction at PC has had its park (R22). -/
  settled  : Bool
  /-- Next grant (R169). -/
  grant    : Nat
  /-- Records a SPAWN still has to hand over, and its length and SW (R159). -/
  spawnq   : List SpawnRec
  spawnc   : Ctl
  /-- Number of the arrival of the first of them at the gatherer, once it has arrived (R171). -/
  spawnAt  : Option Nat
  /-- Barriers arrived at with the phase joined by the latest arrival counted (R157). -/
  arrived  : List (BarRef × Nat)
  /-- The place of a SYNC whose wait a trap or a stop cut short: issued again there, it does not arrive again (R157,
  R392). -/
  owes     : Option Word
  /-- The same for a SYNC in trap mode, whose wait a stop cut short. -/
  owesH    : Option Word
  /-- STOP of R392 while Suspended; 0 for a group that is not. -/
  stop     : Fin 5
  /-- After a restore, the absolute target of the WAITW that goes on (R430). -/
  waitw    : Option Word64
  /-- The wait or sleep that a stop has cut short (R392). -/
  waits    : Option Wait
  /-- Registers that hold an uncorrectable error (R375). -/
  errs     : List RegName
  /-- CLOCK at which the group exited (R157, R173). -/
  leftAt   : Nat
deriving DecidableEq, Repr

/-! ### Host commands -/

/-- A host command record as the die read it when HCMD was written (R417): its address, its 512 bits, and the clock at
its arrival; none for one that could not be read. `begun` marks a context kill that has been performed and waits for what it
abandons (R403, R418). -/
structure HostCmd where
  addr : Nat
  raw  : Option Nat
  clk  : Nat
  begun : Bool
deriving DecidableEq, Repr

/-- A bin of a spawn gatherer (R171): its number, key, records, and the cycles since its first record. -/
structure Bin where
  num    : Fin 256
  launch : Nat
  entry  : Word64
  recs   : List SpawnRec
  timer  : Nat
deriving DecidableEq, Repr

/-- A preemption in progress (R391): its command, save address, deadline, and the cycles since the request; the groups that have
formed and were not placed, each with its die, set aside so that their bins are free for what the spill areas hold. -/
structure Preempt where
  die  : Fin 2
  addr : Nat
  sva  : Nat
  dl   : Nat
  since : Nat
  forced : Bool
  bins : List (Fin 2 × Bin)
deriving DecidableEq, Repr

/-- What the last read of the host, of a peer or of the management port returned: its bytes, and the poison indication
(R193, R414, R452). -/
structure Answer where
  bytes  : List Byte
  poison : Bool
deriving DecidableEq, Repr

/-! ### Launches and teams -/

/-- A launch record, field by field (R162); `raw` is the record as read, for its reserved bits. -/
structure LaunchRec where
  rpta  : Word64
  lid   : Word
  spln  : Word
  spla  : Word64
  trb   : Word
  wdog  : Word
  slsz  : Nat
  sres  : Nat
  spt   : Nat
  stg   : Nat
  nostl : Bool
  coop  : Bool
  prio  : Nat
  ch    : Nat
  cw    : Nat
  csz   : Nat
  wsz   : Nat
  asz   : Nat
  lsz   : Nat
  val   : Nat
  gpt   : Nat
  split : Nat
  nteam : Nat
  prtn  : Nat
  prta  : Word64
  param : Word64
  entry : Word
  csize : Word
  cbase : Word64
deriving DecidableEq, Repr

/-- An abort report (R174), as the fields that the first abort fixes. -/
structure Report where
  kind  : Byte
  code  : Byte
  sub   : Byte
  info  : Word64
  rbase : Word
  off   : Word
  group : Word
  team  : Word
  core  : Byte
  die   : Byte
  clk   : Word64
deriving DecidableEq, Repr

/-- How far an accepted launch has come (R162 to R174, R391 to R402). -/
inductive LaunchPhase where
  /-- Teams are started and run. -/
  | running
  /-- Preempted: saved in memory and off the cores, until it is restored (R391, R401). -/
  | saved
  /-- Aborted or killed or refused: the report is still to be written (R174). -/
  | reporting (r : Report)
  /-- Ended with the status its launch command completes with (R421). -/
  | ended (status : Byte)
deriving DecidableEq, Repr

/-- A core's request for a ticket, and the cycle in which it was made (R164). -/
structure Ask where
  core  : CoreRef
  cycle : Nat
deriving DecidableEq, Repr

/-- A die's ticket range of a launch, in clusters, the cycles of its last own take and last steal, and the requests that
wait, own takes and steals, each in their order (R164). -/
structure Tickets where
  low   : Nat
  high  : Nat
  took  : Option Nat
  stole : Option Nat
  asks  : List Ask
deriving DecidableEq, Repr

/-- An arrival under way to a barrier's root: its group and the group's program-order position, the cycle in which it
was sent, and the count it carries (R157, R173). -/
structure Arrival where
  g     : GroupRef
  seq   : Nat
  cycle : Nat
  count : Option Nat
deriving DecidableEq, Repr

/-- One barrier of a team, cluster or grid: the phase open and what has arrived in it (R157, R173). -/
structure Barrier where
  ref   : BarRef
  phase : Nat
  /-- Explicit count of the phase, fixed by its first arrival. -/
  count : Option Nat
  /-- Groups whose arrivals have been counted in the phase, each by its place and its team: another group may take the place once
  it has retired. -/
  here  : List (GroupRef × Nat)
  /-- Arrivals counted in the phase before a restore, of groups that are not in `here` (R399). -/
  past  : Nat
  /-- Groups that had exited when the device forgot them, with their team or at a save (R157, R399). -/
  gone  : Nat
  sent  : List Arrival
  /-- Stores on the path of a core that arrivals from there publish: a group of another core that meets them waits until they have
  reached L2 (R158, R199, R208). -/
  owed  : List (CoreRef × Nat)
deriving DecidableEq, Repr

/-- A resident or Placed team with its windows in the four typed stores of its core (R111, R189, R190). -/
structure Team where
  key     : Nat
  launch  : Nat
  die     : Fin 2
  core    : Fin 128
  /-- TEAMID, CLUSTERID and the team's place in its cluster. -/
  idx     : Word
  cluster : Word
  /-- Top-left core of its rectangle, and the team there: the cluster barrier's root (R173). -/
  root    : Fin 128
  rootTeam : Nat
  spawned : Bool
  /-- A spawned group in a slot that its launch reserves (R172). -/
  reserved : Bool
  groups  : Nat
  lsize   : Nat
  asize   : Nat
  wsize   : Nat
  csize   : Nat
  l       : Mem
  a       : Mem
  w       : Mem
  c       : Mem
  /-- Bytes of its windows that hold an uncorrectable error (R192, R375). -/
  errs    : List (Space × Nat) := []
deriving DecidableEq, Repr

/-! ### Memory -/

/-- A line in a partition of L1 with the bytes it holds (R181); in the read-only partition `vas` are the contexts and
virtual lines it was read under, by which an UNSEAL finds it (R183). -/
structure CacheLine where
  line : LineNo
  data : Mem
  vas  : List (BitVec 12 × Nat)
deriving DecidableEq, Repr

/-- A group as a party of a scope: its die, core and cluster, by the key of the cluster's first team (R198). -/
structure Party where
  die     : Fin 2
  core    : Fin 128
  cluster : Nat
deriving DecidableEq, Repr

/-- A store that has left its group's FIFO and has not reached L2 (R201), by its number on its core. `rel` is the scope of a
release at .clu or wider, with its party. -/
structure PathEntry where
  n     : Nat
  ctx   : BitVec 12
  pa    : Nat
  bytes : List Byte
  rel   : Option (Scope × Party)
deriving DecidableEq, Repr

/-- A release that stands in L2 ahead of stores of its core that it publishes: its bytes, its scope and party, and
the numbers of those stores. Whoever synchronises with it waits for them; nobody else does (R199, R202, R203). -/
structure Ahead where
  core  : CoreRef
  pa    : Nat
  len   : Nat
  sco   : Scope
  by'   : Party
  waits : List Nat
deriving DecidableEq, Repr

/-- A cached translation: context, size code, virtual and physical page (both as first byte addresses), X W R
(R386). -/
structure TlbEntry where
  ctx : BitVec 12
  sz  : Fin 4
  va  : Nat
  pa  : Nat
  x   : Bool
  w   : Bool
  r   : Bool
deriving DecidableEq, Repr

/-- Class of a translated access (R385, R388). -/
inductive AccClass where
  | read | write | fetch
deriving DecidableEq, Repr

/-- Who asks for a translation: each such access waits, joins a slot or is refused on its own (R388). -/
inductive Requester where
  | fetch (g : GroupRef) (va : Nat)
  | load (g : GroupRef) (seq : Nat) (lane : Lane)
  | store (g : GroupRef) (seq : Nat) (lane : Lane)
  | seal (g : GroupRef) (seq : Nat)
  | command (c : CoreRef) (tag : Word) (lane : Lane)
  | chain (c : ChainRef)
  | report (launch : Nat)
  | gather (die : Fin 2) (launch : Nat)
  | infl (c : CoreRef) (desc : Nat) (slot : Fin 2)
  | wickline (die : Fin 2) (n : Nat)
  /-- A die's first read of a context's seal table (R187). -/
  | seals (die : Fin 2) (ctx : BitVec 12)
deriving DecidableEq, Repr

/-- A page-table walk asked for (R386); `atomic` needs R and W (R385). -/
structure Walk where
  who    : Requester
  ctx    : BitVec 12
  va     : Nat
  cls    : AccClass
  atomic : Bool
  /-- Core whose TLBs the walk fills; none for the engine TLB. -/
  core   : Option (Fin 128)
deriving DecidableEq, Repr

/-- An open slot of the fault table (R388). -/
structure FaultSlot where
  slot    : Fin 1024
  ctx     : BitVec 12
  /-- va[55:12]. -/
  page    : Nat
  cls     : AccClass
  /-- VA, CLK, SEQ, KIND and REASON of its fault record. -/
  va      : Nat
  clk     : Word64
  seq     : Word64
  reason  : Fin 4
  /-- The record stands in the pager ring. -/
  written : Bool
  members : List Walk
deriving DecidableEq, Repr

/-- One element of an atomic waiting at a slice's atomic engine (R184); ports 0 to 3 in the order of R184. -/
structure AtomReq where
  port : Fin 4
  slice : Fin 128
  who  : GroupRef
  seq  : Nat
  lane : Lane
  ctx  : BitVec 12
  va   : Nat
  pa   : Nat
  op   : Aop
  ty   : Ty
  data : Word64
  cmp  : Word64
deriving DecidableEq, Repr

/-- Which engine side holds a range of a typed store (R249). -/
structure Hold where
  /-- The program-order position each group of the team had when the command issued: what lies before it comes first
  (R250, R251). -/
  marks : List (Fin 32 × Nat)
  tag   : Word
  team  : Nat
  sp    : Space
  lo    : Nat
  len   : Nat
  write : Bool
deriving DecidableEq, Repr

/-- What a handle or a start condition names: a command, or a batch by the tag of its first member (R238, R248). -/
structure Tracked where
  batch : Bool
  tag   : Word
deriving DecidableEq, Repr

/-- How far a command has come (R240, R247, R395). -/
inductive CmdPhase where
  | waiting | started | stopped
deriving DecidableEq, Repr

/-- A command of a per-core engine, in issue order (R236 to R241, R398). -/
structure Cmd where
  tag    : Word
  g      : GroupRef
  launch : Nat
  team   : Nat
  ctx    : BitVec 12
  eng    : Eng
  instr  : Instr
  /-- Operand values read at issue. -/
  ext    : List Word64
  /-- FMT.0 at issue. -/
  fmt    : Word
  /-- The command or batch whose end it still waits for (R240). -/
  pred   : Option Tracked
  /-- Program-order position in its group, and the positions of the groups of its team (R210, R251). -/
  seq    : Nat
  marks  : List (Fin 32 × Nat)
  /-- Registers captured at issue, lane-major: rows of MMAV, rays of TRACE, t and uv of TRRES. -/
  cap    : List Word
  phase  : CmdPhase
  /-- CANH has reached it (R241). -/
  cancel : Bool
  /-- Records read at the start of a copy: layout and box (R246). -/
  recs   : List Nat
  /-- Pieces of its work that are done: sectors or lines of a copy, rows of an epilogue. -/
  done   : List Nat
deriving DecidableEq, Repr

/-- A copy batch: its members that have not ended, how many it has had, and the status of the first failure (R248). -/
structure Batch where
  tag     : Word
  g       : GroupRef
  members : List Word
  count   : Nat
  status  : Byte
  closed  : Bool
deriving DecidableEq, Repr

/-- The STATE codes 1 to 5 of a traversal state record (R340). -/
inductive LaneState where
  | running | suspended | switched | done | cancelled
deriving DecidableEq, Repr

/-- The slot of a structure that a lane has entered, with the slot's fields as read at entry (R320, R331). -/
structure StructRef where
  desc  : Nat
  slot  : Fin 2
  inst  : Bool
  nodea : Nat
  prima : Nat
  nnode : Nat
  nprim : Nat
  gen   : Nat
deriving DecidableEq, Repr

/-- What a lane of a traversal does next (R345 to R352, R362). Depths, nodes, child slots and primitives are numbers. -/
inductive Cont where
  | start
  | resume (mode : TrresMode) (t : Option Word) (uv : Word)
  | loop
  /-- A visit entry has been popped: its node is awaited. -/
  | visit (n k slot : Nat)
  /-- A continue entry has been popped: its node is awaited. -/
  | again (n k slot : Nat)
  /-- Restart has come to depth d: node p is awaited. -/
  | restart (d p : Nat)
  /-- Leaf c of node n at depth k: its primitive is awaited; triangle `tri` is next, then the other leaves. -/
  | leaf (n k c cref tri : Nat) (rest : List (Nat × Nat))
  /-- Parked: the root of a level is polled. -/
  | resolve (bottom : Bool)
  /-- Back from a switch, to go on from its record: in a leaf, or in the loop (R353). -/
  | back (leaf : Bool)
deriving DecidableEq, Repr

/-- A lane of a TRACE or TRRES command in Lantern's lane table, or held as suspended (R340, R361 to R363). `rec'` is its
traversal state record; `trace` names the TRACE whose counts it holds (R331). -/
structure RayLane where
  tag    : Word
  trace  : Word
  g      : GroupRef
  launch : Nat
  team   : Nat
  ctx    : BitVec 12
  lane   : Lane
  addr   : Nat
  hit    : Fin 128
  /-- Structure table address; nothing for a TRRES. -/
  table  : Nat
  begun  : Bool
  state  : LaneState
  held   : Bool
  code   : Byte
  rec'   : Nat
  cont   : Cont
  /-- The record that was awaited, once fetched; the lines of a patch read so far (R348). -/
  node   : Option Nat
  part   : List Nat
  top    : Option StructRef
  bot    : Option StructRef
  /-- The counts that the lane holds: descriptor and slot, the top one first (R331). -/
  counts : List (Nat × Fin 2)
  /-- The object ray (origin and direction) and IID of the instance being traversed (R347). -/
  obj    : Option (List Word × Word)
  /-- Cycles until the next poll of a parked lane (R351). -/
  poll   : Nat
deriving DecidableEq, Repr

/-- A count of R331 that is still to be released: context, descriptor and slot. -/
structure InflRelease where
  ctx  : BitVec 12
  desc : Nat
  slot : Fin 2
deriving DecidableEq, Repr

/-- The matrix command in progress: its next K-block, and the accumulators that it forms, row by row; `acc2` those of
the second tile of a paired MTAP (R281, R304). `ends` is the CLOCK at which R296 has it end; `stop` tells that it stops
at its next K-block boundary for a switch (R310); `old` are the rows of the RSF that held an error when the command took them, with
its first K-block. -/
structure Job where
  tag  : Word
  kb   : Nat
  acc  : List Word
  acc2 : List Word
  ends : Nat
  stop : Bool
  old  : Option (List (Fin 128))
deriving DecidableEq, Repr

/-- The EPI in progress: its parameter block as read, its next row and the amax so far (R292, R293). -/
structure EpiJob where
  tag  : Word
  pb   : Nat
  row  : Nat
  m    : Word
deriving DecidableEq, Repr

/-- State of the matrix engine that can hold an uncorrectable error: a row of the RSF, or a TT register (R282). -/
inductive MxName where
  | rsf (row : Fin 128)
  | tt (i : Fin 2)
deriving DecidableEq, Repr

/-- The matrix engine and the epilogue pipe of a core. RSF stands as bytes in the layout of R279, TT0 and TT1 in that of
R288. -/
structure Matrix where
  rsf : Mem
  tt0 : Mem
  tt1 : Mem
  job : Option Job
  /-- The command before it, whose last promotion is over and whose write is still to come (R290). -/
  out : Option Job
  /-- Commands stopped at a K-block boundary for a switch (R282, R395). -/
  halted : List Job
  epi : Option EpiJob
  errs : List MxName
deriving DecidableEq, Repr

/-- What a core has issued in a cycle: the cycle, the words granted to the scalar unit, the CLOCK at which each vector pipe that
is held, and the port, are free again (R119, R140, R143), the slots of the groups chosen, the grant and slot of the last of
them, the slots of those that issued YIELD, of groups whose cycle is over, and of those whose next word is not fetched or
whose fixed-latency operands are not available (R70, R168, R169). -/
structure IssueCycle where
  clk    : Nat
  scalar : Nat
  pipes  : List Nat
  port   : Nat
  slots  : List (Fin 32)
  last   : Option (Nat × Nat)
  yields : List (Fin 32)
  spent  : List (Fin 32)
  unready : List (Fin 32)
deriving DecidableEq, Repr

/-- A core with its caches, write path, TLBs, commands and scoreboard. -/
structure Core where
  mx    : Matrix
  rays  : List RayLane
  infl  : List InflRelease
  l1    : List CacheLine
  ro    : List CacheLine
  path  : List PathEntry
  /-- Stores that have entered the path so far. -/
  pathN : Nat
  itlb  : List TlbEntry
  dtlb  : List TlbEntry
  tlb2  : List TlbEntry
  /-- Command tags: the next tag (R236). -/
  tag   : Word
  /-- Number the core's grants have reached (R169). -/
  grant : Nat
  /-- The issue choice of the present cycle (R169). -/
  issue : IssueCycle
  sb    : List Hold
  cmds  : List Cmd
  batches : List Batch
  /-- Cycles that the core has been idle, and whether its clock is gated (R449). -/
  idle  : Nat
  gated : Bool
deriving DecidableEq, Repr

/-- What the device keeps of a saved launch beside its save area: its groups, teams, barriers and commands in their order,
from which a restore takes what the area has no place for (R396 to R401; notes/assumptions/40). -/
structure KeptCore where
  core    : CoreRef
  cmds    : List Cmd
  rays    : List RayLane
  sb      : List Hold
  batches : List Batch
  halted  : List Job
deriving DecidableEq, Repr

/-- Everything kept of a saved launch; `bins` are its formed groups that were not placed, with their die. -/
structure Kept where
  groups : List Group
  teams  : List Team
  bars   : List Barrier
  cores  : List KeptCore
  bins   : List (Fin 2 × Bin)
deriving DecidableEq, Repr

/-- An accepted launch. -/
structure Launch where
  key     : Nat
  ctx     : BitVec 12
  record  : LaunchRec
  /-- The chain whose LAUNCH record named it (R421). -/
  chain   : ChainRef
  /-- The chain index of that record (R256). -/
  index   : Nat
  regions : List Region
  /-- The table as each core read it when it placed its first team of the launch (R99). -/
  tables  : List (CoreRef × List Region)
  phase   : LaunchPhase
  /-- Ticket ranges of die 0 and die 1 (R164). -/
  t0      : Tickets
  t1      : Tickets
  /-- CLOCK of the last start on each die, when there has been one (R167). -/
  started : Vector (Option Nat) 2
  /-- Cores on which a team of the launch has started (R183). -/
  startedOn : List CoreRef
  /-- Spawn sequence numbers of each die (R172). -/
  spawnSeq : Vector Nat 2
  /-- Head and tail of each die's spill ring: records taken from it and put into it so far (R171). -/
  spill   : Vector (Nat × Nat) 2
  /-- Memory as it stood when the launch was accepted: what fetch may still return (R14). -/
  code    : Mem
  /-- Further aborts counted in MORE, and whether the report stands in memory (R174). -/
  more    : Nat
  reported : Bool
  /-- Preemption in progress (R391). -/
  pre     : Option Preempt
  /-- Address of the launch record (R396). -/
  lrec    : Nat
  /-- What stands for the launch while it is saved (R396). -/
  kept    : Option Kept
  /-- What of the save area is still to be written, and where it goes on (R396, R402). -/
  saving  : Nat × List Byte := (0, [])
deriving DecidableEq, Repr

/-! ### Chains and Wickline -/

/-- A write that is one part of a node's rewrite: a physical address, a length in bytes and their value (R327). -/
structure NodeWrite where
  pa  : Nat
  len : Nat
  val : Nat
deriving DecidableEq, Repr

/-- A record of a chain that its engine has taken and not yet published (R256): its index, the 512 bits of its entry with
their address, its engine and instance, and what it ended with. `since` and `next` count the cycles since it began to wait
and until its next poll (R422, R333, R437). -/
structure ChainRec where
  c      : ChainRef
  idx    : Nat
  raw    : Nat
  va     : Nat
  eng    : Nat
  inst   : Nat
  /-- What the record ended with, once it is performed. -/
  status : Option Byte
  /-- The launch that a LAUNCH has accepted (R421). -/
  launch : Option Nat
  /-- It has begun: an MWAIT waits, a RECLAIM is deferred, flits are sent, a collective is entered. -/
  begun  : Bool
  since  : Nat
  next   : Nat
  /-- How far a BUILD, a SKIM, a RECLAIM or a collective has come, with what it keeps: numbers, and node writes still to be made, by
  child slot of the root (R328 to R330). -/
  stage  : Nat
  acc    : List Nat
  todo   : List (Nat × List (Nat × Nat))
  /-- The rest of a node's rewrite, in its order (R327). -/
  writes : List NodeWrite
  /-- Abandoned at a context kill while its rollback is still to be made (R403). -/
  dead   : Bool
deriving DecidableEq, Repr

/-- A flit that a lamplighter or a controller has formed, or that is passed on for another device: its sender's record, class,
sender, far device and port (R424, R425). -/
structure Flit where
  chain : Option ChainRef
  cls   : Fin 4
  src   : BitVec 12
  dst   : BitVec 12
  port  : Fin 12
  body  : FlitBody
deriving DecidableEq, Repr

/-- A flit sent: its die, the window in which its sender admitted it, its sequence number on the port, and itself (R424, R427). -/
structure SentFlit where
  die  : Fin 2
  win  : Nat
  seq  : Nat
  flit : Flit
deriving DecidableEq, Repr

/-- A PUT of which a line has been refused here, with the status: its later lines are not performed (R237, R433). -/
structure CutPut where
  src    : BitVec 12
  c      : ChainRef
  status : Byte
deriving DecidableEq, Repr

/-- A Wickline flit that has arrived and waits for the pager or its turn, with the window in which it was sent (R388,
R428). -/
structure Arrived where
  n    : Nat
  src  : BitVec 12
  win  : Nat
  body : FlitBody
deriving DecidableEq, Repr

/-- What a member has announced of a collective: its part, KIND, COUNT or LEN, IT, the number of its devices and the list as far as
it has come (R437). -/
structure Plan where
  part  : CollPart
  n     : Nat
  rank  : Nat
  kind  : BitVec 8
  count : BitVec 32
  fp32  : Bool
  devs  : List (BitVec 12)
deriving DecidableEq, Repr

/-- A collective of one GID and COLLID on this device: its contributor, rank and device list, once a record has started, and what
the members have sent: plans, scale words by rank and block, mantissas by rank and block, shares by rank, and the status that a
mismatch or an abort gives (R437 to R442). -/
structure Coll where
  gid    : BitVec 16
  collid : BitVec 32
  chain  : Option ChainRef
  rank   : Nat
  devs   : List (BitVec 12)
  plans  : List Plan
  scales : List (Nat × Nat × BitVec 20)
  mants  : List (Nat × Nat × List Int)
  shares : List (Nat × Nat × List Byte)
  verdict : Option Byte
deriving DecidableEq, Repr

/-! ### The device -/

/-- Places where errors are counted (R192, R453), and records that a die could not read or write (R388, R417). -/
inductive ErrPlace where
  | files | l1 | l2 | link (l : Link) | gddr | line | record
deriving DecidableEq, Repr

/-- An error that the checks of R192 find. One that is corrected is only counted, and a line of L1 is dropped. An
uncorrectable one leaves its value in a register, a byte of a typed-store window, a byte of a row of the RSF or of a TT
register; a line whose CRC fails twice on a read from GDDR7 is poisoned. -/
inductive Upset where
  | corrected (p : ErrPlace)
  | register (g : GroupRef) (n : RegName) (x : Word64)
  | store (team : Nat) (sp : Space) (a : Nat) (b : Byte)
  | matrix (c : CoreRef) (n : MxName) (a : Nat) (b : Byte)
  | l1 (c : CoreRef) (line : LineNo)
  | line (line : LineNo)
deriving DecidableEq, Repr

/-- Who moves in a turn: a group issues its next word (from the code as it stood at launch when `old`, R14), or
another agent performs one of its steps, or a cache or TLB drops a line or entry by replacement (R182, R386), or an
engine does a part of its work, or an error is found (R192). -/
inductive Act where
  | issue (g : GroupRef) (old : Bool)
  /-- In this cycle the group's next word is not fetched, or a fixed-latency operand of it is not available: timing that the
  agenda gives (R168; notes/assumptions/101). -/
  | unready (g : GroupRef)
  | event (i : Instr)
  | dropL1 (c : CoreRef) (line : LineNo)
  | dropRo (c : CoreRef) (line : LineNo)
  | dropTlb (c : CoreRef) (ctx : BitVec 12) (va : Nat)
  | dropEngineTlb (die : Fin 2) (ctx : BitVec 12) (va : Nat)
  /-- A core asks for a ticket (R165). -/
  | ask (c : CoreRef)
  /-- A copy in progress performs one of its pieces out of turn (R211, R245). -/
  | copyPiece (c : CoreRef) (tag : Word) (piece : Nat)
  /-- The epilogue in progress writes its next row (R293). -/
  | epiRow (c : CoreRef)
  /-- Lantern tries again to release the counts that wait for the pager (R331). -/
  | release (c : CoreRef)
  /-- The save of a launch writes the next line of its area (R396, R402). -/
  | saveLine (launch : Nat)
  /-- A Wickline write that waited for the pager is tried again (R428). -/
  | flitAgain (die : Fin 2) (n : Nat)
  /-- A die's controller forms a window marker or route control for a device (R425, R427). -/
  | control (die : Fin 2) (dst : BitVec 12) (f : FlitBody)
  /-- The management port reads the counters of a place, or a die's certificate (R452, R453). -/
  | readCounters (p : ErrPlace)
  | readCertificate (die : Fin 2)
  /-- The host performs the next atomic of a slice natively (R415). -/
  | hostAtom (die : Fin 2) (slice : Fin 128)
  /-- The other instance of a shared BUILD writes the next node of its half (R412). -/
  | buildHalf (c : ChainRef)
  | upset (u : Upset)
deriving DecidableEq, Repr

/-- One turn of the agenda: the act, and the arithmetic-clock cycles that pass before it. -/
structure Turn where
  cycles : Nat
  act    : Act
deriving DecidableEq, Repr

/-- A context descriptor as a die has read it (R381). -/
structure CtxDesc where
  ctx    : BitVec 12
  valid  : Bool
  logb   : Nat
  plim   : Nat
  ptbase : Nat
  seala  : Word64
  chta   : Word64
  evqa   : Word64
  evlog  : Nat
  /-- The descriptor's own physical address, where EVW is kept. -/
  place  : Nat
deriving DecidableEq, Repr

/-- A valid entry of a context's seal table, as a die keeps it: index, first page and page count (R187). -/
structure SealEntry where
  ctx : BitVec 12
  idx : Nat
  vpn : Nat
  npg : Nat
deriving DecidableEq, Repr

/-- A compute die: its clock, register window, walker, fault table, gatherer and engines (R176, R416). -/
structure Die where
  /-- Arithmetic-clock cycles since reset (R11). -/
  clock  : Nat
  walks  : List Walk
  etlb   : List TlbEntry
  slots  : List FaultSlot
  /-- Accesses waiting for a free slot, each with the REASON of its fault (R388). -/
  waiting : List (Walk × Fin 4)
  /-- Accesses refused, each with its virtual address, the status of R237 (3, 4 or 7) and the address that an event record
  names, until their owner sees it (R380, R389). -/
  refused : List (Requester × AccClass × Nat × Byte × Nat)
  /-- Atomic elements at the slices' ports, in arrival order, and the port each slice served last (R184). -/
  atom   : List AtomReq
  served : Vector (Fin 4) 128
  /-- The 64 lines of each slice that atomics have touched most recently, the latest first (R184). -/
  hot    : Vector (List LineNo) 128
  /-- CTXTA, PGRA, PGRS, PGRD, PGWR, NSTAT, NMASK (R416). -/
  ctxta  : Word64
  pgra   : Word64
  pgrs   : Word64
  pgrd   : Word64
  pgwr   : Word64
  nstat  : Word64
  nmask  : Word64
  /-- Fault records numbered so far, and whether the last write of one failed (R388). -/
  pgseq  : Nat
  pgfail : Bool
  /-- Interrupt messages sent (R416). -/
  irqs   : Nat
  ctxs   : List CtxDesc
  seals  : List SealEntry
  /-- Contexts whose seal table the die has read (R187). -/
  sealsOf : List (BitVec 12)
  /-- Event records that wait for their turn at the atomic engine: context, KIND and address, in order (R184, R380). -/
  events : List (BitVec 12 × Nat × Nat)
  /-- Open bins of the spawn gatherer, and formed ones whose groups are not placed, in the order they formed (R172). -/
  bins   : List Bin
  formed : List Bin
  /-- Continuation records that have arrived at the gatherer so far (R171). -/
  spawnN : Nat
  /-- CLOCK of the die's last start of a team, cluster or spawned group (R167). -/
  start  : Option Nat
  /-- The chain that each engine instance served last: engine, instance, and context x 4,096 + chain (R256). -/
  lastServed : List (Nat × Nat × Nat)
  /-- Flits formed and not yet admitted, in order (R427). -/
  flits  : List Flit
  /-- Flits of classes 0 to 2 that each port may still send in the present round while all three wait (R425). -/
  turns  : Vector (Vector Nat 3) 12
  /-- Flits that have arrived and wait for the pager, and the number of the next arrival (R428). -/
  arrived : List Arrived
  arrivals : Nat
  /-- PUTs of which a line has been refused (R433). -/
  cuts   : List CutPut
  /-- Host commands that have arrived and have not completed, in arrival order (R418). -/
  hcmds  : List HostCmd
deriving DecidableEq, Repr

/-- The 64-bit saturating counters of a place (R453). -/
structure ErrCount where
  place         : ErrPlace
  corrected     : Word64
  uncorrectable : Word64
deriving DecidableEq, Repr

/-- Why a die is held in reset: the heat, a firmware signature that does not verify, or a BOOTCFG that fails its check (R450,
R451). -/
inductive ResetCause where
  | heat | signature | config
deriving DecidableEq, Repr

/-- What the management controllers keep (R447 to R453). Clock ceilings are in steps of 50 MHz above 0.6 GHz: 26 is
1.9 GHz. -/
structure Platform where
  /-- Ceiling set by the power limit, and by the heat of each die. -/
  power  : Fin 27
  heat   : Vector (Fin 27) 2
  /-- Power samples of the last 10 ms in milliwatts, the newest first, and how many means in a row lay below 95 % of
  PLIM. -/
  watts  : List Nat
  calm   : Nat
  /-- Hottest reading of each die in hundredths of a degree, and how many in a row lay below 90 degrees. -/
  hottest : Vector Nat 2
  cool   : Vector Nat 2
  /-- A reading above 105 degrees has ended every launch; both dies are held once every report stands (R450). -/
  trip   : Bool
  hold   : Vector (Option ResetCause) 2
  /-- Dies whose signature failure a controller has reported, and links whose failure has been reported as fatal to the module (R451,
  R453). -/
  refused : List (Fin 2)
  fatal  : List Link
  /-- Module resets since manufacture, and each die's running firmware image (R452). -/
  bootn  : Word64
  images : Vector (List Byte) 2
  /-- Reports signed: the model's own counter of fresh signatures (notes/assumptions/47). -/
  signed : Nat
deriving DecidableEq, Repr

/-- The whole device. -/
structure State where
  /-- The group whose turn it is, and every other group. -/
  g      : Group
  rest   : List Group
  /-- Which agent moves next (the spec gives no order between agents; notes/assumptions/1). -/
  agenda : List Turn
  cores  : Vector (Vector Core 128) 2
  dies   : Vector Die 2
  teams  : List Team
  /-- Barriers with an arrival since they began (R157). -/
  bars   : List Barrier
  launches : List Launch
  /-- Memory at the point of coherence, by physical address (R178, R181). -/
  mem    : Mem
  /-- What GDDR7 holds, where an L2 line is dirty (R185, R414). -/
  gddr   : Mem
  /-- Dirty L2 lines with the context that wrote them last (R380). -/
  dirty  : List (LineNo × BitVec 12)
  /-- Poisoned lines (R193). -/
  poison : List LineNo
  /-- Releases that stand in L2 ahead of what they publish (R199). -/
  ahead  : List Ahead
  /-- Error counters, and links marked down (R453). -/
  errs   : List ErrCount
  down   : List Link
  /-- BOOTCFG of each die (R451). -/
  boots  : Vector BootCfg 2
  plat   : Platform
  /-- WINDOW (R426). -/
  window : Word64
  /-- PTP lock has been reported since reset; it has been lost for more than 10 ms (R426, R427). -/
  locked : Bool
  lost   : Bool
  /-- Records in progress, in the order in which they started (R256, R336). -/
  recs   : List ChainRec
  /-- Chains whose control block failed: not served until CHSTATE or CHRESET (R257). -/
  unserved : List (BitVec 12 × BitVec 12)
  /-- Chains whose engine has still to write HCODE and STATE (R257). -/
  halts  : List (ChainRef × Byte)
  /-- Chains whose last record ended with a non-zero status (R256). -/
  failed : List (BitVec 12 × BitVec 12)
  /-- Flits sent on Wickline, in order (R427). -/
  sent   : List SentFlit
  colls  : List Coll
  /-- Members' parts in collectives that have ended on this device (R437). -/
  overs  : List CollPart
  answer : Option Answer
  /-- The next key for a launch or team. -/
  key    : Nat
deriving DecidableEq, Repr

/-- Reasons for which a step stops with a fault. -/
inductive Fault where
  /-- Raised by nobody in this model: every step the spec describes has a next state. Safe. -/
  | none
deriving DecidableEq, Repr

/-- Reasons for which a step has no meaning. -/
inductive Refusal where
  /-- Raised by exec for a row of the table without a meaning in this model. Safe. -/
  | notModelled (mnemonic : String)
deriving DecidableEq, Repr

/-! ### Reset -/

/-- An empty handle (R236). -/
def Handle.empty : Handle := ⟨.empty, .none, 0, 0, false⟩

/-- A group record with every register zero: no group exists at device reset (R27 gives the values of a start). -/
def Group.blank : Group where
  die := 0
  core := 0
  slot := 0
  launch := 0
  team := 0
  ctx := 0
  spawned := false
  run := .retired
  s := Vector.replicate 64 0
  v := Vector.replicate 128 (Vector.replicate 32 0)
  k := Vector.replicate 8 0
  h := Vector.replicate 16 Handle.empty
  valloc := 128
  pc := 0
  plane := 0
  fresh := true
  issued := false
  span := 8
  live := none
  sc := 0
  status := 0
  exec := BitVec.allOnes 32
  exitm := 0
  pln := Vector.replicate 32 0
  fmt := Vector.replicate 4 0
  wdog := 0
  wcnt := 0
  wdue := false
  trapbase := 0
  xpc := 0
  xcause := 0
  xinfo := 0
  xscratch := 0
  groupid := 0
  teamid := 0
  clusterid := 0
  cbase := 0
  csize := 0
  regions := []
  log := []
  fifo := []
  seq := 0
  stores := 0
  fences := []
  cflush := none
  deferred := []
  settled := false
  grant := 0
  spawnq := []
  spawnc := ⟨false, false, .l64, 0⟩
  spawnAt := none
  arrived := []
  owes := none
  owesH := none
  stop := 0
  waitw := none
  waits := none
  errs := []
  leftAt := 0

/-- A core at reset: every cache, TLB and queue empty (R451). -/
def Core.reset : Core where
  mx := ⟨[], [], [], none, none, [], none, []⟩
  rays := []
  infl := []
  l1 := []
  ro := []
  path := []
  pathN := 0
  itlb := []
  dtlb := []
  tlb2 := []
  tag := 0
  grant := 0
  issue := ⟨0, 0, [], 0, [], none, [], [], []⟩
  sb := []
  cmds := []
  batches := []
  idle := 0
  gated := false

/-- A die at reset (R184, R416, R451). -/
def Die.reset : Die where
  clock := 0
  walks := []
  etlb := []
  slots := []
  waiting := []
  refused := []
  atom := []
  served := Vector.replicate 128 3
  hot := Vector.replicate 128 []
  ctxta := 0
  pgra := 0
  pgrs := 0
  pgrd := 0
  pgwr := 0
  nstat := 0
  nmask := 0
  pgseq := 0
  pgfail := false
  irqs := 0
  ctxs := []
  seals := []
  sealsOf := []
  events := []
  bins := []
  formed := []
  spawnN := 0
  start := none
  lastServed := []
  flits := []
  turns := Vector.replicate 12 #v[4, 4, 2]
  arrived := []
  arrivals := 0
  cuts := []
  hcmds := []

/-- The device right after reset (R451). -/
def State.reset : State where
  g := Group.blank
  rest := []
  agenda := []
  cores := Vector.replicate 2 (Vector.replicate 128 Core.reset)
  dies := Vector.replicate 2 Die.reset
  teams := []
  bars := []
  launches := []
  mem := []
  gddr := []
  dirty := []
  poison := []
  ahead := []
  errs := []
  down := []
  boots := Vector.replicate 2 ⟨0, 0, 0, 0, 16, 600, 0⟩
  plat := { power := 26, heat := Vector.replicate 2 26, watts := [], calm := 0, hottest := Vector.replicate 2 0,
            cool := Vector.replicate 2 0, trip := false, hold := Vector.replicate 2 none, refused := [], fatal := [], bootn := 0,
            images := Vector.replicate 2 [], signed := 0 }
  window := 0
  locked := false
  lost := false
  recs := []
  unserved := []
  halts := []
  failed := []
  sent := []
  colls := []
  overs := []
  answer := none
  key := 1

/-- The BOOTCFG that both dies share: DEVNUM and IPART are equal on them; the rest is die 0's (R451; notes/assumptions/152). -/
abbrev State.boot (s : State) : BootCfg := s.boots.get 0

end Sys2Proof.Machine
end

