-- ==== Sys2Proof/Machine/Mem.lean ====
section
/-! DEFINITION. Byte memory in canonical form: reading and writing single bytes and little-endian runs (R12). -/

namespace Sys2Proof.Machine

/-- A function over every element of a vector, by way of its list. -/
def mapVec {α β : Type} {n : Nat} (f : α → β) (v : Vector α n) : Vector β n := ⟨⟨v.toList.map f⟩, by simp⟩

/-- The byte at an address; an unlisted address reads 0 (R451; notes/assumptions/2). -/
def Mem.read : Mem → Nat → Byte
  | [], _ => 0
  | (x, b) :: m, a => if a = x then b else if a < x then 0 else Mem.read m a

/-- Put a cell in front, unless it holds the byte an unlisted address reads as. -/
def Mem.cell (a : Nat) (b : Byte) (m : Mem) : Mem := if b = 0 then m else (a, b) :: m

/-- Write one byte, keeping the canonical form. -/
def Mem.write : Mem → Nat → Byte → Mem
  | [], a, b => Mem.cell a b []
  | (x, c) :: m, a, b =>
    if a = x then Mem.cell a b m
    else if a < x then Mem.cell a b ((x, c) :: m)
    else (x, c) :: Mem.write m a b

/-- The canonical form: addresses strictly rising from `lo`, no zero byte listed. -/
def Mem.wfFrom : Nat → Mem → Bool
  | _, [] => true
  | lo, (x, b) :: m => decide (lo ≤ x) && b != 0 && Mem.wfFrom (x + 1) m

def Mem.wf (m : Mem) : Bool := Mem.wfFrom 0 m

/-- `n` bytes from `a` upward. -/
def Mem.bytes (m : Mem) (a : Nat) : Nat → List Byte
  | 0 => []
  | n + 1 => Mem.read m a :: Mem.bytes m (a + 1) n

/-- Write a run of bytes from `a` upward. -/
def Mem.writes : Mem → Nat → List Byte → Mem
  | m, _, [] => m
  | m, a, b :: bs => Mem.writes (Mem.write m a b) (a + 1) bs

/-- The value of bytes in little-endian order (R12). -/
def leNat : List Byte → Nat
  | [] => 0
  | b :: bs => b.toNat + 256 * leNat bs

/-- The low `n` bytes of a value, little-endian (R12). -/
def leBytes : Nat → Nat → List Byte
  | 0, _ => []
  | n + 1, v => BitVec.ofNat 8 v :: leBytes n (v / 256)

/-- The little-endian value of `n` bytes at `a`. -/
def Mem.nat (m : Mem) (a n : Nat) : Nat := leNat (Mem.bytes m a n)

/-- Write the low `n` bytes of `v` at `a`. -/
def Mem.setNat (m : Mem) (a n v : Nat) : Mem := Mem.writes m a (leBytes n v)

/-- Bits [lo + n - 1 : lo] of a value. -/
def bitsOf (v lo n : Nat) : Nat := v / 2 ^ lo % 2 ^ n

/-- Bytes `0` to `n - 1` at `a` copied out of another memory. -/
def Mem.copyFrom (dst : Mem) (src : Mem) (a n : Nat) : Mem := Mem.writes dst a (Mem.bytes src a n)

/-- Only the cells within [lo, lo + n): the contents of one line or window. -/
def Mem.slice (m : Mem) (lo n : Nat) : Mem := m.filter fun c => decide (lo ≤ c.1 ∧ c.1 < lo + n)

/-- Everything but the cells within [lo, lo + n). -/
def Mem.clear (m : Mem) (lo n : Nat) : Mem := m.filter fun c => decide (c.1 < lo ∨ lo + n ≤ c.1)

end Sys2Proof.Machine
end

