-- ==== Sys2Proof/Machine/Abort.lean ====
section
/-! DEFINITION. Access to the parts of the device by name: groups, cores, dies, launches and teams. -/

namespace Sys2Proof.Machine

/-- The place of a group: die, core and slot. -/
def Group.ref (g : Group) : GroupRef := ⟨g.die, g.core, g.slot⟩

def Group.coreRef (g : Group) : CoreRef := ⟨g.die, g.core⟩

/-- The group holds its slot: it is neither retired nor aborted (R113). -/
def Group.active (g : Group) : Bool :=
  match g.run with
  | .retired | .aborted => false
  | _ => true

def State.core (s : State) (c : CoreRef) : Core := (s.cores.get c.die).get c.core

def State.setCore (s : State) (c : CoreRef) (x : Core) : State :=
  { s with cores := s.cores.set c.die ((s.cores.get c.die).set c.core x) }

def State.modCore (s : State) (c : CoreRef) (f : Core → Core) : State := s.setCore c (f (s.core c))

def State.die (s : State) (d : Fin 2) : Die := s.dies.get d

def State.setDie (s : State) (d : Fin 2) (x : Die) : State := { s with dies := s.dies.set d x }

def State.modDie (s : State) (d : Fin 2) (f : Die → Die) : State := s.setDie d (f (s.die d))

/-- Every group, the focused one first. -/
def State.groups (s : State) : List Group := s.g :: s.rest

def State.mapGroups (s : State) (f : Group → Group) : State := { s with g := f s.g, rest := s.rest.map f }

/-- The first element with a property, and the list with another element in its place. -/
def exchange {α : Type} (p : α → Bool) (y : α) : List α → Option (α × List α)
  | [] => none
  | x :: xs => if p x then some (x, y :: xs) else (exchange p y xs).map fun r => (r.1, x :: r.2)

/-- Give the turn to a group with a property. -/
def State.focusOn (s : State) (p : Group → Bool) : Option State :=
  if p s.g then some s
  else (exchange p s.g s.rest).map fun r => { s with g := r.1, rest := r.2 }

/-- Give the turn to the group that holds a slot. -/
def State.focus (s : State) (r : GroupRef) : Option State := s.focusOn fun g => g.ref == r && g.active

/-- Let the group of a slot take a step, and give the turn back. -/
def State.atGroup (s : State) (r : GroupRef) (f : State → State) : State :=
  match s.focus r with
  | none => s
  | some t => ((f t).focusOn fun g => g.ref == s.g.ref && g.launch == s.g.launch && g.team == s.g.team).getD (f t)

def State.launch? (s : State) (key : Nat) : Option Launch := s.launches.find? (·.key == key)

def State.modLaunch (s : State) (key : Nat) (f : Launch → Launch) : State :=
  { s with launches := s.launches.map fun l => if l.key == key then f l else l }

def State.team? (s : State) (key : Nat) : Option Team := s.teams.find? (·.key == key)

def State.modTeam (s : State) (key : Nat) (f : Team → Team) : State :=
  { s with teams := s.teams.map fun t => if t.key == key then f t else t }

/-- CLOCK as a core of a die reads it (R11). -/
def State.clock (s : State) (d : Fin 2) : Word64 := BitVec.ofNat 64 (s.die d).clock

/-! ### The fault table (R388) -/

def FaultSlot.keyOf (t : FaultSlot) (w : Walk) : Bool := t.ctx == w.ctx && t.page == w.va / 4096 && t.cls == w.cls

/-- The lowest slot number not in use. -/
def freeSlot (ts : List FaultSlot) : Option (Fin 1024) :=
  (List.finRange 1024).find? fun n => !ts.any fun t => t.slot == n

/-- A translation fault joins the open slot of its key, opens a free one, or waits for one (R388). -/
def Die.openSlot (d : Die) (w : Walk) (reason : Fin 4) : Die :=
  if d.slots.any fun t => t.keyOf w then
    { d with slots := d.slots.map fun t => if t.keyOf w then { t with members := t.members ++ [w] } else t }
  else
    match freeSlot d.slots with
    | none => { d with waiting := d.waiting ++ [(w, reason)] }
    | some n =>
      { d with
        pgseq := d.pgseq + 1
        slots := d.slots ++ [{ slot := n, ctx := w.ctx, page := w.va / 4096, cls := w.cls, va := w.va,
                               clk := BitVec.ofNat 64 d.clock, seq := BitVec.ofNat 64 (d.pgseq + 1), reason,
                               written := false, members := [w] }] }

/-- Accesses that waited for a slot ask again, in arrival order, once slots are free (R388). -/
def Die.admitWaiting (d : Die) : Die :=
  d.waiting.foldl (fun d w => d.openSlot w.1 w.2) { d with waiting := [] }

/-- The accesses of a requester that belongs to one of the groups named (R389). -/
def Requester.ofGroups (gs : List GroupRef) : Requester → Bool
  | .fetch g _ => gs.contains g
  | .load g _ _ => gs.contains g
  | .store g _ _ => gs.contains g
  | .seal g _ => gs.contains g
  | _ => false

/-- Requesters with a property leave the walker and the fault table; a slot left empty is freed (R389), and accesses that
waited for one take it in their order (R388). -/
def Die.dropRequests (d : Die) (p : Requester → Bool) : Die :=
  { d with
    walks := d.walks.filter fun w => !p w.who
    waiting := d.waiting.filter fun w => !p w.1.who
    refused := d.refused.filter fun r => !p r.1
    slots := (d.slots.map fun t => { t with members := t.members.filter fun w => !p w.who }).filter
      fun t => !t.members.isEmpty : Die }.admitWaiting

def State.dropRequests (s : State) (p : Requester → Bool) : State :=
  { s with dies := mapVec (fun d => d.dropRequests p) s.dies }

end Sys2Proof.Machine
end

