-- ==== Sys2Proof/Machine/Phys.lean ====
section
/-! DEFINITION. Physical memory: the map of R178, slices, reads and writes at the point of coherence, poison, dirty
lines and what GDDR7 holds behind them (R178 to R181, R193, R196, R205). -/

namespace Sys2Proof.Machine

/-- The rows of R178. -/
inductive PhysRow where
  | die0 | die1 | inter | host | nothing
deriving DecidableEq, Repr

def gib : Nat := 2 ^ 30

/-- The row of R178 that holds a physical address. -/
def physRow (ipart pa : Nat) : PhysRow :=
  let l := (186 - ipart) * gib
  if pa < l then .die0
  else if 192 * gib ≤ pa ∧ pa < 192 * gib + l then .die1
  else if 384 * gib ≤ pa ∧ pa < 384 * gib + 2 * ipart * gib then .inter
  else if 2 ^ 51 ≤ pa ∧ pa < 2 ^ 52 then .host
  else .nothing

def State.row (s : State) (pa : Nat) : PhysRow := physRow s.boot.ipart.toNat pa

/-- Home die of a line, or its caching die for host memory (R178, R180). -/
def State.homeDie (s : State) (pa : Nat) : Fin 2 :=
  match s.row pa with
  | .die0 => 0
  | .die1 => 1
  | .inter => if (pa - 384 * gib) / 4096 % 2 = 1 then 1 else 0
  | .host => if pa / 4096 % 2 = 1 then 1 else 0
  | .nothing => 0

/-- Hash7 of a physical address: the slice within its die (R180). -/
def hash7 (pa : Nat) : Fin 128 :=
  let f (lo : Nat) := bitsOf pa lo 7
  Fin.ofNat 128 (f 7 ^^^ f 14 ^^^ f 21 ^^^ f 28 ^^^ f 35 ^^^ f 42 ^^^ bitsOf pa 49 3)

def lineOf (pa : Nat) : LineNo := pa / 128

/-- The die-local address of a byte of device memory (R178). -/
def dieLocal (ipart pa : Nat) : Option Nat :=
  match physRow ipart pa with
  | .die0 => some pa
  | .die1 => some (pa - 192 * gib)
  | .inter =>
    let x := pa - 384 * gib
    some ((186 - ipart) * gib + x / 8192 * 4096 + x % 4096)
  | _ => none

/-! ### The end-to-end check (R192, R193) -/

/-- One bit of a CRC-32C, least significant bit first. -/
def crcBit (c : Word) : Word := if c.getLsbD 0 then (c >>> 1) ^^^ 0x82F63B78 else c >>> 1

def crcByte (c : Word) (b : Byte) : Word := crcBit (crcBit (crcBit (crcBit (crcBit (crcBit (crcBit (crcBit (c ^^^ b.setWidth 32))))))))

/-- CRC-32C: it starts at 0xFFFF_FFFF and is complemented at the end (R192). -/
def crc32c (bs : List Byte) : Word := ~~~(bs.foldl crcByte 0xFFFFFFFF)

/-- The check code of a line with a die-local address: over its 128 bytes and the address (R192). -/
def lineCrc (bs : List Byte) (a : Nat) : Word := crc32c (bs ++ leBytes 8 a)

/-- Die-local address of the check code of a line (R192). -/
def crcPlace (a : Nat) : Nat := 186 * gib + 4 * (a / 128)

/-- What GDDR7 holds of a line: where L2 holds it dirty, what it held before (R181, R185). -/
def State.gddrLine (s : State) (l : LineNo) : List Byte :=
  (if s.dirty.any fun d => d.1 == l then s.gddr else s.mem).bytes (l * 128) 128

/-- The check code that stands in GDDR7 beside a line of device memory, with its die-local place: the CRC of what GDDR7 holds,
and its complement for a poisoned line (R192, R193). -/
def State.storedCrc (s : State) (l : LineNo) : Option (Nat × Word) :=
  (dieLocal s.boot.ipart.toNat (l * 128)).map fun a =>
    let c := lineCrc (s.gddrLine l) a
    (crcPlace a, if s.poison.contains l then ~~~c else c)

/-! ### Lines (R180, R181, R193) -/

/-- Some line of [pa, pa + n) is poisoned (R193). -/
def State.poisoned (s : State) (pa n : Nat) : Bool :=
  s.poison.any fun l => decide (lineOf pa ≤ l ∧ l ≤ lineOf (pa + n - 1))

/-- Both lines are held by one L2 slice (R180). -/
def State.sameSlice (s : State) (l m : LineNo) : Bool :=
  hash7 (l * 128) == hash7 (m * 128) && s.homeDie (l * 128) == s.homeDie (m * 128)

/-- Write a line back: GDDR7 takes its bytes and the line is clean (R185). -/
def State.cleanLine (s : State) (l : LineNo) : State :=
  { s with dirty := s.dirty.filter (·.1 != l), gddr := s.gddr.copyFrom s.mem (l * 128) 128 }

/-- Lines of a slice: 2,048 sets of 24 ways (R181). -/
def sliceLines : Nat := 2048 * 24

/-- The line that a slice full of dirty lines writes back to make room for another one (R181; notes/assumptions/103). -/
def State.victim (s : State) (l : LineNo) : Option LineNo :=
  let held := s.dirty.filter fun d => s.sameSlice d.1 l
  if held.length < sliceLines then none else held.getLast?.map (·.1)

/-- Room is made for a dirty line in its slice (R181). -/
def State.evictFor (s : State) (l : LineNo) : State :=
  match s.victim l with
  | some m => s.cleanLine m
  | none => s

/-- A line becomes dirty in L2 under the context that writes it; GDDR7 keeps what the line held (R181, R380). -/
def State.dirtyLine (s : State) (ctx : BitVec 12) (l : LineNo) : State :=
  if s.dirty.any fun d => d.1 == l then
    { s with dirty := s.dirty.map fun d => if d.1 == l then (l, ctx) else d }
  else
    let s := s.evictFor l
    { s with dirty := (l, ctx) :: s.dirty, gddr := s.gddr.copyFrom s.mem (l * 128) 128 }

/-- A write of bytes inside one line at the line's slice; one that writes all 128 bytes clears poison (R193). -/
def State.writeLine (s : State) (ctx : BitVec 12) (pa : Nat) (bs : List Byte) : State :=
  let s := s.dirtyLine ctx (lineOf pa)
  let poison := if bs.length = 128 then s.poison.filter (· != lineOf pa) else s.poison
  { s with mem := s.mem.writes pa bs, poison := poison }

/-- A write of bytes that may cover several lines, line by line; `fuel` bounds the lines. -/
def State.writeLines (s : State) (ctx : BitVec 12) (pa : Nat) (bs : List Byte) : Nat → State
  | 0 => s
  | n + 1 =>
    if bs.isEmpty then s
    else
      let k := 128 - pa % 128
      (s.writeLine ctx pa (bs.take k)).writeLines ctx (pa + k) (bs.drop k) n

/-- A write at the point of coherence. -/
def State.writeL2 (s : State) (ctx : BitVec 12) (pa : Nat) (bs : List Byte) : State :=
  s.writeLines ctx pa bs (bs.length / 128 + 2)

/-- Stores of a list that left their FIFOs, in order, over memory (R200). -/
def overlay (m : Mem) (path : List PathEntry) : Mem :=
  path.foldl (fun m p => m.writes p.pa p.bytes) m

/-- The path entry touches [pa, pa + n). -/
def PathEntry.touches (p : PathEntry) (pa n : Nat) : Bool := decide (p.pa < pa + n ∧ pa < p.pa + p.bytes.length)

/-- The bytes a line read for a core's L1 holds: L2's, with the core's own stores on their way over them (R200). -/
def State.lineFor (s : State) (c : CoreRef) (l : LineNo) : CacheLine :=
  let path := (s.core c).path.filter fun p => p.touches (l * 128) 128
  ⟨l, (overlay (s.mem.slice (l * 128) 128) path).slice (l * 128) 128, []⟩

/-- L1's general partition holds 768 lines, the read-only one 256 (R181). -/
def putLine (cap : Nat) (ls : List CacheLine) (x : CacheLine) : List CacheLine :=
  (x :: ls.filter (·.line != x.line)).take cap

def findLine (ls : List CacheLine) (l : LineNo) : Option CacheLine := ls.find? (·.line == l)

/-- An L2 reply refreshes a line that L1 holds (R196); `alloc` fills it on a miss (R216). -/
def State.fillL1 (s : State) (c : CoreRef) (l : LineNo) (alloc : Bool) : State :=
  if alloc || ((s.core c).l1.any (·.line == l)) then
    s.modCore c fun x => { x with l1 := putLine 768 x.l1 (s.lineFor c l) }
  else s

/-- Drop L1 general lines (R182). -/
def State.dropL1 (s : State) (c : CoreRef) : State := s.modCore c fun x => { x with l1 := [] }

def State.dropL1Line (s : State) (c : CoreRef) (l : LineNo) : State :=
  s.modCore c fun x => { x with l1 := x.l1.filter (·.line != l) }

end Sys2Proof.Machine
end

