-- ==== Sys2Proof/Machine/Translate.lean ====
section
/-! DEFINITION. Address translation: context descriptors, the hashed page table, TLBs, the fault table and seals (R187,
R188, R381 to R389). -/

namespace Sys2Proof.Machine

/-! ### Context descriptors (R381) -/

/-- The descriptor at a physical address, with the checks of R381: `valid` only when V is 1, reserved bits are zero
and every field is in range. -/
def readDesc (m : Mem) (ctx : BitVec 12) (place : Nat) (mapped : Nat → Bool) : CtxDesc :=
  let w (i n : Nat) := bitsOf (m.nat place 128) i n
  let ptbase := w 256 64
  { ctx, logb := w 16 5, plim := w 12 4, ptbase, seala := BitVec.ofNat 64 (w 320 64),
    chta := BitVec.ofNat 64 (w 384 64), evqa := BitVec.ofNat 64 (w 512 64), evlog := w 504 8, place,
    valid := w 0 1 == 1 && w 640 384 == 0 && w 448 56 == 0 && w 21 235 == 0 && w 1 11 == 0
      && decide (4 ≤ w 16 5 ∧ w 16 5 ≤ 28) && decide (1 ≤ w 12 4) && decide (4 ≤ w 504 8 ∧ w 504 8 ≤ 16)
      && ptbase % 128 == 0 && mapped ptbase && w 320 12 == 0 && w 384 7 == 0 && w 512 12 == 0
      && w 376 8 == 0 && w 440 8 == 0 }

/-- PTBASE lies in device memory (R381). -/
def State.inDevice (s : State) (pa : Nat) : Bool :=
  match s.row pa with
  | .die0 | .die1 | .inter => true
  | _ => false

def State.descPlace (s : State) (d : Fin 2) (ctx : BitVec 12) : Nat := (s.die d).ctxta.toNat + 128 * ctx.toNat

/-- The die's copy of a context's descriptor, or what its first use reads (R381). -/
def State.desc (s : State) (d : Fin 2) (ctx : BitVec 12) : CtxDesc :=
  match (s.die d).ctxs.find? (·.ctx == ctx) with
  | some c => c
  | none => readDesc s.mem ctx (s.descPlace d ctx) s.inDevice

/-- The die's first use of a context keeps its descriptor as it stands (R381). -/
def State.noteCtx (s : State) (d : Fin 2) (ctx : BitVec 12) : State :=
  if (s.die d).ctxs.any (·.ctx == ctx) then s else s.modDie d fun x => { x with ctxs := s.desc d ctx :: x.ctxs }

/-! ### The page table (R382 to R384) -/

/-- Shift of a page size code. -/
def pageShift (sz : Fin 4) : Nat :=
  match sz with
  | 0 => 12 | 1 => 16 | 2 => 21 | 3 => 30

/-- What a walk comes to. -/
inductive WalkResult where
  | found (e : TlbEntry)
  | noMapping
  | malformed
  /-- A bucket could not be read: status 4 or 7 of R237, and its address (R383). -/
  | unreadable (status : Byte) (place : Nat)
deriving DecidableEq, Repr

/-- ProbeStart of R383. -/
def probeStart (logb : Nat) (va : Nat) (sz : Fin 4) : Nat :=
  let k := va % 2 ^ 56 / 2 ^ pageShift sz
  (k ^^^ (k / 2 ^ 13) ^^^ (k / 2 ^ 26) ^^^ (k / 2 ^ 39) ^^^ (sz.val * 0x01555555)) % 2 ^ logb

/-- One entry at a physical address: a match, the end of this size's search, or go on (R383, R384). -/
inductive EntryStep where
  | hit (r : WalkResult)
  | stop
  | skip
deriving DecidableEq, Repr

def entryStep (ipart : Nat) (ctx : BitVec 12) (va : Nat) (sz : Fin 4) (raw : Nat) : EntryStep :=
  let sh := pageShift sz
  let v := bitsOf raw 0 1 == 1
  let tomb := bitsOf raw 4 1 == 1
  let vpn := bitsOf raw 84 44
  if !v then if tomb then .skip else .stop
  else if bitsOf raw 82 2 ≠ sz.val ∨ vpn / 2 ^ (sh - 12) ≠ va % 2 ^ 56 / 2 ^ sh then .skip
  else
    let ppn := bitsOf raw 24 40
    let base := ppn * 4096
    let ok := bitsOf raw 64 18 == 0 && bitsOf raw 5 19 == 0 && vpn % 2 ^ (sh - 12) == 0 && base % 2 ^ sh == 0
      && physRow ipart base == physRow ipart (base + 2 ^ sh - 1)
    .hit (if ok then
      .found { ctx, sz, va := va % 2 ^ 56 / 2 ^ sh * 2 ^ sh, pa := base, x := bitsOf raw 3 1 == 1,
               w := bitsOf raw 2 1 == 1, r := bitsOf raw 1 1 == 1 }
      else .malformed)

/-- Entries of one bucket from entry `8 - n` on. -/
def bucketGo (ipart : Nat) (m : Mem) (ctx : BitVec 12) (va : Nat) (sz : Fin 4) (place : Nat) : Nat → EntryStep
  | 0 => .skip
  | n + 1 =>
    match entryStep ipart ctx va sz (m.nat (place + 16 * (7 - n)) 16) with
    | .skip => bucketGo ipart m ctx va sz place n
    | r => r

/-- Up to `n` buckets of one size, from bucket `b` on, modulo 2^LOGB. -/
def sizeGo (s : State) (c : CtxDesc) (va : Nat) (sz : Fin 4) (b : Nat) : Nat → Option WalkResult
  | 0 => none
  | n + 1 =>
    let place := c.ptbase + 128 * (b % 2 ^ c.logb)
    if s.row place = .nothing then some (.unreadable 4 place)
    else if s.poisoned place 128 then some (.unreadable 7 place)
    else
      match bucketGo s.boot.ipart.toNat s.mem c.ctx va sz place 8 with
      | .hit r => some r
      | .stop => none
      | .skip => sizeGo s c va sz (b + 1) n

/-- The walk of R383: sizes from 1 GiB down to 4 KiB. -/
def State.walk (s : State) (c : CtxDesc) (va : Nat) : WalkResult :=
  let go (sz : Fin 4) := sizeGo s c va sz (probeStart c.logb va sz) c.plim
  match go 3 with
  | some r => r
  | none =>
    match go 2 with
    | some r => r
    | none =>
      match go 1 with
      | some r => r
      | none => (go 0).getD .noMapping

/-! ### TLBs (R385, R386) -/

def TlbEntry.covers (e : TlbEntry) (ctx : BitVec 12) (va : Nat) : Bool :=
  e.ctx == ctx && va / 2 ^ pageShift e.sz == e.va / 2 ^ pageShift e.sz

/-- Permissions an access needs (R385). -/
def TlbEntry.permits (e : TlbEntry) (cls : AccClass) (atomic : Bool) : Bool :=
  match cls with
  | .read => e.r
  | .write => e.w && (!atomic || e.r)
  | .fetch => e.x

def TlbEntry.addr (e : TlbEntry) (va : Nat) : Nat := e.pa + va % 2 ^ pageShift e.sz

def tlbHit (es : List TlbEntry) (ctx : BitVec 12) (va : Nat) (cls : AccClass) (atomic : Bool) : Option Nat :=
  (es.find? fun e => e.covers ctx va && e.permits cls atomic).map fun e => e.addr va

/-- Put a translation into a TLB of a capacity. -/
def tlbPut (cap : Nat) (es : List TlbEntry) (e : TlbEntry) : List TlbEntry :=
  (e :: es.filter fun x => !(x.ctx == e.ctx && x.sz == e.sz && x.va == e.va)).take cap

/-- What a translation comes to. -/
inductive Trans where
  /-- The physical address, and the state with the TLBs that a walk has filled. -/
  | ok (pa : Nat) (s : State)
  /-- A walk, a fault slot or the pager is awaited. -/
  | wait (s : State)
  /-- Refused with a status of R237: 3 declined, 4 physical address, 7 poison; `told` is the address that an event record
  names, the virtual one of a declined access, else the physical one (R380). -/
  | bad (status : Byte) (told : Nat) (s : State)

/-- A requester waits at a die: for the walker, for a slot, or in one. -/
def Die.awaits (d : Die) (who : Requester) (cls : AccClass) : Bool :=
  let p (w : Walk) := w.who == who && w.cls == cls
  d.walks.any p || (d.waiting.any fun w => p w.1) || d.slots.any fun t => t.members.any p

/-- The status of an access that was refused, with the address that an event record names; its owner sees it once (R389). -/
def Die.takeRefused (d : Die) (who : Requester) (cls : AccClass) (va : Nat) : Option (Byte × Nat × Die) :=
  let p (r : Requester × AccClass × Nat × Byte × Nat) := r.1 == who && r.2.1 == cls && r.2.2.1 == va
  (d.refused.find? p).map fun r => (r.2.2.2.1, r.2.2.2.2, { d with refused := d.refused.filter fun r => !p r })

/-- A requester waits for the pager, or for a slot to ask it (R388). -/
def Die.awaitsPager (d : Die) (who : Requester) : Bool :=
  (d.waiting.any (·.1.who == who)) || d.slots.any fun t => t.members.any (·.who == who)

/-- Fill the TLB that serves an engine: the second-level TLB of its core, or the engine TLB of its die (R386). -/
def State.fillNow (s : State) (d : Fin 2) (core : Option (Fin 128)) (e : TlbEntry) : State :=
  match core with
  | none => s.modDie d fun x => { x with etlb := tlbPut 512 x.etlb e }
  | some c => s.modCore ⟨d, c⟩ fun k => { k with tlb2 := tlbPut 2048 k.tlb2 e }

/-- Fill the TLBs that serve a walk (R386). -/
def State.fillTlb (s : State) (d : Fin 2) (w : Walk) (e : TlbEntry) : State :=
  let s := s.fillNow d w.core e
  match w.core with
  | none => s
  | some c =>
    s.modCore ⟨d, c⟩ fun k =>
      if w.cls = .fetch then { k with itlb := tlbPut 32 k.itlb e } else { k with dtlb := tlbPut 64 k.dtlb e }

/-- REASON of a fault record: no mapping, permission, or malformed entry (R388). -/
def WalkResult.reason : WalkResult → Fin 4
  | .found _ => 1
  | .malformed => 2
  | _ => 0

/-- A walk completes (R383 to R386): it fills the TLBs, opens or joins a fault slot, or is refused. -/
def State.walkEnd (s : State) (d : Fin 2) (w : Walk) : State :=
  let s := s.noteCtx d w.ctx
  match s.walk (s.desc d w.ctx) w.va with
  | .found e => if e.permits w.cls w.atomic then s.fillTlb d w e else s.modDie d fun x => x.openSlot w 1
  | .unreadable st p => s.modDie d fun x => { x with refused := x.refused ++ [(w.who, w.cls, w.va, st, p)] }
  | r => s.modDie d fun x => x.openSlot w r.reason

/-! ### Seals (R187, R188) -/

/-- Byte `va` is sealed in the die's copy of the context's table (R187). -/
def State.sealedAt (s : State) (d : Fin 2) (ctx : BitVec 12) (va : Nat) : Bool :=
  (s.die d).seals.any fun e =>
    e.ctx == ctx && decide (e.vpn ≤ va / 4096 ∧ va / 4096 < e.vpn + e.npg)

/-- Some byte of [va, va + n) is sealed. -/
def State.sealedRange (s : State) (d : Fin 2) (ctx : BitVec 12) (va n : Nat) : Bool :=
  s.sealedAt d ctx va || s.sealedAt d ctx (va + n - 1)

/-- One entry of a seal table in memory, when it is valid (R187). -/
def readSeal (m : Mem) (ctx : BitVec 12) (place idx : Nat) : Option SealEntry :=
  let raw := m.nat (place + 16 * idx) 16
  if bitsOf raw 0 1 = 1 then some ⟨ctx, idx, bitsOf raw 12 44, bitsOf raw 64 32⟩ else none

/-- A miss asks the die's walker, which takes 128 walks and queues the others in arrival order (R386). -/
def State.askWalk (s : State) (d : Fin 2) (w : Walk) : State :=
  (s.noteCtx d w.ctx).modDie d fun x => { x with walks := x.walks ++ [w] }

/-- A hit in a TLB, where the address lies in a row of the map (R178). -/
def State.hitAt (s : State) (pa : Nat) : Trans := if s.row pa = .nothing then .bad 4 pa s else .ok pa s

/-- Translation through some TLBs: what was refused before, then a wait that still stands, then the TLBs, then what a miss
comes to (R379, R386, R389). -/
def State.through (s : State) (d : Fin 2) (es : List TlbEntry) (w : Walk) (miss : State → Trans) : Trans :=
  let x := s.die d
  match x.takeRefused w.who w.cls w.va with
  | some r => .bad r.1 r.2.1 (s.setDie d r.2.2)
  | none =>
    if x.awaits w.who w.cls then .wait s
    else
      match tlbHit es w.ctx w.va w.cls w.atomic with
      | some pa => s.hitAt pa
      | none => miss s

/-- A walk within the step of an engine: it fills the TLB that serves the engine; a fault opens or joins a slot and the engine
waits (R379, R386; notes/assumptions/4). -/
def State.walkNow (s : State) (d : Fin 2) (w : Walk) : Trans :=
  let s := s.noteCtx d w.ctx
  match s.walk (s.desc d w.ctx) w.va with
  | .found e =>
    if e.permits w.cls w.atomic then (s.fillNow d w.core e).hitAt (e.addr w.va) else .wait (s.modDie d fun x => x.openSlot w 1)
  | .unreadable st p => .bad st p s
  | r => .wait (s.modDie d fun x => x.openSlot w r.reason)

/-- Translation for an engine: the second-level TLB of its core, or the engine TLB of its die; a walk takes no time while fewer
than 128 are in flight, and queues behind the others else (R386; notes/assumptions/4). -/
def State.lookNow (s : State) (d : Fin 2) (core : Option (Fin 128)) (who : Requester) (ctx : BitVec 12) (va : Nat)
    (cls : AccClass) (atomic : Bool) : Trans :=
  let es := match core with
    | some c => (s.core ⟨d, c⟩).tlb2
    | none => (s.die d).etlb
  let w : Walk := ⟨who, ctx, va, cls, atomic, core⟩
  s.through d es w fun s => if 128 ≤ (s.die d).walks.length then .wait (s.askWalk d w) else s.walkNow d w

/-! ### Contexts in use (R187, R381) -/

/-- The die keeps the valid entries of a context's seal table, whose page it has translated. -/
def State.keepSeals (s : State) (d : Fin 2) (ctx : BitVec 12) (pa : Nat) : State :=
  let seals := (List.range 256).filterMap fun i => readSeal s.mem ctx pa i
  s.modDie d fun x => { x with sealsOf := ctx :: x.sealsOf, seals := seals ++ x.seals.filter (·.ctx != ctx) }

/-- The die's first use of a context reads its descriptor and its seal table (R187, R381): a translation fault is
replayable, and a table that cannot be read is told by its status. -/
def State.firstRead (s : State) (d : Fin 2) (ctx : BitVec 12) : Trans :=
  if (s.die d).sealsOf.contains ctx then .ok 0 s
  else
    let s := s.noteCtx d ctx
    match s.lookNow d none (.seals d ctx) ctx (s.desc d ctx).seala.toNat .read false with
    | .ok pa s => if s.poisoned pa 4096 then .bad 7 pa s else .ok 0 (s.keepSeals d ctx pa)
    | t => t

/-- Where the table cannot be read, no entry is judged, and the next use reads the table again (R187;
notes/assumptions/5). -/
def State.readCtx (s : State) (d : Fin 2) (ctx : BitVec 12) : Trans :=
  match s.firstRead d ctx with
  | .bad _ _ s => .ok 0 s
  | t => t

/-- The state after a first use, whatever it came to. -/
def State.useCtx (s : State) (d : Fin 2) (ctx : BitVec 12) : State :=
  match s.readCtx d ctx with
  | .ok _ s => s
  | .wait s => s
  | .bad _ _ s => s

/-- A write is judged against the die's copy of the seal table, which must have been read (R187). -/
def State.judging (s : State) (d : Fin 2) (ctx : BitVec 12) (cls : AccClass) : Trans :=
  if cls = .write then s.readCtx d ctx else .ok 0 s

/-- Go on with the state that a first use leaves. -/
def Trans.andThen (t : Trans) (f : State → Trans) : Trans :=
  match t with
  | .ok _ s => f s
  | t => t

/-- Translation for an access that goes through a core's first-level TLBs (R386). -/
def State.translate (s : State) (c : CoreRef) (who : Requester) (ctx : BitVec 12) (va : Nat) (cls : AccClass)
    (atomic : Bool) : Trans :=
  (s.judging c.die ctx cls).andThen fun s =>
    let k := s.core c
    let w : Walk := ⟨who, ctx, va, cls, atomic, some c.core⟩
    s.through c.die ((if cls = .fetch then k.itlb else k.dtlb) ++ k.tlb2) w fun s => .wait (s.askWalk c.die w)

/-- Translation for an engine, a write judged as well. -/
def State.translateNow (s : State) (d : Fin 2) (core : Option (Fin 128)) (who : Requester) (ctx : BitVec 12) (va : Nat)
    (cls : AccClass) (atomic : Bool) : Trans :=
  (s.judging d ctx cls).andThen fun s => s.lookNow d core who ctx va cls atomic

end Sys2Proof.Machine
end

