-- ==== Sys2Proof/Machine/Via.lean ====
section
/-! DEFINITION. Accesses of engines, chains and records to global memory, by way of whoever's translation serves them
(R379, R385). -/

namespace Sys2Proof

/-- .clu or wider (R203). -/
def Scope.wide : Scope → Bool
  | .grp | .core => false
  | _ => true

/-- Party `b` lies in the instance of the scope around party `a`, groups of one core being one party (R198). -/
def Scope.covers (sco : Scope) (a b : Machine.Party) : Bool :=
  match sco with
  | .grp | .core => a.die == b.die && a.core == b.core
  | .clu => a.cluster == b.cluster
  | .die => a.die == b.die
  | .dev | .sys => true

end Sys2Proof

namespace Sys2Proof.Machine

/-! ### Releases that stand in L2 ahead of what they publish (R199, R202, R203) -/

def Ahead.touches (x : Ahead) (pa n : Nat) : Bool := decide (x.pa < pa + n ∧ pa < x.pa + x.len)

/-- A party that reads bytes as an acquire at a scope must wait for a release that it synchronises with (R199, R203). -/
def State.aheadFor (s : State) (sco : Scope) (me : Party) (pa n : Nat) : Bool :=
  s.ahead.any fun x => x.touches pa n && x.sco.covers x.by' me && sco.covers me x.by'

/-- The same for a device engine of a die, which lies in no core and no cluster. -/
def State.aheadDie (s : State) (d : Fin 2) (pa n : Nat) : Bool :=
  s.ahead.any fun x => x.touches pa n && (x.sco == .dev || x.sco == .sys || (x.sco == .die && x.by'.die == d))

/-- The same for the host, which only a release at .sys reaches. -/
def State.aheadHost (s : State) (pa n : Nat) : Bool := s.ahead.any fun x => x.touches pa n && x.sco == .sys

/-- Translation of one address for whoever reaches the chain: a group through its core's TLBs, or an engine. -/
abbrev Via := State → Nat → AccClass → Bool → Trans

/-- Where an access failed: its virtual address, and the address that an event record names (R380). -/
structure FailAt where
  va   : Nat
  told : Nat
deriving DecidableEq, Repr

/-- What an access to a chain's memory comes to. -/
inductive Chk (α : Type) where
  | ok (a : α) (s : State)
  | wait (s : State)
  | bad (status : Byte) (at' : FailAt) (s : State)

def Chk.bind {α β : Type} (x : Chk α) (f : α → State → Chk β) : Chk β :=
  match x with
  | .ok a s => f a s
  | .wait s => .wait s
  | .bad st f s => .bad st f s

/-- Accesses of which each is an acquire: one to a line that holds a release which `p` names waits for what it publishes. -/
def Via.acquiring (via : Via) (p : State → Nat → Nat → Bool) : Via := fun s va cls atomic =>
  match via s va cls atomic with
  | .ok pa t => if p t pa (128 - pa % 128) then .wait t else .ok pa t
  | t => t

/-- Read `n` bytes at a virtual address, in one line. -/
def readVia (via : Via) (s : State) (va n : Nat) : Chk (List Byte) :=
  if 2 ^ 56 ≤ va then .bad 4 ⟨va, va⟩ s
  else
    match via s va .read false with
    | .ok pa s => if s.poisoned pa n then .bad 7 ⟨va, pa⟩ s else .ok (s.mem.bytes pa n) s
    | .wait t => .wait t
    | .bad st told t => .bad st ⟨va, told⟩ t

/-- The physical address for a write or an atomic, after the checks of R385. -/
def writeVia (via : Via) (d : Fin 2) (ctx : BitVec 12) (s : State) (va n : Nat) (atomic : Bool) : Chk Nat :=
  if 2 ^ 56 ≤ va then .bad 4 ⟨va, va⟩ s
  else
    match via s va .write atomic with
    | .ok pa s =>
      if s.sealedRange d ctx va n then .bad 5 ⟨va, pa⟩ s
      else if atomic && s.poisoned pa n then .bad 7 ⟨va, pa⟩ s
      else .ok pa s
    | .wait t => .wait t
    | .bad st told t => .bad st ⟨va, told⟩ t

/-! ### Reading without any effect -/

/-- The physical address behind a readable page, found without any fault. -/
def State.peekAddr (s : State) (d : Fin 2) (ctx : BitVec 12) (va : Nat) : Option Nat :=
  let c := s.desc d ctx
  let look (e : TlbEntry) : Option Nat := if e.r && s.row (e.addr va) != .nothing then some (e.addr va) else none
  if 2 ^ 56 ≤ va then none
  else
    match (s.die d).etlb.find? fun e => e.covers ctx va with
    | some e => look e
    | none =>
      match s.walk c va with
      | .found e => look e
      | _ => none

/-- Read bytes of one page by a die's engine without any fault: where it is readable and the line is not poisoned. -/
def State.peekPage (s : State) (d : Fin 2) (ctx : BitVec 12) (va n : Nat) : Option (List Byte) :=
  match s.peekAddr d ctx va with
  | some pa => if s.poisoned pa n then none else some (s.mem.bytes pa n)
  | none => none

/-- Bytes of a range before the next 4 KiB boundary. -/
def inPage (va n : Nat) : Nat := min n (4096 - va % 4096)

/-- Read a range of at most 4 KiB. -/
def State.peek (s : State) (d : Fin 2) (ctx : BitVec 12) (va n : Nat) : Option Nat :=
  let k := inPage va n
  match s.peekPage d ctx va k, (if k < n then s.peekPage d ctx (va + k) (n - k) else some []) with
  | some x, some y => some (leNat (x ++ y))
  | _, _ => none

/-- Reading without any effect: what cannot be read now is passed over. -/
def viaPeek (d : Fin 2) (ctx : BitVec 12) : Via := fun s va _ _ =>
  match s.peekAddr d ctx va with
  | some pa => .ok pa s
  | none => .wait s

/-! ### The atomic engines (R184) -/

/-- Port of a slice that a request takes: the core above it, the mesh of its die, the bridge, or the engine port, which an
engine that belongs to no core uses (R184, R410). -/
def portOf (from' home : Fin 2) (core : Option (Fin 128)) (slice : Fin 128) : Fin 4 :=
  if from' ≠ home then 2
  else
    match core with
    | some c => if c = slice then 0 else 1
    | none => 3

/-- The port served next: the first after the one served last, wrapping round, that presents a request (R184). -/
def nextPort (last : Fin 4) (asks : Fin 4 → Bool) : Option (Fin 4) :=
  ([1, 2, 3, 4].map fun k => Fin.ofNat 4 (last.val + k)).find? asks

/-- A slice has served a port: its hot-line store takes the line of an atomic (R184). -/
def State.served (s : State) (home : Fin 2) (slice : Fin 128) (port : Fin 4) (atomic : Bool) (l : LineNo) : State :=
  s.modDie home fun d => { d with
    served := d.served.set slice port
    hot := if atomic then d.hot.set slice ((l :: (d.hot.get slice).filter (· != l)).take 64) else d.hot }

/-- An atomic of an engine or of a QPUT, or a write that Wickline delivers, is served in its step when its port presents it and
is next: no older request stands at the port. Its core drops the L1 line (R182, R184, R206). -/
def State.atomTurn (s : State) (from' : Fin 2) (core : Option (Fin 128)) (atomic : Bool) (pa : Nat) : Option State :=
  let home := s.homeDie pa
  let slice := hash7 pa
  let port := portOf from' home core slice
  let d := s.die home
  let at' (p : Fin 4) := d.atom.any fun q => q.slice == slice && q.port == p
  if at' port then none
  else if nextPort (d.served.get slice) (fun p => p == port || at' p) = some port then
    let s := s.served home slice port atomic (lineOf pa)
    some (match core with
      | some c => s.dropL1Line ⟨from', c⟩ (lineOf pa)
      | none => s)
  else none

/-- The physical address for an atomic, or a write that Wickline delivers, whose turn at its slice has come; it waits for its
turn otherwise. -/
def turnVia (via : Via) (d : Fin 2) (ctx : BitVec 12) (core : Option (Fin 128)) (s : State) (va n : Nat) (atomic : Bool) :
    Chk Nat :=
  (writeVia via d ctx s va n atomic).bind fun pa t =>
    match t.atomTurn d core atomic pa with
    | some t => .ok pa t
    | none => .wait t

end Sys2Proof.Machine
end

