-- ==== Sys2Proof/Machine/Notify.lean ====
section
/-! DEFINITION. What the device tells the host and the management controller: NSTAT and interrupt messages (R416), event
records (R380), error counters (R453). -/

namespace Sys2Proof.Machine

/-- An interrupt message is sent while NSTAT AND NMASK is not 0 (R416; notes/assumptions/17). -/
def Die.interrupt (d : Die) : Die := if d.nstat &&& d.nmask = 0 then d else { d with irqs := d.irqs + 1 }

/-- Set a bit of NSTAT (R416). -/
def State.notify (s : State) (d : Fin 2) (bit : Nat) : State :=
  s.modDie d fun x => { x with nstat := x.nstat ||| BitVec.ofNat 64 (2 ^ bit) }.interrupt

/-- A write that no translation stands before: nothing where the address maps to nothing (R178). -/
def State.writePhys (s : State) (ctx : BitVec 12) (pa : Nat) (bs : List Byte) : State :=
  if s.row pa = .nothing then s else s.writeL2 ctx pa bs

/-- Write an event record, whose atomic on EVW has its turn: EVW, the record, and the notice to the host (R380). EVQA is a
physical address (notes/assumptions/16). -/
def State.writeEvent (s : State) (d : Fin 2) (c : CtxDesc) (kind pa : Nat) : State :=
  let old := s.mem.nat (c.place + 72) 8
  let s := s.writePhys c.ctx (c.place + 72) (leBytes 8 (old + 1))
  let rec' := kind + pa * 2 ^ 64 + (s.clock d).toNat * 2 ^ 128 + (old + 1) * 2 ^ 192
  (s.writePhys c.ctx (c.evqa.toNat + 32 * (old % 2 ^ c.evlog)) (leBytes 32 rec')).notify d 1

/-- Event records of a die are written in order, each once the atomic on its EVW has its turn at the slice (R184, R380). -/
def State.writeEventsGo (s : State) (d : Fin 2) : List (BitVec 12 × Nat × Nat) → State
  | [] => s.modDie d fun x => { x with events := [] }
  | (ctx, kind, pa) :: es =>
    let c := s.desc d ctx
    match s.atomTurn d none true (c.place + 72) with
    | none => s.modDie d fun x => { x with events := (ctx, kind, pa) :: es }
    | some t => (t.writeEvent d c kind pa).writeEventsGo d es

def State.writeEvents (s : State) (d : Fin 2) : State := s.writeEventsGo d (s.die d).events

/-- Append an event record to a context's ring and notify the host (R380). -/
def State.appendEvent (s : State) (d : Fin 2) (ctx : BitVec 12) (kind : Nat) (pa : Nat) : State :=
  ((s.noteCtx d ctx).modDie d fun x => { x with events := x.events ++ [(ctx, kind, pa)] }).writeEvents d

/-- A 64-bit saturating count. -/
def satAdd (x : Word64) (n : Nat) : Word64 := BitVec.ofNat 64 (min (x.toNat + n) (2 ^ 64 - 1))

/-- Count errors of a place (R453). -/
def State.countError (s : State) (p : ErrPlace) (corrected uncorrectable : Nat) : State :=
  let add (e : ErrCount) : ErrCount :=
    { e with corrected := satAdd e.corrected corrected, uncorrectable := satAdd e.uncorrectable uncorrectable }
  if s.errs.any fun e => e.place == p then
    { s with errs := s.errs.map fun e => if e.place = p then add e else e }
  else { s with errs := s.errs ++ [add ⟨p, 0, 0⟩] }

/-- Lines become poisoned; no partition of L1 holds a poisoned line (R193). -/
def State.poisonLines (s : State) (ls : List LineNo) : State :=
  let keep (x : CacheLine) := !ls.contains x.line
  { s with
    poison := ls.filter (fun l => !s.poison.contains l) ++ s.poison
    cores := mapVec (mapVec fun k => { k with l1 := k.l1.filter keep, ro := k.ro.filter keep }) s.cores }

end Sys2Proof.Machine
end

