-- ==== Sys2Proof/Machine/Stop.lean ====
section
/-! DEFINITION. The in-flight counts that Lantern takes and releases (R331), and the abort of a launch with its report
(R174, R402, R403). -/

namespace Sys2Proof.Machine

/-! ### In-flight counts (R320, R331) -/

/-- The state word of a slot. -/
def stateWordAt (desc : Nat) (slot : Fin 2) : Nat := desc + 64 + 32 * slot.val

/-- An atomic of Lantern on a state word. -/
def viaInfl (c : CoreRef) (ctx : BitVec 12) (desc : Nat) (slot : Fin 2) : Via := fun s va cls atomic =>
  s.translateNow c.die (some c.core) (.infl c desc slot) ctx va cls atomic

/-- Subtract 1 from INFL; where the pager or the slice is awaited the release waits with it, and a fault that cannot be replayed
leaves the count raised and is told in an event record. -/
def State.releaseCount (s : State) (c : CoreRef) (r : InflRelease) : State :=
  match turnVia (viaInfl c r.ctx r.desc r.slot) c.die r.ctx (some c.core) s (stateWordAt r.desc r.slot) 8 true with
  | .ok pa s =>
    let w := s.mem.nat pa 8
    let n := (bitsOf w 32 32 + 2 ^ 32 - 1) % 2 ^ 32
    s.writeL2 r.ctx pa (leBytes 8 (w % 2 ^ 32 + n * 2 ^ 32))
  | .wait s => s.modCore c fun k => { k with infl := k.infl ++ [r] }
  | .bad _ f s => s.appendEvent c.die r.ctx 2 f.told

/-- Releases that wait are tried again. -/
def State.releaseAgain (s : State) (c : CoreRef) : State :=
  (s.core c).infl.foldl (fun s r => s.releaseCount c r) (s.modCore c fun k => { k with infl := [] })

/-- A lane holds the count of a slot. -/
def RayLane.inSlot (y : RayLane) (desc : Nat) (slot : Fin 2) : Bool := y.counts.contains (desc, slot)

/-- Some lane of the same TRACE still holds the slot's count. -/
def Core.holdsCount (k : Core) (trace : Word) (launch desc : Nat) (slot : Fin 2) : Bool :=
  k.rays.any fun y => y.trace == trace && y.launch == launch && y.inSlot desc slot

/-- The counts that a lane holds, as they are to be released. -/
def RayLane.owed (y : RayLane) : List InflRelease := y.counts.map fun r => ⟨y.ctx, r.1, r.2⟩

/-- Lanes with a property leave Lantern; the counts that only they held are released. -/
def State.dropRays (s : State) (c : CoreRef) (p : RayLane → Bool) : State :=
  let gone := (s.core c).rays.filter p
  let s := s.modCore c fun k => { k with rays := k.rays.filter fun y => !p y }
  let cs := (gone.flatMap fun y => y.owed.map fun r => (y.trace, y.launch, r)).eraseDups
  cs.foldl (fun s x =>
    if (s.core c).holdsCount x.1 x.2.1 x.2.2.desc x.2.2.slot then s else s.releaseCount c x.2.2) s

/-! ### The end of a launch by abort or kill (R174, R402, R403) -/

/-- A group of an aborted or killed launch stops at once; its FIFO is discarded (R174, R402). -/
def Group.abort (g : Group) : Group :=
  if g.active then
    { g with run := .aborted, fifo := [], log := [], fences := [], cflush := none, deferred := [], spawnq := [] }
  else g

/-- The commands of a launch stop on a core: no write of theirs is left half done, and what they hold is freed (R403). -/
def Core.dropLaunch (k : Core) (key : Nat) (refs : List GroupRef) : Core :=
  let tags := (k.cmds.filter fun x => x.launch == key).map Cmd.tag
  let mine (t : Word) := tags.contains t
  { k with
    cmds := k.cmds.filter fun x => x.launch != key
    sb := k.sb.filter fun h => !mine h.tag
    batches := k.batches.filter fun b => !refs.contains b.g
    mx := { k.mx with
      job := k.mx.job.filter fun j => !mine j.tag
      out := k.mx.out.filter fun j => !mine j.tag
      epi := k.mx.epi.filter fun e => !mine e.tag
      halted := k.mx.halted.filter fun j => !mine j.tag } }

/-- Requests of a launch's groups, commands and spawn records. -/
def State.ofLaunch (s : State) (key : Nat) (refs : List GroupRef) (r : Requester) : Bool :=
  Requester.ofGroups refs r ||
    match r with
    | .command c tag _ => (s.core c).cmds.any fun x => x.tag == tag && x.launch == key
    | .gather _ l => l == key
    | _ => false

/-- Every core. -/
def allCores : List CoreRef := [0, 1].flatMap fun d => (List.finRange 128).map fun c => ⟨d, c⟩

/-- The teams of a barrier's reference. -/
def BarRef.ofKeys (keys : List Nat) (launch : Nat) (b : BarRef) : Bool :=
  match b with
  | .team _ t _ => keys.contains t
  | .cluster _ t _ => keys.contains t
  | .grid l => l == launch

/-- The counts that a saved launch's lanes hold are released (R331, R403). -/
def State.freeKept (s : State) (k : Kept) : State :=
  k.cores.foldl (fun s x =>
    ((x.rays.flatMap fun y => y.owed.map fun r => (y.trace, r)).eraseDups).foldl (fun s r => s.releaseCount x.core r.2) s) s

/-- Everything of a launch stops: groups, commands, requests, atomics, records, teams and barriers; Lantern's counts are
released. -/
def State.stopLaunch (s : State) (key : Nat) : State :=
  let refs := (s.groups.filter fun g => g.launch == key && g.active).map Group.ref
  let keys := (s.teams.filter (·.launch == key)).map Team.key
  let s := s.dropRequests (s.ofLaunch key refs)
  let s := s.mapGroups fun g => if g.launch == key then g.abort else g
  let s := allCores.foldl (fun s c =>
    if (s.core c).rays.any (·.launch == key) then s.dropRays c (·.launch == key) else s) s
  let s := ((s.launch? key).bind Launch.kept).elim s fun k => s.freeKept k
  { s with
    cores := mapVec (mapVec fun k => if k.cmds.isEmpty && k.batches.isEmpty then k else k.dropLaunch key refs) s.cores
    dies := mapVec (fun d =>
      { d with
        atom := d.atom.filter fun r => !refs.contains r.who
        bins := d.bins.filter (·.launch != key)
        formed := d.formed.filter (·.launch != key) }) s.dies
    teams := s.teams.filter (·.launch != key)
    bars := s.bars.filter fun b => !BarRef.ofKeys keys key b.ref
    launches := s.launches.map fun l =>
      if l.key = key then
        { l with t0 := { l.t0 with low := l.t0.high }, t1 := { l.t1 with low := l.t1.high }, pre := none, kept := none, saving := (0, [])
                 spill := mapVec (fun p => (p.2, p.2)) l.spill }
      else l }

/-- The 64 bytes of an abort report; for kinds 1 and 4 most fields are zero, and for kind 5 OFF and RBASE are (R174). -/
def Report.bytes (r : Report) (lid : Word) (more : Nat) : List Byte :=
  leBytes 4 lid.toNat ++ [r.die, r.core, 0, 0] ++ leBytes 4 r.team.toNat ++ leBytes 4 r.group.toNat
    ++ [r.kind, r.code, r.sub, 0] ++ leBytes 4 r.rbase.toNat ++ leBytes 4 r.off.toNat
    ++ leBytes 4 (min more (2 ^ 32 - 1)) ++ leBytes 8 r.info.toNat ++ leBytes 8 r.clk.toNat ++ leBytes 16 0

/-- The status that a launch command completes with once its report stands (R421). -/
def Report.status (r : Report) : Byte := if r.kind = 1 then 16 else 17

/-- The report's write comes through the serving die's translation, in the launch's context. -/
def viaReport (l : Launch) : Via := fun s va cls atomic =>
  s.translateNow l.chain.die none (.report l.key) l.ctx va cls atomic

/-- Write a report that is due: it stands before the status, or is lost (R174, R421). -/
def State.publish (s : State) (key : Nat) : State :=
  match s.launch? key with
  | none => s
  | some l =>
    match l.phase with
    | .reporting r =>
      let va := l.record.rpta.toNat
      let lost (s : State) := s.modLaunch key fun l => { l with phase := .ended 19 }
      if 2 ^ 56 ≤ va ∨ va % 64 ≠ 0 then lost s
      else
        match writeVia (viaReport l) l.chain.die l.ctx s va 64 false with
        | .ok pa s =>
          if s.poisoned pa 64 then lost s
          else
            (s.writeL2 l.ctx pa (r.bytes l.record.lid l.more)).modLaunch key fun l =>
              { l with phase := .ended r.status, reported := true }
        | .wait s => s
        | .bad _ _ s => lost s
    | _ => s

/-- A later abort of a launch whose report stands raises MORE there (R174). -/
def State.countMore (s : State) (l : Launch) : State :=
  if !l.reported then s
  else
    match writeVia (viaReport l) l.chain.die l.ctx s (l.record.rpta.toNat + 28) 4 false with
    | .ok pa s => s.writeL2 l.ctx pa (leBytes 4 (min (s.mem.nat pa 4 + 1) (2 ^ 32 - 1)))
    | .wait s => s
    | .bad _ _ s => s

/-- Abort a launch (R174): everything of it stops and no ticket of it is taken any more; the first abort fixes the report
that is written to RPTA, and each later one only counts in MORE. -/
def State.abortLaunch (s : State) (key : Nat) (r : Report) : State :=
  match s.launch? key with
  | none => s.stopLaunch key
  | some l =>
    match l.phase with
    | .running | .saved => (((s.stopLaunch key).modLaunch key fun l => { l with phase := .reporting r })).publish key
    | .reporting _ => s.modLaunch key fun l => { l with more := l.more + 1 }
    | .ended _ => s.countMore l

/-- The report of an abort met by the focused group (R174). -/
def State.report (s : State) (kind code sub : Byte) (info : Word64) (rbase off : Word) : Report :=
  { kind, code, sub, info, rbase, off, group := s.g.groupid, team := s.g.teamid,
    core := BitVec.ofNat 8 s.g.core.val, die := BitVec.ofNat 8 s.g.die.val, clk := s.clock s.g.die }

end Sys2Proof.Machine
end

