-- ==== Sys2Proof/Machine/Ops.lean ====
section
/-! DEFINITION. The named operations of a group: its registers, its place in the program and in a plane region, run
boundaries, trap entry and return. -/

namespace Sys2Proof.Machine

/-! ### Lane masks -/

/-- The mask with one bit per lane (R95). -/
def maskOf (f : Lane → Bool) : LaneMask := (BitVec.ofBoolListLE (List.ofFn f)).setWidth 32

/-! ### Registers -/

/-- Lanes of an outstanding result that a later write to one of its registers takes over (R20, R377). -/
def Pend.cut (p : Pend) (reg : Operand) (m : LaneMask) : Pend :=
  match reg, p.dst with
  | .s n, .s k => if n = k then { p with due := p.due &&& ~~~m } else p
  | .v n, .v k => if n = k then { p with due := p.due &&& ~~~m } else p
  | .v n, .vpair k =>
    if n = k then { p with due := p.due &&& ~~~m }
    else if n.val = k.val + 1 then { p with dueHi := p.dueHi &&& ~~~m } else p
  | .sc, _ => { p with dueSc := false }
  | _, _ => p

/-- A write that follows in program order every outstanding result with a position below `seq` (R19, R20). -/
def Group.cut (g : Group) (seq : Nat) (reg : Operand) (m : LaneMask) : Group :=
  { g with log := g.log.map fun p => if p.seq < seq then p.cut reg m else p }

/-- Registers written whole no longer hold an error (R375). -/
def Group.cleanIf (g : Group) (p : RegName → Bool) : Group := { g with errs := g.errs.filter fun n => !p n }
def Group.clean (g : Group) (n : RegName) : Group := g.cleanIf (· == n)

/-- S0 reads as zero (R6). -/
def Group.readS (g : Group) (n : Fin 64) : Word64 := if n = 0 then 0 else g.s.get n

/-- A write to S0 is discarded (R6). -/
def Group.putS (g : Group) (n : Fin 64) (x : Word64) : Group :=
  if n = 0 then g else { g.clean (.s n) with s := g.s.set n x }

/-- A fixed-latency write to an S register (R18). -/
def Group.writeS (g : Group) (n : Fin 64) (x : Word64) : Group := (g.putS n x).cut g.seq (.s n) (BitVec.allOnes 32)

/-- K0 reads as all ones (R39). -/
def Group.readK (g : Group) (n : Fin 8) : LaneMask := if n = 0 then BitVec.allOnes 32 else g.k.get n

/-- A write to K0 is discarded (R39). -/
def Group.writeK (g : Group) (n : Fin 8) (x : LaneMask) : Group :=
  if n = 0 then g else { g.clean (.k n) with k := g.k.set n x }

/-- Bits of K(D) on the lanes of `m`; the others keep their values, and an error stays unless every bit is written (R118,
R375). -/
def Group.writeKLanes (g : Group) (d : Fin 8) (m : LaneMask) (p : Lane → Bool) : Group :=
  let h := g.writeK d ((g.readK d &&& ~~~m) ||| (maskOf p &&& m))
  if m = BitVec.allOnes 32 then h else { h with errs := g.errs }

def Group.readV (g : Group) (n : Fin 128) (i : Lane) : Word := (g.v.get n).get i

/-- The lanes of `m` take their elements of `x`; the others keep theirs (R96). -/
def Group.putV (g : Group) (n : Fin 128) (m : LaneMask) (x : Lane → Word) : Group :=
  { g.cleanIf (fun e => match e with
      | .v k i => k == n && m.getLsbD i.val
      | _ => false) with
    v := g.v.set n (Vector.ofFn fun i => if m.getLsbD i.val then x i else (g.v.get n).get i) }

/-- A fixed-latency write to a V register on the lanes of `m` (R18, R96). -/
def Group.writeV (g : Group) (n : Fin 128) (m : LaneMask) (x : Lane → Word) : Group :=
  (g.putV n m x).cut g.seq (.v n) m

/-- The odd register of an even-odd pair (R95). -/
def pairHi (n : Fin 128) : Fin 128 := ⟨(n.val + 1) % 128, Nat.mod_lt _ (by decide)⟩

/-- A 64-bit value in an even-odd pair (R95). -/
def Group.readV64 (g : Group) (n : Fin 128) (i : Lane) : Word64 := g.readV (pairHi n) i ++ g.readV n i

def Group.writeV64 (g : Group) (n : Fin 128) (m : LaneMask) (x : Lane → Word64) : Group :=
  (g.writeV n m fun i => (x i).extractLsb' 0 32).writeV (pairHi n) m fun i => (x i).extractLsb' 32 32

/-- A fixed-latency write to SC (R8). -/
def Group.writeSc (g : Group) (x : BitVec 4) : Group :=
  ({ g.clean (.special 1) with sc := x }).cut g.seq .sc 0

/-- A write to EXEC never sets the bit of a lane that has left by LEXIT (R68, R161). -/
def Group.writeExec (g : Group) (x : LaneMask) : Group :=
  { g.clean (.special 2) with exec := x &&& ~~~g.exitm }

/-! ### STATUS (R10) -/

def Group.tm (g : Group) : Bool := g.status.getLsbD 0
def Group.wdx (g : Group) : Bool := g.status.getLsbD 2
def Group.ssc (g : Group) : BitVec 4 := g.status.extractLsb' 12 4

/-- STATUS from its fields; reserved bits read zero. -/
def mkStatus (ssc : BitVec 4) (wdx plerr tm : Bool) : Word :=
  0#16 ++ ssc ++ 0#9 ++ BitVec.ofBool wdx ++ BitVec.ofBool plerr ++ BitVec.ofBool tm

def Group.plerr (g : Group) : Bool := g.status.getLsbD 1
def Group.setTm (g : Group) (b : Bool) : Group := { g with status := mkStatus g.ssc g.wdx g.plerr b }
def Group.setWdx (g : Group) (b : Bool) : Group := { g with status := mkStatus g.ssc b g.plerr g.tm }
def Group.setPlerr (g : Group) (b : Bool) : Group := { g with status := mkStatus g.ssc g.wdx b g.tm }
def Group.setSsc (g : Group) (x : BitVec 4) : Group := { g with status := mkStatus x g.wdx g.plerr g.tm }

/-! ### Place in the program (R7, R98 to R106) -/

/-- The plane region whose plane-0 copy holds an offset; the copy of another plane is ordinary code for a PC that no check of R101
meets (R100, R163; notes/assumptions/126). -/
def Group.regionAt (g : Group) (pc : Word) : Option Region :=
  g.regions.find? fun r => decide (r.base ≤ pc.toNat ∧ pc.toNat < r.base + r.stride)

/-- InRegion (R96). -/
def Group.region (g : Group) : Option Region := g.regionAt g.pc

/-- The offset lies in the copy of a plane other than 0 of some region (R101). -/
def Group.inOtherCopy (g : Group) (pc : Word) : Bool :=
  g.regions.any fun r => decide (r.base + r.stride ≤ pc.toNat ∧ pc.toNat < r.base + r.npl * r.stride)

/-- PlaneAddr of the word whose turn it is (R103). -/
def Group.planeAddr (g : Group) : Word :=
  match g.region with
  | some r => g.pc + BitVec.ofNat 32 (g.plane.val * r.stride)
  | none => g.pc

/-- CurrentRegionBase for a resume point: the BASE of the region that holds PC, or 0 (R32, R106;
notes/assumptions/10). -/
def Group.regionBase (g : Group) : Word :=
  match g.region with
  | some r => BitVec.ofNat 32 r.base
  | none => 0

/-- Member(p) for the plane whose turn it is (R96). -/
def Group.memberOf (g : Group) (p : Fin 4) : LaneMask :=
  match g.region with
  | some _ => g.exec &&& maskOf fun i => (g.pln.get i).toNat == p.val
  | none => g.exec

def Group.member (g : Group) : LaneMask := g.memberOf g.plane

/-- Executing(p, GRD, GNEG) (R42, R96). -/
def Group.executing (g : Group) (gd : Guard) : LaneMask :=
  g.member &&& (if gd.neg then ~~~(g.readK gd.k) else g.readK gd.k)

/-- The FMT bank of the issuing plane (R109). -/
def Group.bank (g : Group) : Fin 4 := if g.region.isSome then g.plane else 0
def Group.curFmt (g : Group) : Word := g.fmt.get g.bank

/-- Go to an offset: plane 0, nothing at it examined yet. -/
def Group.goto (g : Group) (pc : Word) : Group := { g with pc := pc, plane := 0, fresh := true, issued := false }

/-- After the turn of the current plane (R102, R103): the next plane of the offset, or the next offset, stepping over
a LIVE word and out of the region at its end (R100, R108). The Bool tells that the offset was left. -/
def Group.passPlane (g : Group) (len : Nat) : Group × Bool :=
  let step := len + (if g.live.isSome then 8 else 0)
  match g.region with
  | none => (g.goto (g.pc + BitVec.ofNat 32 step), true)
  | some r =>
    if h : g.plane.val + 1 < r.npl ∧ g.plane.val + 1 < 4 then
      ({ g with plane := ⟨g.plane.val + 1, h.2⟩, fresh := false }, false)
    else if g.pc.toNat + step < r.base + r.stride then (g.goto (g.pc + BitVec.ofNat 32 step), true)
    else (g.goto (BitVec.ofNat 32 (r.base + r.npl * r.stride)), true)

/-! ### Watchdog (R28, R29) -/

/-- The count restarts at WDOG x 1,024 and WDX is cleared (R28). -/
def Group.restartWatchdog (g : Group) : Group := { g.setWdx false with wcnt := g.wdog.toNat * 1024 }

/-! ### Traps (R30 to R33, R106, R372 to R374) -/

/-- A trap of the instruction whose turn it is, resuming at it. -/
def Group.trapHere (g : Group) (code sub : Byte) (info : Word64) : TrapReq :=
  { code, sub, info, rbase := g.regionBase, off := g.planeAddr }

/-- The registers that trap entry writes whole: XPC, XCAUSE and XINFO (R32). -/
def RegName.saves (n : RegName) : Bool := n == .special 0x0A || n == .special 0x0B || n == .special 0x0C

/-- Trap entry once the park is over (R32): the abort of the launch in trap mode or with handlers off, whose report has the
RBASE that XPC holds then (R174), else the saved registers and the handler's address. A watchdog trap still due is
discarded (R373), and a WAITW issued again after TRET computes its target afresh (R430). -/
def State.enterTrap (s : State) (t : TrapReq) : State :=
  if s.g.tm || !s.g.trapbase.getLsbD 0 then
    s.abortLaunch s.g.launch (s.report 2 t.code t.sub t.info (s.g.xpc.extractLsb' 32 32) t.off)
  else
    let g := ((s.g.setSsc s.g.sc).setTm true).cleanIf RegName.saves
    { s with g := { g.goto (g.trapbase.extractLsb' 8 24 ++ 0#8) with
                    run := .ready
                    wdue := false
                    settled := false
                    waitw := none
                    owesH := none
                    xpc := t.rbase ++ t.off
                    xcause := 0#48 ++ t.sub ++ t.code
                    xinfo := t.info } }

/-- The deferred fault of the earliest access, and of its lowest lane (R374). -/
def earliest : List Deferred → Option Deferred
  | [] => none
  | d :: ds =>
    match earliest ds with
    | none => some d
    | some e => if d.seq < e.seq ∨ (d.seq = e.seq ∧ d.lane ≤ e.lane) then some d else some e

/-- TRET once the park is over (R33, R101, R106): a bad target is a trap in trap mode. A barrier that a trap cut short is
issued again only at its own place (R157). -/
def State.trapReturn (s : State) : State :=
  let g := s.g
  let off := g.xpc.extractLsb' 0 32
  let rbase := g.xpc.extractLsb' 32 32
  let back (pc : Word) (plane : Fin 4) : State :=
    { s with g := { ({ g with sc := g.ssc }.setTm false).restartWatchdog with
                    pc := pc, plane := plane, fresh := true, issued := false, run := .ready
                    owes := if g.owes == some off then g.owes else none
                    errs := (g.clean (.special 1)).errs } }
  if off.extractLsb' 0 2 != 0#2 then s.enterTrap (g.trapHere 2 0 (off.setWidth 64))
  else if rbase = 0 then
    if g.inOtherCopy off then s.enterTrap (g.trapHere 4 3 (off.setWidth 64)) else back off 0
  else
    match g.regions.find? fun r => r.base == rbase.toNat with
    | some r =>
      let o := off.toNat - r.base
      if r.base ≤ off.toNat ∧ off.toNat < r.base + r.npl * r.stride then
        back (BitVec.ofNat 32 (r.base + o % r.stride)) (Fin.ofNat 4 (o / r.stride))
      else s.enterTrap (g.trapHere 2 0 (off.setWidth 64))
    | none => s.enterTrap (g.trapHere 2 0 (off.setWidth 64))

/-- The launch is being preempted (R391). -/
def State.preempting (s : State) (key : Nat) : Bool :=
  match s.launch? key with
  | some l => l.pre.isSome
  | none => false

def State.stopping (s : State) : Bool := s.preempting s.g.launch

/-- What a wait or sleep waits for. -/
def Run.wait? : Run → Option Wait
  | .waiting _ w => some w
  | _ => none

/-- The focused group stops for a preemption (R392, R393): a watchdog trap that is due is discarded. -/
def Group.suspend (g : Group) (stop : Fin 5) (w : Option Wait) : Group :=
  { g with run := .suspended, stop, waits := w, wdue := false }

/-- A forced stop: the group issues nothing more. A sleep that it was about to begin stays to be done, a group that is
leaving stops at the word by which it leaves (notes/assumptions/42), and one that SPAWN holds stops once the SPAWN has
completed (R159). -/
def Group.forceStop (g : Group) : Group :=
  match g.run with
  | .ready => if g.spawnq.isEmpty then g.suspend 2 none else g
  | .exiting => g.suspend 2 none
  | .parked (.sleep reg n _) =>
    g.suspend 2 (some (.sleep (min ((reg.map fun r => (g.readS r).toNat).getD n) (2 ^ 24 - 1))))
  | .parked _ => g.suspend 2 none
  | _ => g

/-- The deadline of the launch's preemption has passed (R393). -/
def State.forced (s : State) (key : Nat) : Bool :=
  match (s.launch? key).bind Launch.pre with
  | some p => p.forced
  | none => false

/-- The focused group begins to wait; one being preempted stops at once with STOP 4 (R113, R392). -/
def State.beginWait (s : State) (c : Ctl) (w : Wait) : State :=
  { s with g := if s.stopping then s.g.suspend 4 (some w) else { s.g with run := .waiting c w } }

/-- The group reaches its safe point: the watchdog restarts (R28), and a group being preempted stops with STOP 1
(R392); otherwise it goes on as `k` says. -/
def State.safePoint (s : State) (sp : Bool) (k : Group → Run) : State :=
  let g := if sp then s.g.restartWatchdog else s.g
  if sp && s.stopping then { s with g := g.suspend 1 (k g).wait? }
  else
    match k g with
    | .waiting c w => { s with g }.beginWait c w
    | r => { s with g := { g with run := r } }

/-- The group's grant is taken again: it stands last in its core's order (R169). -/
def State.regrant (s : State) : State :=
  let c := s.g.coreRef
  { s.modCore c fun x => { x with grant := x.grant + 1 } with g := { s.g with grant := (s.core c).grant } }

/-- The Ctl of a word of which nothing is left to do. -/
def Ctl.plain : Ctl := ⟨false, false, .l64, 0⟩

/-- The end of a cycle of a core's issue choice: the groups that issued YIELD in it take their grants, after every other
grant of the cycle (R169). -/
def State.giveYields (s : State) (c : CoreRef) : State :=
  let again (s : State) (slot : Fin 32) : State :=
    let n := (s.core c).grant
    (s.mapGroups fun g => if g.coreRef = c ∧ g.slot = slot ∧ g.active then { g with grant := n } else g).modCore c
      fun k => { k with grant := n + 1 }
  ((s.core c).issue.yields.foldl again s).modCore c fun k => { k with issue := { k.issue with yields := [] } }

/-- A new cycle of a core's issue choice; vector pipes and the port stay held (R119, R140, R168). -/
def State.openCycle (s : State) (c : CoreRef) : State :=
  let clk := (s.die c.die).clock
  let q := (s.core c).issue
  if q.clk = clk then s
  else s.modCore c fun k => { k with issue := { q with
    clk, scalar := 0, pipes := q.pipes.filter (clk < ·), slots := [], last := none, spent := [], unready := [] } }

/-- The group's core gives it one more grant at the end of this cycle (R73, R169; notes/assumptions/128). -/
def State.yields (s : State) : State :=
  s.modCore s.g.coreRef fun k => { k with issue := { k.issue with yields := k.issue.yields ++ [s.g.slot] } }

/-- A sleep of `n` cycles; SLEEP of 0 behaves as YIELD, whose grant comes last (R73; notes/assumptions/128). -/
def State.sleepFor (s : State) (n : Nat) (sp : Bool) : State :=
  if n = 0 then s.yields.safePoint sp fun _ => .ready else s.safePoint sp fun _ => .waiting Ctl.plain (.sleep n)

/-- The group takes the earliest of its deferred faults: the others are not reported, and neither is a later fault of
another lane of the same instruction (R374; notes/assumptions/99). -/
def Group.takeFault (g : Group) (seq : Nat) : Group :=
  { g with deferred := [], fifo := g.fifo.map fun e => if e.seq = seq then { e with told := true } else e }

/-- The end of a park (R20, R22, R374): a deferred fault first, then the trap that made the boundary, then a watchdog
trap that is due, then what the boundary leads to. -/
def State.settle (s : State) (b : Boundary) : State :=
  match earliest s.g.deferred with
  | some d => { s with g := s.g.takeFault d.seq }.enterTrap (s.g.trapHere d.code d.sub d.info)
  | none =>
    match b with
    | .trap t => s.enterTrap t
    | _ =>
      if s.g.wdue && !s.g.tm then s.enterTrap (s.g.trapHere 0x0A 0 0)
      else
        match b with
        | .switch sp => s.safePoint sp fun _ => .ready
        | .trap _ => s
        | .tret sp =>
          let t := s.trapReturn
          if t.g.run = .ready then t.safePoint sp fun _ => .ready else t
        | .sleep reg n sp => s.sleepFor (min ((reg.map fun r => (s.g.readS r).toNat).getD n) (2 ^ 24 - 1)) sp
        | .wait => { s with g := { s.g with run := .ready, settled := true } }

/-- The waiting instruction at PC has still to park: a deferred fault or a watchdog trap that has become due since its park
is taken before it waits (R22). -/
def Group.unsettled (g : Group) : Bool := !g.settled || !g.deferred.isEmpty || (g.wdue && !g.tm)

/-- A run boundary (R20, R22): the group parks until every outstanding result has been written. -/
def State.boundary (s : State) (b : Boundary) : State :=
  if s.g.log.isEmpty then s.settle b else { s with g := { s.g with run := .parked b } }

/-! ### Issue -/

/-- After a word has issued: the next word in program order, and the boundary that its SW or SP bit makes (R20, R25);
inside a region a safe point is reached when the offset is left (R108). -/
def State.advance (s : State) (c : Ctl) : State :=
  let live := s.g.live.isSome
  let r := s.g.passPlane c.len.bytes
  let s := { s with g := { r.1 with settled := false } }
  if live && r.2 then s.boundary (.switch true)
  else if c.sw && !c.sp then s.boundary (.switch false)
  else s

/-- What issuing a word comes to: a new state in which PC still stands at the word, or a trap at issue, before any
effect (R32, R50). -/
def State.finish (s : State) (c : Ctl) (r : Except TrapReq State) : State :=
  match r with
  | .ok t => t.advance c
  | .error t => s.boundary (.trap t)

/-- Set PC by a branch, call, return or jump (R16, R66, R101); `link` is what else the instruction writes. A refused
target has no effect at all. -/
def State.jump (s : State) (c : Ctl) (t : Word64) (link : Group → Group) : State :=
  if t.extractLsb' 32 32 != 0#32 || t.extractLsb' 0 2 != 0#2 then s.boundary (.trap (s.g.trapHere 2 0 t))
  else
    let pc := t.extractLsb' 0 32
    if s.g.inOtherCopy pc then s.boundary (.trap (s.g.trapHere 4 3 t))
    else
      let s := { s with g := { (link s.g).goto pc with settled := false } }
      if c.sp || c.sw then s.boundary (.switch c.sp) else s

end Sys2Proof.Machine
end

