-- ==== Sys2Proof/Machine/Operands.lean ====
section
/-! DEFINITION. What an operand code stands for as a source: registers, inline constants and literals, adapted to the
operand's type (R39, R41, R57). -/

namespace Sys2Proof

/-- LIT32 (R37). -/
def Ctl.lit32 (c : Ctl) : Word := c.lit.extractLsb' 0 32

/-- The signed integer types (R47). -/
def Ty.isSigned : Ty → Bool
  | .s64 | .s32 | .s16 | .s8 | .s4 => true
  | _ => false

end Sys2Proof

namespace Sys2Proof.Machine

/-- The integer of an inline code as a 64-bit two's-complement value; 0xEC to 0xEF are FP32 bit patterns (R39). -/
def inlineInt : Operand → Word64
  | .small n => BitVec.ofNat 64 n.val
  | .neg n => 0#64 - BitVec.ofNat 64 (2 ^ n.val)
  | .fpat n =>
    match n with
    | 0 => 0x3F000000 | 1 => 0x3F800000 | 2 => 0x40000000 | 3 => 0xBF800000
  | _ => 0

/-- The FP32 bits that a float operation reads from an inline code (R39). -/
def inlineF32 : Operand → Word
  | .small n =>
    match n.val with
    | 0 => 0x00000000 | 1 => 0x3F800000 | 2 => 0x40000000 | 3 => 0x40400000 | 4 => 0x40800000 | 5 => 0x40A00000
    | 6 => 0x40C00000 | 7 => 0x40E00000 | 8 => 0x41000000 | 9 => 0x41100000 | 10 => 0x41200000 | 11 => 0x41300000
    | 12 => 0x41400000 | 13 => 0x41500000 | 14 => 0x41600000 | _ => 0x41700000
  | .neg n =>
    match n with
    | 0 => 0xBF800000 | 1 => 0xC0000000 | 2 => 0xC0800000 | 3 => 0xC1000000
  | .fpat n =>
    match n with
    | 0 => 0x3F000000 | 1 => 0x3F800000 | 2 => 0x40000000 | 3 => 0xBF800000
  | _ => 0

/-- LIT32 widened under the operand's type (R41). -/
def lit32As (ty : Ty) (c : Ctl) : Word64 :=
  match ty with
  | .n64 => c.lit32.setWidth 64
  | .s64 | .b64 => c.lit32.signExtend 64
  | _ => c.lit32.setWidth 64

/-- A source of a once-per-group instruction, widened to 64 bits (R41, R57). -/
def Group.src (g : Group) (c : Ctl) (ty : Ty) (o : Operand) : Word64 :=
  match o with
  | .s n => g.readS n
  | .k n => (g.readK n).setWidth 64
  | .exec => g.exec.setWidth 64
  | .fmt => g.curFmt.setWidth 64
  | .sc => g.sc.setWidth 64
  | .lit32 => lit32As ty c
  | .lit64 => c.lit
  | o => inlineInt o

/-- A source read as a whole 64-bit value whatever the type (R41, R61, R63). -/
def Group.srcWhole (g : Group) (c : Ctl) (o : Operand) : Word64 := g.src c .s64 o

/-- A source of which 32 bits are read (R68, R69). -/
def Group.src32 (g : Group) (c : Ctl) (o : Operand) : Word := (g.src c .b32 o).extractLsb' 0 32

/-! ### Lane operands (R116, R117) -/

/-- A 32-bit source element of a lane in class 2 (R116). -/
def Group.lane32 (g : Group) (c : Ctl) (o : Operand) (i : Lane) : Word :=
  match o with
  | .v n => g.readV n i
  | .s n => (g.readS n).extractLsb' 0 32
  | .pln => (g.pln.get i).setWidth 32
  | .laneid => BitVec.ofNat 32 i.val
  | .lit32 => c.lit32
  | o => (inlineInt o).extractLsb' 0 32

/-- The operand is a literal or an inline constant. -/
def isConst (o : Operand) : Bool := o.isInline || o == .lit32 || o == .lit64

/-- The low `w` bits of a value in every element of a lane (R117). -/
def replicateElems (w : Nat) (x : Word) : Word :=
  if w = 8 then x.extractLsb' 0 8 ++ x.extractLsb' 0 8 ++ x.extractLsb' 0 8 ++ x.extractLsb' 0 8
  else if w = 16 then x.extractLsb' 0 16 ++ x.extractLsb' 0 16
  else x

/-- A source of a packed integer operation: a constant enters every element (R117); PLN and LANEID are
taken as 32-bit values, as an S register is (notes/assumptions/117). -/
def Group.lanePacked (g : Group) (c : Ctl) (w : Nat) (o : Operand) (i : Lane) : Word :=
  if isConst o then replicateElems w (g.lane32 c o i) else g.lane32 c o i

/-- A 64-bit source of a lane: an even pair, an S register, or a constant extended by the type (R41, R126). -/
def Group.lane64 (g : Group) (c : Ctl) (ty : Ty) (o : Operand) (i : Lane) : Word64 :=
  match o with
  | .v n => g.readV64 n i
  | .s n => g.readS n
  | .pln => (g.pln.get i).setWidth 64
  | .laneid => BitVec.ofNat 64 i.val
  | .lit32 => lit32As ty c
  | .lit64 => c.lit
  | o => inlineInt o

end Sys2Proof.Machine
end

