-- ==== Sys2Proof/Machine/Flags.lean ====
section
/-! DEFINITION. Conditions (R43) and the flags that class 0 and the mask instructions write (R58, R68). -/

namespace Sys2Proof

/-- A condition on SC (R43). -/
def Cond.holds (c : Cond) (sc : BitVec 4) : Bool :=
  let n := sc.getLsbD 3
  let z := sc.getLsbD 2
  let cy := sc.getLsbD 1
  let v := sc.getLsbD 0
  match c with
  | .al => true
  | .eq => z
  | .ne => !z
  | .hs => cy
  | .lo => !cy
  | .mi => n
  | .pl => !n
  | .vs => v
  | .vc => !v
  | .hi => cy && !z
  | .ls => !cy || z
  | .ge => n == v
  | .lt => n != v
  | .gt => !z && n == v
  | .le => z || n != v

end Sys2Proof

namespace Sys2Proof.Machine

/-- SC from its flags (R8). -/
def mkSc (n z c v : Bool) : BitVec 4 := BitVec.ofBool n ++ BitVec.ofBool z ++ BitVec.ofBool c ++ BitVec.ofBool v

/-- C and V of one class-0 operation; both 0 where R58 names no other value. -/
structure Carry where
  c : Bool
  v : Bool
deriving DecidableEq, Repr

def Carry.zero : Carry := ⟨false, false⟩

/-- Flags of a class-0 instruction from the 64-bit value it writes (R58). -/
def flagsOf (val : Word64) (k : Carry) : BitVec 4 := mkSc (val.getLsbD 63) (val == 0) k.c k.v

/-- Carry out of bit W-1, and signed overflow, of an addition (R58). -/
def carryAdd {w : Nat} (a b : BitVec w) : Carry :=
  ⟨decide (2 ^ w ≤ a.toNat + b.toNat), decide ((a + b).toInt ≠ a.toInt + b.toInt)⟩

/-- No borrow, and signed overflow, of a subtraction (R58). -/
def carrySub {w : Nat} (a b : BitVec w) : Carry :=
  ⟨decide (b.toNat ≤ a.toNat), decide ((a - b).toInt ≠ a.toInt - b.toInt)⟩

/-- Products too wide, unsigned and signed (R58). -/
def carryMul {w : Nat} (a b : BitVec w) : Carry :=
  ⟨decide (2 ^ w ≤ a.toNat * b.toNat), decide ((a * b).toInt ≠ a.toInt * b.toInt)⟩

/-- V of a division: a zero divisor, or the most negative value by -1 in the signed forms (R58). -/
def carryDiv {w : Nat} (signed : Bool) (a b : BitVec w) : Carry :=
  ⟨false, b == 0#w || (signed && a == BitVec.intMin w && b == BitVec.allOnes w)⟩

/-- SC after a mask instruction with FS: Z tells whether the mask is zero (R68). -/
def maskFlags (m : LaneMask) : BitVec 4 := mkSc false (m == 0) false false

end Sys2Proof.Machine
end

