-- ==== Sys2Proof/Machine/Scalar.lean ====
section
/-! DEFINITION. Class 0: scalar integer instructions (R56 to R63). -/

namespace Sys2Proof.Machine

/-- Operating width of a class-0 type (R56). -/
def scalarWidth (ty : Ty) : Nat :=
  match ty with
  | .s64 | .n64 | .b64 => 64
  | _ => 32

/-- The value written for a W-bit result (R56). -/
def extendResult {w : Nat} (ty : Ty) (r : BitVec w) : Word64 :=
  match ty with
  | .s32 => r.signExtend 64
  | _ => r.setWidth 64

/-- A once-per-group instruction: nothing but its SW and SP bits when COND is false (R43). -/
def State.once (s : State) (c : Ctl) (cond : Cond) (body : Except TrapReq State) : State :=
  if cond.holds s.g.sc then s.finish c body else s.advance c

/-- A once-per-group instruction that only changes the group's registers. -/
def State.onceG (s : State) (c : Ctl) (cond : Cond) (f : Group → Group) : State :=
  s.once c cond (.ok { s with g := f s.g })

/-- Write S(D), and SC when FS is 1 (R58, R59). -/
def Group.writeResult (g : Group) (d : Fin 64) (fs : Bool) (val : Word64) (k : Carry) : Group :=
  let g := g.writeS d val
  if fs then g.writeSc (flagsOf val k) else g

/-- What one class-0 operation gives at width W: result and carries; `bw` is B read whole (R59). -/
abbrev AluOp := (w : Nat) → Ty → BitVec w → BitVec w → Word64 → BitVec w × Carry

/-- ScalarInteger of R59 for the fixed-latency operations. -/
def Group.alu (g : Group) (x : SInt) (op : AluOp) : Group :=
  let w := scalarWidth x.ty
  let a := (g.src x.c x.ty x.a).setWidth w
  let b := (g.src x.c x.ty x.b).setWidth w
  let r := op w x.ty a b (g.srcWhole x.c x.b)
  g.writeResult x.d x.fs (extendResult x.ty r.1) r.2

def State.alu (s : State) (x : SInt) (op : AluOp) : State := s.onceG x.c x.cond fun g => g.alu x op

/-- The bits that agree with neither carry nor overflow: C and V are 0 (R58). -/
def plainOp (f : (w : Nat) → BitVec w → BitVec w → BitVec w) : AluOp := fun w _ a b _ => (f w a b, Carry.zero)

def execSadd (x : SInt) (s : State) : Host.Outcome State Fault Refusal :=
  .next (s.alu x fun _ _ a b _ => (a + b, carryAdd a b))

def execSsub (x : SInt) (s : State) : Host.Outcome State Fault Refusal :=
  .next (s.alu x fun _ _ a b _ => (a - b, carrySub a b))

def execSmul (x : SInt) (s : State) : Host.Outcome State Fault Refusal :=
  .next (s.alu x fun _ _ a b _ => (a * b, carryMul a b))

/-- Bits [2W-1:W] of the signed product. -/
def execSmulh (x : SInt) (s : State) : Host.Outcome State Fault Refusal :=
  .next (s.alu x (plainOp fun w a b => BitVec.ofInt w (a.toInt * b.toInt / 2 ^ w)))

/-- Bits [2W-1:W] of the unsigned product. -/
def execSmulhn (x : SInt) (s : State) : Host.Outcome State Fault Refusal :=
  .next (s.alu x (plainOp fun w a b => BitVec.ofNat w (a.toNat * b.toNat / 2 ^ w)))

def execSand (x : SInt) (s : State) : Host.Outcome State Fault Refusal :=
  .next (s.alu x (plainOp fun _ a b => a &&& b))

def execSor (x : SInt) (s : State) : Host.Outcome State Fault Refusal :=
  .next (s.alu x (plainOp fun _ a b => a ||| b))

def execSxor (x : SInt) (s : State) : Host.Outcome State Fault Refusal :=
  .next (s.alu x (plainOp fun _ a b => a ^^^ b))

def execSandn (x : SInt) (s : State) : Host.Outcome State Fault Refusal :=
  .next (s.alu x (plainOp fun _ a b => a &&& ~~~b))

/-! Shifts take the whole of B as their amount (R61). -/

def shiftLeft {w : Nat} (a : BitVec w) (n : Nat) : BitVec w := if n < w then a <<< n else 0
def shiftRight {w : Nat} (a : BitVec w) (n : Nat) : BitVec w := if n < w then a >>> n else 0
def shiftArith {w : Nat} (a : BitVec w) (n : Nat) : BitVec w :=
  if n < w then a.sshiftRight n else if a.msb then BitVec.allOnes w else 0

def execSshl (x : SInt) (s : State) : Host.Outcome State Fault Refusal :=
  .next (s.alu x fun _ _ a _ n => (shiftLeft a n.toNat, Carry.zero))

def execSshr (x : SInt) (s : State) : Host.Outcome State Fault Refusal :=
  .next (s.alu x fun _ _ a _ n => (shiftRight a n.toNat, Carry.zero))

def execSsra (x : SInt) (s : State) : Host.Outcome State Fault Refusal :=
  .next (s.alu x fun _ _ a _ n => (shiftArith a n.toNat, Carry.zero))

def execSrot (x : SInt) (s : State) : Host.Outcome State Fault Refusal :=
  .next (s.alu x fun w _ a _ n => (a.rotateRight (n.toNat % w), Carry.zero))

def execSmin (x : SInt) (s : State) : Host.Outcome State Fault Refusal :=
  .next (s.alu x (plainOp fun _ a b => if a.toInt ≤ b.toInt then a else b))

def execSmax (x : SInt) (s : State) : Host.Outcome State Fault Refusal :=
  .next (s.alu x (plainOp fun _ a b => if b.toInt ≤ a.toInt then a else b))

def execSminn (x : SInt) (s : State) : Host.Outcome State Fault Refusal :=
  .next (s.alu x (plainOp fun _ a b => if a.toNat ≤ b.toNat then a else b))

def execSmaxn (x : SInt) (s : State) : Host.Outcome State Fault Refusal :=
  .next (s.alu x (plainOp fun _ a b => if b.toNat ≤ a.toNat then a else b))

/-! Bit fields: position and length from the whole of B (R63). -/

def fieldPos (bw : Word64) : Nat := (bw.extractLsb' 0 6).toNat

/-- len' of R63 at width `w`. -/
def fieldLen (w : Nat) (bw : Word64) : Nat :=
  if fieldPos bw < w then min (bw.extractLsb' 8 7).toNat (w - fieldPos bw) else 0

/-- The field of `a`, sign-extended from its top bit when `signed`. -/
def fieldExtract {w : Nat} (signed : Bool) (a : BitVec w) (bw : Word64) : BitVec w :=
  let n := fieldLen w bw
  let f : BitVec n := a.extractLsb' (fieldPos bw) n
  if signed then f.signExtend w else f.setWidth w

/-- `old` with the field replaced by the low bits of `a`. -/
def fieldInsert {w : Nat} (old a : BitVec w) (bw : Word64) : BitVec w :=
  let mask : BitVec w := BitVec.ofNat w (2 ^ fieldLen w bw - 1) <<< fieldPos bw
  (old &&& ~~~mask) ||| ((a <<< fieldPos bw) &&& mask)

def execSbfx (x : SInt) (s : State) : Host.Outcome State Fault Refusal :=
  .next (s.alu x fun _ ty a _ bw => (fieldExtract ty.isSigned a bw, Carry.zero))

def execSbfi (x : SInt) (s : State) : Host.Outcome State Fault Refusal :=
  .next (s.alu x fun w _ a _ bw => (fieldInsert ((s.g.readS x.d).setWidth w) a bw, Carry.zero))

/-! Division never traps and is variable-latency (R18, R60). -/

def divSigned {w : Nat} (a b : BitVec w) : BitVec w :=
  if b = 0#w then BitVec.allOnes w else BitVec.ofInt w (a.toInt.tdiv b.toInt)
def divUnsigned {w : Nat} (a b : BitVec w) : BitVec w :=
  if b = 0#w then BitVec.allOnes w else BitVec.ofNat w (a.toNat / b.toNat)
def remSigned {w : Nat} (a b : BitVec w) : BitVec w :=
  if b = 0#w then a else BitVec.ofInt w (a.toInt.tmod b.toInt)
def remUnsigned {w : Nat} (a b : BitVec w) : BitVec w :=
  if b = 0#w then a else BitVec.ofNat w (a.toNat % b.toNat)

/-- At most 16 results are outstanding (R21). -/
def Group.logFull (g : Group) : Bool := decide (16 ≤ g.log.length)

/-- The result of a division, outstanding until it is written (R18, R60). -/
def Group.divPend (g : Group) (i : Instr) (x : SInt) (signed : Bool)
    (f : (w : Nat) → BitVec w → BitVec w → BitVec w) : Pend :=
  let w := scalarWidth x.ty
  let a := (g.src x.c x.ty x.a).setWidth w
  let b := (g.src x.c x.ty x.b).setWidth w
  let val := extendResult x.ty (f w a b)
  { seq := g.seq, fpos := g.stores, instr := i, off := g.planeAddr,
    kind := .computed (if x.fs then some (flagsOf val (carryDiv signed a b)) else none),
    ty := x.ty, sco := .grp, ord := .relaxed, cp := .ca, dst := .s x.d, due := 1, dueHi := 0, dueSc := x.fs,
    scalar := true, lanes := [⟨0, 0, 0, 0, some val⟩] }

/-- Issue a variable-latency producer: it stalls at issue when 16 results are outstanding (R21). -/
def State.divide (s : State) (i : Instr) (x : SInt) (signed : Bool)
    (f : (w : Nat) → BitVec w → BitVec w → BitVec w) : State :=
  if x.cond.holds s.g.sc then
    if s.g.logFull then s
    else { s with g := { s.g with log := s.g.log ++ [s.g.divPend i x signed f], seq := s.g.seq + 1 } }.advance x.c
  else s.advance x.c

def execSdiv (x : SInt) (s : State) : Host.Outcome State Fault Refusal :=
  .next (s.divide (.sdiv x) x true fun _ => divSigned)

def execSdivn (x : SInt) (s : State) : Host.Outcome State Fault Refusal :=
  .next (s.divide (.sdivn x) x false fun _ => divUnsigned)

def execSrem (x : SInt) (s : State) : Host.Outcome State Fault Refusal :=
  .next (s.divide (.srem x) x true fun _ => remSigned)

def execSremn (x : SInt) (s : State) : Host.Outcome State Fault Refusal :=
  .next (s.divide (.sremn x) x false fun _ => remUnsigned)

/-- SCMP writes no register and always sets SC (R59). -/
def execScmp (x : SCompare) (s : State) : Host.Outcome State Fault Refusal :=
  .next (s.onceG x.c x.cond fun g =>
    let w := scalarWidth x.ty
    let a := (g.src x.c x.ty x.a).setWidth w
    let b := (g.src x.c x.ty x.b).setWidth w
    g.writeSc (flagsOf (extendResult x.ty (a - b)) (carrySub a b)))

/-- SSEL selects by SCND on SC at issue (R62). -/
def execSsel (x : SSelect) (s : State) : Host.Outcome State Fault Refusal :=
  .next (s.onceG x.c x.cond fun g =>
    let w := scalarWidth x.ty
    let a := (g.src x.c x.ty x.a).setWidth w
    let b := (g.src x.c x.ty x.b).setWidth w
    g.writeS x.d (extendResult x.ty (if x.scnd.holds g.sc then a else b)))

/-- SLI replaces one half of S(D) (R62). -/
def execSli (x : SInsert) (s : State) : Host.Outcome State Fault Refusal :=
  .next (s.onceG x.c x.cond fun g =>
    let a := (g.src x.c .s64 x.a).extractLsb' 0 32
    let old := g.readS x.d
    g.writeS x.d (if x.w1 then a ++ old.extractLsb' 0 32 else old.extractLsb' 32 32 ++ a))

/-- The one-source operations (R59). -/
def Group.unary (g : Group) (x : SUnary) (op : (w : Nat) → BitVec w → BitVec w) : Group :=
  let w := scalarWidth x.ty
  g.writeResult x.d x.fs (extendResult x.ty (op w ((g.src x.c x.ty x.a).setWidth w))) Carry.zero

def State.unary (s : State) (x : SUnary) (op : (w : Nat) → BitVec w → BitVec w) : State :=
  s.onceG x.c x.cond fun g => g.unary x op

/-- Set bits, leading zeros and trailing zeros of a word; `w` when there are none (R59). -/
def popCount {w : Nat} (a : BitVec w) : Nat := (List.range w).countP fun i => a.getLsbD i
def leadZeros {w : Nat} (a : BitVec w) : Nat := ((List.range w).takeWhile fun i => !a.getLsbD (w - 1 - i)).length
def trailZeros {w : Nat} (a : BitVec w) : Nat := ((List.range w).takeWhile fun i => !a.getLsbD i).length

def execSmov (x : SUnary) (s : State) : Host.Outcome State Fault Refusal := .next (s.unary x fun _ a => a)

def execSpopc (x : SUnary) (s : State) : Host.Outcome State Fault Refusal :=
  .next (s.unary x fun w a => BitVec.ofNat w (popCount a))

def execSclz (x : SUnary) (s : State) : Host.Outcome State Fault Refusal :=
  .next (s.unary x fun w a => BitVec.ofNat w (leadZeros a))

def execSctz (x : SUnary) (s : State) : Host.Outcome State Fault Refusal :=
  .next (s.unary x fun w a => BitVec.ofNat w (trailZeros a))

def execSbrev (x : SUnary) (s : State) : Host.Outcome State Fault Refusal := .next (s.unary x fun _ a => a.reverse)

end Sys2Proof.Machine
end

