-- ==== Sys2Proof/Machine/Control.lean ====
section
/-! DEFINITION. Class 1: branches, masks, formats, special registers, traps, no-ops, yield and sleep (R65 to R73). -/

namespace Sys2Proof.Machine

/-! ### Branches, calls and jumps (R65, R66) -/

/-- PC + DISP x 4 modulo 2^32 (R35). -/
def branchTarget (g : Group) (x : Branch) : Word := g.pc + (x.disp.signExtend 32 <<< 2)

/-- A relative branch: its test and what else it writes, both only when COND is true (R65). -/
def State.branch (s : State) (x : Branch) (taken : Group → Bool) (f : Group → Group) : State :=
  if x.cond.holds s.g.sc then
    if taken s.g then s.jump x.c ((branchTarget s.g x).setWidth 64) f
    else { s with g := f s.g }.advance x.c
  else s.advance x.c

def execBr (x : Branch) (s : State) : Host.Outcome State Fault Refusal :=
  .next (s.branch x (fun _ => true) id)

/-- The S register that a branch tests; no other code stands there (R65). -/
def Operand.sNum : Operand → Fin 64
  | .s n => n
  | _ => 0

/-- BRC decrements S(D) and is taken while the result is not 0. -/
def execBrc (x : Branch) (s : State) : Host.Outcome State Fault Refusal :=
  let n := Operand.sNum x.r
  .next (s.branch x (fun g => g.readS n - 1 != 0) fun g => g.writeS n (g.readS n - 1))

def execBrz (x : Branch) (s : State) : Host.Outcome State Fault Refusal :=
  .next (s.branch x (fun g => g.src x.c .s64 x.r == 0) id)

def execBrnz (x : Branch) (s : State) : Host.Outcome State Fault Refusal :=
  .next (s.branch x (fun g => g.src x.c .s64 x.r != 0) id)

/-- BRMZ is taken when no active lane has its bit of m set. -/
def execBrmz (x : Branch) (s : State) : Host.Outcome State Fault Refusal :=
  .next (s.branch x (fun g => g.exec &&& g.src32 x.c x.r == 0) id)

/-- BRMA is taken when every active lane has its bit of m set. -/
def execBrma (x : Branch) (s : State) : Host.Outcome State Fault Refusal :=
  .next (s.branch x (fun g => g.exec &&& ~~~(g.src32 x.c x.r) == 0) id)

/-- CALL writes PC + 8 to S63. -/
def execCall (x : Branch) (s : State) : Host.Outcome State Fault Refusal :=
  .next (s.branch x (fun _ => true) fun g => g.writeS 63 ((g.pc + 8).setWidth 64))

/-- CALLI writes PC + its length to S63 (R66). A LIT32 of a class 1 word is sign-extended (notes/assumptions/125). -/
def execCalli (x : Jump) (s : State) : Host.Outcome State Fault Refusal :=
  .next (if x.cond.holds s.g.sc then
    s.jump x.c (s.g.src x.c .s64 x.a) fun g => g.writeS 63 ((g.pc + BitVec.ofNat 32 x.c.len.bytes).setWidth 64)
  else s.advance x.c)

def execRet (x : Jump) (s : State) : Host.Outcome State Fault Refusal :=
  .next (if x.cond.holds s.g.sc then s.jump x.c (s.g.src x.c .s64 x.a) id else s.advance x.c)

/-- JMPI (R66; its LIT32: notes/assumptions/125). -/
def execJmpi (x : Jump) (s : State) : Host.Outcome State Fault Refusal :=
  .next (if x.cond.holds s.g.sc then s.jump x.c (s.g.src x.c .s64 x.a) id else s.advance x.c)

/-! ### Masks (R68) -/

/-- Write the destination of a mask instruction: an S register zero-extended, or a K register. -/
def Group.writeMaskDest (g : Group) (d : Operand) (m : LaneMask) : Group :=
  match d with
  | .s n => g.writeS n (m.setWidth 64)
  | .k n => g.writeK n m
  | _ => g

/-- MSET, MAND, MOR, MANDN, MXOR: D takes the old EXEC; a lane that has left never comes back (R161). -/
def State.maskWrite (s : State) (x : MaskOp) (f : LaneMask → LaneMask → LaneMask) : State :=
  s.onceG x.c x.cond fun g =>
    let new := f g.exec (g.src32 x.c x.m)
    let h := (g.writeMaskDest x.d g.exec).writeExec new
    if x.fs then h.writeSc (maskFlags h.exec) else h

def execMset (x : MaskOp) (s : State) : Host.Outcome State Fault Refusal := .next (s.maskWrite x fun _ m => m)
def execMand (x : MaskOp) (s : State) : Host.Outcome State Fault Refusal := .next (s.maskWrite x fun e m => e &&& m)
def execMor (x : MaskOp) (s : State) : Host.Outcome State Fault Refusal := .next (s.maskWrite x fun e m => e ||| m)
def execMandn (x : MaskOp) (s : State) : Host.Outcome State Fault Refusal :=
  .next (s.maskWrite x fun e m => e &&& ~~~m)
def execMxor (x : MaskOp) (s : State) : Host.Outcome State Fault Refusal := .next (s.maskWrite x fun e m => e ^^^ m)

def execMget (x : MaskGet) (s : State) : Host.Outcome State Fault Refusal :=
  .next (s.onceG x.c x.cond fun g =>
    let h := g.writeMaskDest x.d g.exec
    if x.fs then h.writeSc (maskFlags g.exec) else h)

/-- MPOP and MFFS: an S register takes a number read from m. -/
def State.maskCount (s : State) (x : MaskOp) (f : LaneMask → Nat) : State :=
  s.onceG x.c x.cond fun g =>
    let m := g.src32 x.c x.m
    let h := match x.d with
      | .s n => g.writeS n (BitVec.ofNat 64 (f m))
      | _ => g
    if x.fs then h.writeSc (maskFlags m) else h

def execMpop (x : MaskOp) (s : State) : Host.Outcome State Fault Refusal := .next (s.maskCount x popCount)
def execMffs (x : MaskOp) (s : State) : Host.Outcome State Fault Refusal := .next (s.maskCount x trailZeros)

/-! ### Formats and special registers (R69, R70) -/

/-- The check of a value for an FMT bank: [31:24] zero, and no format code of 11 to 15 (R69). -/
def fmtOk (v : Word) : Bool :=
  v.extractLsb' 24 8 == 0#8 &&
    [0, 4, 8, 20].all fun lo => decide ((v.extractLsb' lo 4).toNat < 11)

/-- An illegal-instruction trap of an instruction: XINFO is its bits [63:0] (R31). -/
def Group.illegal (g : Group) (sub : Byte) (i : Instr) : TrapReq := g.trapHere 1 sub i.word

/-- FMTSET: its value is checked when COND is true (R69; notes/assumptions/111). -/
def execFmtset (x : FmtSet) (s : State) : Host.Outcome State Fault Refusal :=
  let v := s.g.src32 x.c x.a
  .next (s.once x.c x.cond
    (if fmtOk v then
      .ok { s with g := { s.g.clean (.special (4 + BitVec.ofNat 8 s.g.bank.val)) with fmt := s.g.fmt.set s.g.bank v } }
     else .error (s.g.illegal 10 (.fmtset x))))

def execFmtget (x : FmtGet) (s : State) : Host.Outcome State Fault Refusal :=
  .next (s.onceG x.c x.cond fun g => g.writeS x.d (g.curFmt.setWidth 64))

/-- A special register as GETSR reads it, zero-extended; none for a number that R9 does not list. -/
def State.readSr (s : State) (n : BitVec 8) : Option Word64 :=
  let g := s.g
  match n.toNat with
  | 0x00 => some (g.status.setWidth 64)
  | 0x01 => some (g.sc.setWidth 64)
  | 0x02 => some (g.exec.setWidth 64)
  | 0x04 => some ((g.fmt.get 0).setWidth 64)
  | 0x05 => some ((g.fmt.get 1).setWidth 64)
  | 0x06 => some ((g.fmt.get 2).setWidth 64)
  | 0x07 => some ((g.fmt.get 3).setWidth 64)
  | 0x08 => some (g.wdog.setWidth 64)
  | 0x09 => some g.trapbase
  | 0x0A => some g.xpc
  | 0x0B => some g.xcause
  | 0x0C => some g.xinfo
  | 0x0D => some g.xscratch
  | 0x0E => some (s.clock g.die)
  | 0x0F => some s.window
  | 0x10 => some (g.groupid.setWidth 64)
  | 0x11 => some (g.teamid.setWidth 64)
  | 0x12 => some (g.clusterid.setWidth 64)
  | 0x13 => some (BitVec.ofNat 64 g.core.val)
  | 0x14 => some (BitVec.ofNat 64 g.die.val)
  | 0x15 => some g.cbase
  | 0x16 => some (g.csize.setWidth 64)
  | _ => none

/-- What a SETSR of `v` comes to: the group after it, or the sub-cause of its trap (R9, R69, R70). -/
def Group.writeSr (g : Group) (n : BitVec 8) (v : Word64) : Except Byte Group :=
  let w := v.extractLsb' 0 32
  let bank (i : Fin 4) : Except Byte Group := if fmtOk w then .ok { g with fmt := g.fmt.set i w } else .error 10
  match n.toNat with
  | 0x00 => .ok ((g.setSsc (w.extractLsb' 12 4)).setPlerr (w.getLsbD 1))
  | 0x01 => .ok (g.writeSc (w.extractLsb' 0 4))
  | 0x02 => .ok (g.writeExec w)
  | 0x04 => bank 0
  | 0x05 => bank 1
  | 0x06 => bank 2
  | 0x07 => bank 3
  | 0x08 => .ok { g with wdog := w }.restartWatchdog
  | 0x09 => .ok { g with trapbase := 0#32 ++ v.extractLsb' 8 24 ++ 0#7 ++ v.extractLsb' 0 1 }
  | 0x0A => .ok { g with xpc := v }
  | 0x0B => .ok { g with xcause := 0#48 ++ v.extractLsb' 0 16 }
  | 0x0C => .ok { g with xinfo := v }
  | 0x0D => .ok { g with xscratch := v }
  | _ => .error 7

/-- SRN stands in the word: one that R9 does not list traps whatever COND says (R9, R51). -/
def execGetsr (x : GetSr) (s : State) : Host.Outcome State Fault Refusal :=
  .next (match s.readSr x.srn with
    | some v => s.onceG x.c x.cond fun g => g.writeS x.d v
    | none => s.boundary (.trap (s.g.illegal 7 (.getsr x))))

/-- A register that SETSR may write (R9). -/
def srWritable (n : BitVec 8) : Bool := decide (n.toNat ≤ 0x0D) && n != 0x03

/-- SETSR: an SRN that is unlisted or read-only traps whatever COND says (R9, R51); the value for an FMT bank is checked when
COND is true (R70; notes/assumptions/111, and 125 for a LIT32). A write to WDOG takes precedence over an expiry of the same cycle (R70). -/
def execSetsr (x : SetSr) (s : State) : Host.Outcome State Fault Refusal :=
  .next (if srWritable x.srn then
      s.once x.c x.cond
        (match s.g.writeSr x.srn (s.g.src x.c .s64 x.a) with
         | .ok g => .ok { s with g := g.clean (.special x.srn) }
         | .error sub => .error (s.g.illegal sub (.setsr x)))
    else s.boundary (.trap (s.g.illegal 7 (.setsr x))))

/-- Move past a word that is a run boundary of its own (R22). -/
def State.pass (s : State) (c : Ctl) : State :=
  { s with g := { (s.g.passPlane c.len.bytes).1 with settled := false } }

/-- Such a word's safe point: at its boundary, but in a region where the other planes of the offset come first, and their
end makes it (R108). -/
def State.passSp (s : State) (c : Ctl) : Bool := c.sp && (s.g.passPlane c.len.bytes).2

/-! ### Traps (R71) -/

/-- The resume point of a TRAP: PC + length, past the region when it is the region's last word (R71, R100, R106). RBASE is
that of the region that holds the TRAP (R32; notes/assumptions/10). -/
def Group.afterWord (g : Group) (len : Nat) : Group :=
  match g.region with
  | some r =>
    if g.pc.toNat + len < r.base + r.stride then g.goto (g.pc + BitVec.ofNat 32 len)
    else g.goto (BitVec.ofNat 32 (r.base + r.npl * r.stride))
  | none => g.goto (g.pc + BitVec.ofNat 32 len)

/-- TRAP (R71; its LIT32: notes/assumptions/125). -/
def execTrap (x : TrapArgs) (s : State) : Host.Outcome State Fault Refusal :=
  .next (if x.cond.holds s.g.sc then
    let info := match x.a with
      | some o => s.g.src x.c .s64 o
      | none => 0
    let after := s.g.afterWord x.c.len.bytes
    s.boundary (.trap { code := 0x08, sub := x.n, info, rbase := s.g.regionBase, off := after.planeAddr })
  else s.advance x.c)

def execBkpt (x : Plain) (s : State) : Host.Outcome State Fault Refusal :=
  .next (if x.cond.holds s.g.sc then s.boundary (.trap (s.g.trapHere 0x09 0 0)) else s.advance x.c)

/-- TRET: sub-cause 6 outside trap mode, and a run boundary at every issue (R22, R33, R71). -/
def execTret (x : Plain) (s : State) : Host.Outcome State Fault Refusal :=
  .next (if x.cond.holds s.g.sc then
    if s.g.tm then s.boundary (.tret x.c.sp) else s.boundary (.trap (s.g.illegal 6 (.tret x)))
  else (s.pass x.c).boundary (.switch (s.passSp x.c)))

/-! ### No-ops, yield, sleep, LIVE and skip codes (R15, R25, R72, R73) -/

def execNop (x : Plain) (s : State) : Host.Outcome State Fault Refusal := .next (s.advance x.c)

/-- PIDLE fills a plane slot and takes no issue slot. -/
def execPidle (c : Ctl) (s : State) : Host.Outcome State Fault Refusal := .next (s.advance c)

/-- YIELD is a run boundary at every issue; when COND is true it places the group last in its core's order (R73, R169). -/
def execYield (x : Plain) (s : State) : Host.Outcome State Fault Refusal :=
  .next ((if x.cond.holds s.g.sc then s.yields else s).pass x.c |>.boundary (.switch (s.passSp x.c)))

/-- SLEEP idles for min(a, 2^24 - 1) cycles after its park, of which a is read then; a = 0 behaves as YIELD (R22, R73; its grant:
notes/assumptions/128, its LIT32: notes/assumptions/125). -/
def execSleep (x : Jump) (s : State) : Host.Outcome State Fault Refusal :=
  .next ((s.pass x.c).boundary (if x.cond.holds s.g.sc then
      match x.a with
      | .s r => .sleep (some r) 0 (s.passSp x.c)
      | a => .sleep none (s.g.src x.c .s64 a).toNat (s.passSp x.c)
    else .switch (s.passSp x.c)))

/-- A LIVE word reached by fetch is a no-op of 8 bytes: its fields do not act (R25). In a region the offset advances by the
length of plane 0's word (R103; notes/assumptions/113). -/
def execLive (_l : LiveWord) (s : State) : Host.Outcome State Fault Refusal :=
  .next { s with g := ({ s.g with live := none }.passPlane (if s.g.region.isSome then s.g.span else 8)).1 }

/-- A skip code moves fetch to the next fetch block and issues nothing; at or past CSIZE it is a fetch trap with
XINFO = PC (R15, R16, R52). In a region every plane moves (R103). -/
def execSkipCode (_w : BitVec 30) (s : State) : Host.Outcome State Fault Refusal :=
  let g := s.g
  let pc := g.pc.toNat / 32 * 32 + 32
  let next : Nat := match g.region with
    | some r => if r.base + r.stride ≤ pc then r.base + r.npl * r.stride else pc
    | none => pc
  .next (if g.csize.toNat ≤ next then s.boundary (.trap (g.trapHere 2 0 (g.pc.setWidth 64)))
    else { s with g := g.goto (BitVec.ofNat 32 next) })

/-- A word that decoding refuses traps before any of its effects, in a region at the address of the plane whose turn it is
(R17, R49, R50, R106; notes/assumptions/127). -/
def execIllegalInstruction (sub : Byte) (word : BitVec 64) (s : State) : Host.Outcome State Fault Refusal :=
  .next (s.boundary (.trap (s.g.trapHere 1 sub word)))

end Sys2Proof.Machine
end

