-- ==== Sys2Proof/Config.lean ====
section
/-! DEFINITION. What an implementation of the part fixes and the spec leaves open: free values. Each is an opaque
constant without a body, so that nothing can be proved about its value. -/

namespace Sys2Proof

/-- The seven functions of R93 that are not correctly rounded. -/
inductive LaneFun where
  | rcp | rsq | exp2 | log2 | sin | cos | tanh
deriving DecidableEq, Repr

/-- The FP32 result of a function inside its bounds, a fixed function of the input bits (R93, R134;
notes/assumptions/3). -/
opaque Config.funValue : LaneFun → Word → Word

/-- The port of a die through which the routes at RTA lead to a device, if any: the spec does not lay the route table out
(R424, R451; notes/assumptions/27). -/
opaque Config.route : Word64 → Fin 2 → BitVec 12 → Option (Fin 12)

/-- TAG of the handle that BSEAL gives when no batch is open: no command has it (R264; notes/assumptions/14). -/
opaque Config.emptyBatchTag : Word → Word

/-- Hops of the route from a die to a device (R424, R451; notes/assumptions/27). -/
opaque Config.hops : Word64 → Fin 2 → BitVec 12 → Nat

/-- The signature of a firmware image verifies against the key whose digest is fused into a die (R451; notes/assumptions/47). -/
opaque Config.imageSigned : Fin 2 → List Byte → Bool

/-- The certificate of a die's controller (R452; notes/assumptions/47). -/
opaque Config.certificate : Fin 2 → List Byte

/-- A node scale that the spec leaves open, where a coordinate is not finite or no scale fits (R327;
notes/assumptions/22). -/
opaque Config.unboundedScale : Nat → Fin 255

/-- A node quality whose quotient has no value (R330; notes/assumptions/22). -/
opaque Config.unboundedQuality : Nat → BitVec 16

/-- The lane table entry of a command that ended before its lanes began (R363; notes/assumptions/23). -/
opaque Config.unstartedLane : Word → Nat → BitVec 16

/-- The number that a coordinate, TMIN or TMAX of a re-entered record stands for when it is no number that R338 admits
(R352; notes/assumptions/24). -/
opaque Config.unusableBound : Word → Rat

/-- The number that an ORG which is infinite or a NaN stands for where a SKIM reads a child node with it (R328;
notes/assumptions/139). -/
opaque Config.strayOrg : Nat → Rat

/-- Whether a node is stale whose Q or Q0 is infinite or a NaN (R326; notes/assumptions/140). -/
opaque Config.strayStale : Nat → Nat → Nat → Bool

/-- Whether a lower bound of an instance that is exactly zero is −0, by its record and axis (R317; notes/assumptions/138). -/
opaque Config.zeroBoundNeg : Nat → Nat → Bool

/-- The least WLU of the fabric, which the controller computes from the routes at RTA and the time error bound (R426;
notes/assumptions/46). -/
opaque Config.leastWlu : Word64 → Nat

/-- R and S of a signature with a die's identity key, over 160 bytes, for the n-th report (R452; notes/assumptions/47). -/
opaque Config.signature : Fin 2 → List Byte → Nat → BitVec 384 × BitVec 384

/-- ROMV: the ROM version of a die (R452; notes/assumptions/47). -/
opaque Config.romVersion : Fin 2 → Word

/-- TAG of the handle that TRACE or TRRES gives when no lane is a member (R358; notes/assumptions/14). -/
opaque Config.emptyTraceTag : Word → Word

/-- A register that the LIVE word does not name holds its value again after a stop at a safe point, by the CLOCK at the
restore, the group's place and the register (R26; notes/assumptions/108). -/
opaque Config.keepsUnnamed : Nat → Nat → Nat → Bool

/-- Which of several erroneous registers that an instruction reads is reported, by the place of the instruction and their
number (R375; notes/assumptions/110). -/
opaque Config.reportedError : Word → Nat → Nat

end Sys2Proof
end

