-- ==== Sys2Proof/Machine/Float.lean ====
section
/-! DEFINITION. Number formats and arithmetic: values of the floating-point formats, exact arithmetic on them, and one
rounding to a format with its overflow and saturation (R74 to R84, R91). -/

namespace Sys2Proof.Machine

/-- How a format ends: with infinities and NaNs, with one NaN and no infinity (E4M3), or with neither (E2M1). -/
inductive TopKind where
  | ieee | oneNan | finite
deriving DecidableEq, Repr

/-- A floating-point format (R74): exponent width, mantissa width, bias, and its top. -/
structure Fmt where
  ebits : Nat
  mbits : Nat
  bias  : Int
  top   : TopKind
deriving DecidableEq, Repr

def fp32 : Fmt := ⟨8, 23, 127, .ieee⟩
def fp16 : Fmt := ⟨5, 10, 15, .ieee⟩
def bf16 : Fmt := ⟨8, 7, 127, .ieee⟩
def e4m3 : Fmt := ⟨4, 3, 7, .oneNan⟩
def e5m2 : Fmt := ⟨5, 2, 15, .ieee⟩
def e2m1 : Fmt := ⟨2, 1, 1, .finite⟩

/-- The format of a float type; FP32 for a type that is none. -/
def fmtOf (ty : Ty) : Fmt :=
  match ty with
  | .f16 => fp16
  | .bf16 => bf16
  | .e4m3 => e4m3
  | .e5m2 => e5m2
  | .e2m1 => e2m1
  | _ => fp32

/-- A real value with the special values of IEEE 754: (-1)^neg x m x 2^e, an infinity or NaN. Zero has m = 0. -/
inductive FVal where
  | nan
  | inf (neg : Bool)
  | fin (neg : Bool) (m : Nat) (e : Int)
deriving DecidableEq, Repr

/-- Rounding modes (R82). -/
inductive Round where
  | rne | rz | rup | rdn
deriving DecidableEq, Repr

/-- 2^k for a possibly negative k, as the numerator and the denominator that it gives. -/
def pow2 (k : Int) : Nat := 2 ^ k.toNat

/-- The value of a bit pattern (R74). -/
def Fmt.decode (f : Fmt) (bits : Nat) : FVal :=
  let m := bits % 2 ^ f.mbits
  let e := bits / 2 ^ f.mbits % 2 ^ f.ebits
  let neg := bits / 2 ^ (f.mbits + f.ebits) % 2 == 1
  let eTop := 2 ^ f.ebits - 1
  if f.top = .ieee ∧ e = eTop then if m = 0 then .inf neg else .nan
  else if f.top = .oneNan ∧ e = eTop ∧ m = 2 ^ f.mbits - 1 then .nan
  else if e = 0 then .fin neg m (1 - f.bias - f.mbits)
  else .fin neg (2 ^ f.mbits + m) (e - f.bias - f.mbits)

/-- The code of the largest finite magnitude. -/
def Fmt.maxCode (f : Fmt) : Nat :=
  match f.top with
  | .ieee => (2 ^ f.ebits - 1) * 2 ^ f.mbits - 1
  | .oneNan => 2 ^ (f.ebits + f.mbits) - 2
  | .finite => 2 ^ (f.ebits + f.mbits) - 1

/-- The canonical NaN (R76); +0 for E2M1, which has none (R83). -/
def Fmt.nan (f : Fmt) : Nat :=
  match f.top with
  | .ieee => (2 ^ f.ebits - 1) * 2 ^ f.mbits + 2 ^ (f.mbits - 1)
  | .oneNan => 2 ^ (f.ebits + f.mbits) - 1
  | .finite => 0

def Fmt.signed (f : Fmt) (neg : Bool) (code : Nat) : Nat := if neg then 2 ^ (f.ebits + f.mbits) + code else code

/-- Floor(Log2(n / d)) of a positive rational. -/
def floorLog2 (n d : Nat) : Int :=
  let l : Int := Nat.log2 n - Nat.log2 d
  if d * pow2 l ≤ n * pow2 (-l) then l else l - 1

/-- n / d rounded to an integer (R82); `neg` tells the sign of the value whose magnitude it is. -/
def roundDiv (r : Round) (neg : Bool) (n d : Nat) : Nat :=
  let q := n / d
  let rem := n % d
  match r with
  | .rne => if d < 2 * rem ∨ (2 * rem = d ∧ q % 2 = 1) then q + 1 else q
  | .rz => q
  | .rup => if rem ≠ 0 ∧ neg = false then q + 1 else q
  | .rdn => if rem ≠ 0 ∧ neg = true then q + 1 else q

/-- The magnitude code of a positive rational n / d x 2^k, rounded as if the exponent had no upper bound (R82). -/
def Fmt.roundCode (f : Fmt) (r : Round) (neg : Bool) (n d : Nat) (k : Int) : Nat :=
  let n' := n * pow2 k
  let d' := d * pow2 (-k)
  let e := max (floorLog2 n' d') (1 - f.bias)
  let u := e - f.mbits
  ((e + f.bias - 1) * 2 ^ f.mbits).toNat + roundDiv r neg (n' * pow2 (-u)) (d' * pow2 u)

/-- What an overflow gives (R83). -/
def Fmt.overflow (f : Fmt) (r : Round) (sat neg : Bool) : Nat :=
  let toInf : Bool := match r with
    | .rne => true
    | .rz => false
    | .rup => !neg
    | .rdn => neg
  match f.top with
  | .ieee => f.signed neg (if sat || !toInf then f.maxCode else f.maxCode + 1)
  | .oneNan => if sat || !toInf then f.signed neg f.maxCode else f.nan
  | .finite => f.signed neg f.maxCode

/-- What an infinite source gives (R83). -/
def Fmt.fromInf (f : Fmt) (sat neg : Bool) : Nat :=
  match f.top with
  | .ieee => f.signed neg (if sat then f.maxCode else f.maxCode + 1)
  | .oneNan => if sat then f.signed neg f.maxCode else f.nan
  | .finite => f.signed neg f.maxCode

/-- A positive or negative rational n / d x 2^k rounded once to a format (R82, R83). -/
def Fmt.roundRat (f : Fmt) (r : Round) (sat neg : Bool) (n d : Nat) (k : Int) : Nat :=
  if n = 0 then f.signed neg 0
  else
    let c := f.roundCode r neg n d k
    if c ≤ f.maxCode then f.signed neg c else f.overflow r sat neg

/-- A value rounded once to a format (R82, R83). -/
def Fmt.round (f : Fmt) (r : Round) (sat : Bool) : FVal → Nat
  | .nan => f.nan
  | .inf neg => f.fromInf sat neg
  | .fin neg m e => f.roundRat r sat neg m 1 e

/-! ### Exact arithmetic -/

def FVal.neg : FVal → FVal
  | .nan => .nan
  | .inf s => .inf (!s)
  | .fin s m e => .fin (!s) m e

def FVal.abs : FVal → FVal
  | .nan => .nan
  | .inf _ => .inf false
  | .fin _ m e => .fin false m e

def FVal.isNan : FVal → Bool
  | .nan => true
  | _ => false

def FVal.isZero : FVal → Bool
  | .fin _ m _ => m == 0
  | _ => false

/-- The exact product; 0 x infinity is NaN (R128). -/
def FVal.mul : FVal → FVal → FVal
  | .nan, _ => .nan
  | _, .nan => .nan
  | .inf a, .inf b => .inf (a != b)
  | .inf a, .fin b m _ => if m = 0 then .nan else .inf (a != b)
  | .fin a m _, .inf b => if m = 0 then .nan else .inf (a != b)
  | .fin a m e, .fin b n k => .fin (a != b) (m * n) (e + k)

/-- Signed integer at a common exponent. -/
def scaled (neg : Bool) (m : Nat) (e lo : Int) : Int :=
  let v : Int := m * pow2 (e - lo)
  if neg then -v else v

/-- The exact sum of two values; a zero sum of unlike terms is -0 only under RDN (R82, IEEE 754-2019). -/
def FVal.add (r : Round) : FVal → FVal → FVal
  | .nan, _ => .nan
  | _, .nan => .nan
  | .inf a, .inf b => if a = b then .inf a else .nan
  | .inf a, .fin .. => .inf a
  | .fin .., .inf b => .inf b
  | .fin a m e, .fin b n k =>
    let lo := min e k
    let t := scaled a m e lo + scaled b n k lo
    if t = 0 then .fin (if m = 0 ∧ n = 0 ∧ a = b then a else decide (r = .rdn)) 0 0
    else .fin (decide (t < 0)) t.natAbs lo

/-- Order on values that are not NaN, -0 equal to +0 (R131). -/
def FVal.le : FVal → FVal → Bool
  | .nan, _ => false
  | _, .nan => false
  | .inf a, .inf b => a || !b
  | .inf a, .fin .. => a
  | .fin .., .inf b => !b
  | .fin a m e, .fin b n k =>
    let lo := min e k
    decide (scaled a m e lo ≤ scaled b n k lo)

def FVal.eq (x y : FVal) : Bool := x.le y && y.le x
def FVal.lt (x y : FVal) : Bool := x.le y && !(y.le x)

/-- An integer as a value. -/
def FVal.ofInt (v : Int) : FVal := .fin (decide (v < 0)) v.natAbs 0

/-- x / y rounded once; special values as IEEE 754-2019 (R94, R128). -/
def Fmt.div (f : Fmt) (r : Round) : FVal → FVal → Nat
  | .nan, _ => f.nan
  | _, .nan => f.nan
  | .inf _, .inf _ => f.nan
  | .inf a, .fin b _ _ => f.fromInf false (a != b)
  | .fin a _ _, .inf b => f.signed (a != b) 0
  | .fin a m e, .fin b n k =>
    if n = 0 then if m = 0 then f.nan else f.fromInf false (a != b)
    else f.roundRat r false (a != b) m n (e - k)

/-- Integer square root, rounded down, by halving steps from the top bit. -/
def isqrtGo : Nat → Nat → Nat → Nat
  | 0, _, r => r
  | k + 1, n, r =>
    let c := r + 2 ^ k
    isqrtGo k n (if c * c ≤ n then c else r)

def isqrt (n : Nat) : Nat := isqrtGo (Nat.log2 n / 2 + 1) n 0

/-- A value with the same rounding as the square root of n / d x 2^(2h): 34 more bits and a sticky bit. -/
def sqrtSticky (n d : Nat) (h : Int) : Nat × Int :=
  let q := n * 2 ^ 96 / d
  let s := isqrt q
  (2 * s + (if s * s * d = n * 2 ^ 96 then 0 else 1), h - 49)

/-- The square root rounded once (R94, R128). -/
def Fmt.sqrt (f : Fmt) (r : Round) : FVal → Nat
  | .nan => f.nan
  | .inf neg => if neg then f.nan else f.fromInf false false
  | .fin neg m e =>
    if m = 0 then f.signed neg 0
    else if neg then f.nan
    else
      let odd := e % 2
      let t := sqrtSticky (m * pow2 odd) 1 ((e - odd) / 2)
      f.roundRat r false false t.1 1 t.2

/-- The integral value that a mode selects; the sign of a non-zero value that becomes zero is kept (R133). -/
def Fmt.roundInt (f : Fmt) (r : Round) (bits : Nat) : Nat :=
  match f.decode bits with
  | .nan => f.nan
  | .inf _ => bits
  | .fin neg m e =>
    if m = 0 ∨ 0 ≤ e then bits
    else f.roundRat .rne false neg (roundDiv r neg m (pow2 (-e))) 1 0

/-! ### Conversions (R84) -/

/-- A value rounded to an integer of `w` bits, clamped to its range; NaN gives 0 (R83, R84). -/
def toIntClamp (r : Round) (w : Nat) (signed : Bool) : FVal → Int
  | .nan => 0
  | v =>
    let lo : Int := if signed then -(2 ^ (w - 1)) else 0
    let hi : Int := if signed then 2 ^ (w - 1) - 1 else 2 ^ w - 1
    match v with
    | .nan => 0
    | .inf neg => if neg then lo else hi
    | .fin neg m e =>
      let q : Int := roundDiv r neg (m * pow2 e) (pow2 (-e))
      max lo (min hi (if neg then -q else q))

/-- An integer of an element of `w` bits into one of `w'` bits: a wider one takes the value as the source's sign extends
it, a narrower or equal one saturates under SAT (R83, R84). -/
def intToInt (sat : Bool) (w w' : Nat) (signed' : Bool) (v : Int) : Nat :=
  let lo : Int := if signed' then -(2 ^ (w' - 1)) else 0
  let hi : Int := if signed' then 2 ^ (w' - 1) - 1 else 2 ^ w' - 1
  ((if sat ∧ w' ≤ w then max lo (min hi v) else v) % 2 ^ w').toNat

/-- The value of an E8M0 code (R75). -/
def e8m0Val (c : Nat) : FVal := if c = 255 then .nan else .fin false 1 ((c : Int) - 127)

/-- A value into E8M0: a power of two has its code, anything else is NaN (R75 gives no rounding; notes/assumptions/12). -/
def toE8m0 : FVal → Nat
  | .fin false m e =>
    if m ≠ 0 ∧ m = 2 ^ Nat.log2 m ∧ -127 ≤ e + Nat.log2 m ∧ e + Nat.log2 m ≤ 127 then (e + Nat.log2 m + 127).toNat
    else 255
  | _ => 255

/-! ### Lane operations -/

/-- The amax pattern of FP32 bits (R91). -/
def amaxKey (x : Word) : Word := x &&& 0x7FFFFFFF

def amax2 (x y : Word) : Word := if (amaxKey y).toNat ≤ (amaxKey x).toNat then amaxKey x else amaxKey y

/-- Minimum or maximum of two patterns of a format (R129): -0 below +0, and the NaN rules. -/
def Fmt.minMax (f : Fmt) (isMax nanp : Bool) (x y : Nat) : Nat :=
  let a := f.decode x
  let b := f.decode y
  let neg (v : Nat) : Bool := v / 2 ^ (f.mbits + f.ebits) % 2 == 1
  if a.isNan && b.isNan then f.nan
  else if a.isNan then if nanp then f.nan else y
  else if b.isNan then if nanp then f.nan else x
  else
    let xBelow := a.lt b || (a.eq b && (neg x || !neg y))
    if xBelow != isMax then x else y

/-- RMs as modes: RM 0 reads FMT.RND (R48, R81, R82). -/
def rndOf (bits : BitVec 2) : Round :=
  match bits.toNat with
  | 0 => .rne
  | 1 => .rz
  | 2 => .rup
  | _ => .rdn

def Group.round (g : Group) (rm : Rm) : Round :=
  match rm with
  | .dyn => rndOf (g.curFmt.extractLsb' 16 2)
  | .rne => .rne
  | .rz => .rz
  | .rup => .rup
  | .rdn => .rdn

/-- FMT.SAT of the issuing plane (R81). -/
def Group.fmtSat (g : Group) : Bool := g.curFmt.getLsbD 18

end Sys2Proof.Machine
end

