-- ==== Sys2Proof/Machine/FloatFun.lean ====
section
/-! DEFINITION. The functions of R93 and R94: special values and exact cases are fixed, every other result is a free
value kept inside its error bound. Approximations in fixed point, good to far more than the bound, place the bound. -/

namespace Sys2Proof.Machine

/-- Fixed-point one: 2^96. -/
def fxOne : Int := 2 ^ 96

/-- Floor of the logarithm of 2 to base e in fixed point. -/
def fxLn2 : Int := 0xB17217F7D1CF79ABC9E3B398

/-- Pi x 2^160. -/
def fxPi160 : Int := 0x3243F6A8885A308D313198A2E03707344A4093822

/-- Sum of `n` terms of a series whose k-th term comes from the one before it (k counts from 1). -/
def fxSeries (step : Int → Int → Int) : Nat → Int → Int → Int → Int
  | 0, _, _, acc => acc
  | n + 1, k, t, acc => let t' := step k t; fxSeries step n (k + 1) t' (acc + t')

/-- e^x for 0 ≤ x < 1 in fixed point. -/
def fxExp (x : Int) : Int := fxSeries (fun k t => t * x / fxOne / k) 40 1 fxOne fxOne

/-- sin x and cos x for |x| ≤ 4 in fixed point. -/
def fxSin (x : Int) : Int :=
  fxSeries (fun k t => -(t * x / fxOne * x / fxOne / ((2 * k) * (2 * k + 1)))) 30 1 x x
def fxCos (x : Int) : Int :=
  fxSeries (fun k t => -(t * x / fxOne * x / fxOne / ((2 * k - 1) * (2 * k)))) 30 1 fxOne fxOne

/-- Binary digits of log2 of a fixed-point number in [1, 2), one per squaring. -/
def fxLog2 : Nat → Int → Int → Int → Int
  | 0, _, _, acc => acc
  | n + 1, x, w, acc =>
    let y := x * x / fxOne
    if 2 * fxOne ≤ y then fxLog2 n (y / 2) (w / 2) (acc + w / 2) else fxLog2 n y (w / 2) acc

/-- A finite value in fixed point, rounded down. -/
def fxOf (neg : Bool) (m : Nat) (e : Int) : Int :=
  let v : Int := (m : Int) * pow2 (e + 96) / pow2 (-(e + 96))
  if neg then -v else v

/-- A fixed-point number times 2^k as a value. -/
def fxVal (v k : Int) : FVal := .fin (decide (v < 0)) v.natAbs (k - 96)

/-- The bounds of a result: an interval of values. -/
structure Bound where
  lo : FVal
  hi : FVal
deriving DecidableEq, Repr

/-- ulp of R93 of a non-zero value, as its exponent. -/
def ulpExp (m : Nat) (e : Int) : Int := max ((Nat.log2 m : Int) + e) (-126) - 23

/-- What is known of an exact result: it lies between two values. -/
structure Span where
  lo : FVal
  hi : FVal
deriving DecidableEq, Repr

/-- A result known to 2^k. -/
def Span.about (a : FVal) (k : Int) : Span := ⟨a.add .rne (.fin true 1 k), a.add .rne (.fin false 1 k)⟩

/-- The values that lie within n x 2^k of the exact result. -/
def Span.within (y : Span) (n : Nat) (k : Int) : Bound :=
  ⟨y.hi.add .rne (.fin true n k), y.lo.add .rne (.fin false n k)⟩

/-- ulp of a value, as its exponent. -/
def ulpOf : FVal → Int
  | .fin _ m e => if m = 0 then -149 else ulpExp m e
  | _ => -149

/-- The values within `n` ulp of the exact result. -/
def Span.ulps (y : Span) (n : Nat) : Bound := y.within n (min (ulpOf y.lo) (ulpOf y.hi))

/-- An infinity counts as 2^128 when an overflowing result is held against its bound. -/
def unboundInf : FVal → FVal
  | .inf s => .fin s 1 128
  | v => v

/-- The free value where it lies in the bound, else the middle of the bound rounded to FP32. -/
def settleBound (free : Word) (mid : FVal) (b : Bound) : Word :=
  let v := unboundInf (fp32.decode free.toNat)
  if b.lo.le v && v.le b.hi then free else BitVec.ofNat 32 (fp32.round .rne false mid)

/-- Keep a bound inside [-1, 1] (R93). -/
def Bound.unit (b : Bound) : Bound :=
  ⟨if b.lo.le (.fin true 1 0) then .fin true 1 0 else b.lo, if (FVal.fin false 1 0).le b.hi then .fin false 1 0 else b.hi⟩

/-- FP32 bits of a value. -/
def f32Of (v : FVal) : Word := BitVec.ofNat 32 (fp32.round .rne false v)

def f32Nan : Word := 0x7FC00000

/-- One of the two FP32 values adjacent to n / d x 2^k, or the value itself when FP32 has it: the free value chooses
(faithful, R93). -/
def faithful (free : Word) (neg : Bool) (n d : Nat) (k : Int) : Word :=
  BitVec.ofNat 32 (fp32.roundRat (if free.getLsbD 0 then .rup else .rdn) false neg n d k)

/-- Floor of a finite value. -/
def floorOf (neg : Bool) (m : Nat) (e : Int) : Int :=
  if neg then -(((m * pow2 e + pow2 (-e) - 1) / pow2 (-e) : Nat) : Int) else ((m * pow2 e / pow2 (-e) : Nat) : Int)

/-- 2^x for |x| < 512, x with floor n, known to 2^(n - 80). -/
def approxExp2 (neg : Bool) (m : Nat) (e n : Int) : FVal := fxVal (fxExp ((fxOf neg m e - n * fxOne) * fxLn2 / fxOne)) n

def funExp2 (x : Word) : Word :=
  match fp32.decode x.toNat with
  | .nan => f32Nan
  | .inf neg => if neg then 0 else 0x7F800000
  | .fin neg m e =>
    let n := floorOf neg m e
    if m = 0 then 0x3F800000
    else if (m * pow2 e) % pow2 (-e) = 0 ∧ -149 ≤ n ∧ n ≤ 127 then f32Of (.fin false 1 n)
    else if 9 ≤ (Nat.log2 m : Int) + e then
      if neg then settleBound (Config.funValue .exp2 x) (.fin false 0 0) (Span.within ⟨.fin false 0 0, .fin false 1 (-512)⟩ 2 (-149))
      else 0x7F800000
    else
      let a := approxExp2 neg m e n
      settleBound (Config.funValue .exp2 x) a ((Span.about a (n - 80)).within 2 (max n (-126) - 23))

def funLog2 (x : Word) : Word :=
  match fp32.decode x.toNat with
  | .nan => f32Nan
  | .inf neg => if neg then f32Nan else 0x7F800000
  | .fin neg m e =>
    if m = 0 then 0xFF800000
    else if neg then f32Nan
    else
      let l : Int := Nat.log2 m + e
      if m = 2 ^ Nat.log2 m then f32Of (if l = 0 then .fin false 0 0 else FVal.ofInt l)
      else
        let a := fxVal (l * fxOne + fxLog2 96 ((m : Int) * fxOne / (2 ^ Nat.log2 m : Nat)) fxOne 0) 0
        let v : FVal := .fin false m e
        let near := (FVal.fin false 1 (-1)).le v && v.le (.fin false 2 0)
        settleBound (Config.funValue .log2 x) a (if near then (Span.about a (-80)).within 1 (-22) else (Span.about a (-80)).ulps 2)

/-- |x| reduced modulo 2 pi, in fixed point, for |x| ≤ 2^15. -/
def reduceAngle (m : Nat) (e : Int) : Int :=
  let x : Int := (m : Int) * pow2 (e + 160) / pow2 (-(e + 160))
  (x % (2 * fxPi160)) / 2 ^ 64

/-- Sine and cosine of |x|, reduced into [-pi, pi]. -/
def approxTrig (isSin : Bool) (m : Nat) (e : Int) : FVal :=
  let r := reduceAngle m e - fxPi160 / 2 ^ 64
  fxVal (-(if isSin then fxSin r else fxCos r)) 0

/-- |x| as bits. -/
def absBits (x : Word) : Word := x &&& 0x7FFFFFFF

def negBits (x : Word) : Word := x ^^^ 0x80000000

/-- An odd function from its values on magnitudes. -/
def oddFun (f : Word → Word) (x : Word) : Word := if x.getLsbD 31 then negBits (f (absBits x)) else f x

/-- Sine or cosine of a magnitude. -/
def trigMag (fn : LaneFun) (isSin : Bool) (x : Word) : Word :=
  match fp32.decode x.toNat with
  | .nan => f32Nan
  | .inf _ => f32Nan
  | .fin _ m e =>
    if m = 0 then if isSin then 0 else 0x3F800000
    else if 15 ≤ (Nat.log2 m : Int) + e ∧ ¬(FVal.fin false m e).le (.fin false 1 15) then
      settleBound (Config.funValue fn x) (.fin false 0 0) ⟨.fin true 1 0, .fin false 1 0⟩
    else
      let a := approxTrig isSin m e
      settleBound (Config.funValue fn x) a ((Span.about a (-80)).within 1 (-21)).unit

def funSin (x : Word) : Word :=
  match fp32.decode x.toNat with
  | .fin .. => oddFun (trigMag .sin true) x
  | _ => f32Nan

def funCos (x : Word) : Word := trigMag .cos false (absBits x)

/-- tanh of a magnitude: 1 - 2 / (e^2x + 1) for larger x; for small x it lies between x - x^3 / 2 and x. -/
def tanhMag (x : Word) : Word :=
  match fp32.decode x.toNat with
  | .nan => f32Nan
  | .inf _ => 0x3F800000
  | .fin _ m e =>
    if m = 0 then 0
    else if (FVal.fin false 9 0).le (.fin false m e) then 0x3F800000
    else if (Nat.log2 m : Int) + e < -20 then
      let a : FVal := .fin false m e
      settleBound (Config.funValue .tanh x) a (Span.ulps ⟨a.add .rne (.fin true (m * m * m) (3 * e - 1)), a⟩ 2).unit
    else
      let y := 2 * fxOf false m e
      let n := y * fxOne / fxLn2 / fxOne
      let big := fxExp (y - n * fxLn2) * pow2 n
      let a := fxVal (fxOne - 2 * fxOne * fxOne / (big + fxOne)) 0
      settleBound (Config.funValue .tanh x) a ((Span.about a (-80)).ulps 2).unit

def funTanh (x : Word) : Word :=
  match fp32.decode x.toNat with
  | .nan => f32Nan
  | _ => oddFun tanhMag x

/-- 1 / x (R93, R94). -/
def funRcp (x : Word) : Word :=
  match fp32.decode x.toNat with
  | .nan => f32Nan
  | .inf neg => if neg then 0x80000000 else 0
  | .fin neg m e =>
    if m = 0 then if neg then 0xFF800000 else 0x7F800000
    else faithful (Config.funValue .rcp x) neg 1 m (-e)

/-- 1 / square root of x (R93, R94). -/
def funRsq (x : Word) : Word :=
  match fp32.decode x.toNat with
  | .nan => f32Nan
  | .inf neg => if neg then f32Nan else 0
  | .fin neg m e =>
    if m = 0 then if neg then 0xFF800000 else 0x7F800000
    else if neg then f32Nan
    else
      let odd := e % 2
      let t := sqrtSticky 1 (m * pow2 odd) (-((e - odd) / 2))
      faithful (Config.funValue .rsq x) false t.1 1 t.2

/-- A function of R93 on FP32 bits. -/
def laneFun (f : LaneFun) (x : Word) : Word :=
  match f with
  | .rcp => funRcp x
  | .rsq => funRsq x
  | .exp2 => funExp2 x
  | .log2 => funLog2 x
  | .sin => funSin x
  | .cos => funCos x
  | .tanh => funTanh x

end Sys2Proof.Machine
end

