-- ==== Sys2Proof/Machine/VecInt.lean ====
section
/-! DEFINITION. Class 2: vector integer instructions (R120 to R126). -/

namespace Sys2Proof.Machine

/-- A lane-executed instruction that only changes the group's registers, then the next word. -/
def State.lanes (s : State) (c : Ctl) (f : Group → Group) : State := { s with g := f s.g }.advance c

/-- Element width of a class-2 type (R120). -/
def elemWidth (ty : Ty) : Nat :=
  match ty with
  | .s16 | .n16 => 16
  | .s8 | .n8 => 8
  | _ => 32

/-- Apply an operation element by element; no carry passes between elements (R121). -/
def mapElems (w : Nat) (f : BitVec w → BitVec w → BitVec w) (x y : Word) : Word :=
  (List.range (32 / w)).foldl
    (fun r e => r ||| ((f (x.extractLsb' (w * e) w) (y.extractLsb' (w * e) w)).setWidth 32 <<< (w * e))) 0

/-- An operation at every element width, told the type. -/
abbrev ElemOp := (w : Nat) → Ty → BitVec w → BitVec w → BitVec w

/-- VectorElementwise of R121 for two sources. -/
def Group.elementwise (g : Group) (x : VBinary) (f : ElemOp) : Group :=
  let w := elemWidth x.ty
  g.writeV x.d (g.executing x.g) fun i =>
    mapElems w (f w x.ty) (g.lanePacked x.c w x.a i) (g.lanePacked x.c w x.b i)

def State.elementwise (s : State) (x : VBinary) (f : ElemOp) : State := s.lanes x.c fun g => g.elementwise x f

def execVadd (x : VBinary) (s : State) : Host.Outcome State Fault Refusal :=
  .next (s.elementwise x fun _ _ a b => a + b)
def execVsub (x : VBinary) (s : State) : Host.Outcome State Fault Refusal :=
  .next (s.elementwise x fun _ _ a b => a - b)
def execVmul (x : VBinary) (s : State) : Host.Outcome State Fault Refusal :=
  .next (s.elementwise x fun _ _ a b => a * b)
/-- Bits [63:32] of the signed product. -/
def execVmulh (x : VBinary) (s : State) : Host.Outcome State Fault Refusal :=
  .next (s.elementwise x fun w _ a b => BitVec.ofInt w (a.toInt * b.toInt / 2 ^ w))
/-- Bits [63:32] of the unsigned product. -/
def execVmulhn (x : VBinary) (s : State) : Host.Outcome State Fault Refusal :=
  .next (s.elementwise x fun w _ a b => BitVec.ofNat w (a.toNat * b.toNat / 2 ^ w))
def execVand (x : VBinary) (s : State) : Host.Outcome State Fault Refusal :=
  .next (s.elementwise x fun _ _ a b => a &&& b)
def execVor (x : VBinary) (s : State) : Host.Outcome State Fault Refusal :=
  .next (s.elementwise x fun _ _ a b => a ||| b)
def execVxor (x : VBinary) (s : State) : Host.Outcome State Fault Refusal :=
  .next (s.elementwise x fun _ _ a b => a ^^^ b)
def execVandn (x : VBinary) (s : State) : Host.Outcome State Fault Refusal :=
  .next (s.elementwise x fun _ _ a b => a &&& ~~~b)
def execVmin (x : VBinary) (s : State) : Host.Outcome State Fault Refusal :=
  .next (s.elementwise x fun _ _ a b => if a.toInt ≤ b.toInt then a else b)
def execVmax (x : VBinary) (s : State) : Host.Outcome State Fault Refusal :=
  .next (s.elementwise x fun _ _ a b => if b.toInt ≤ a.toInt then a else b)
def execVminn (x : VBinary) (s : State) : Host.Outcome State Fault Refusal :=
  .next (s.elementwise x fun _ _ a b => if a.toNat ≤ b.toNat then a else b)
def execVmaxn (x : VBinary) (s : State) : Host.Outcome State Fault Refusal :=
  .next (s.elementwise x fun _ _ a b => if b.toNat ≤ a.toNat then a else b)

/-- The shift amount is the lane's whole 32-bit B element (R122). -/
def execVshl (x : VBinary) (s : State) : Host.Outcome State Fault Refusal :=
  .next (s.elementwise x fun _ _ a b => shiftLeft a b.toNat)
def execVshr (x : VBinary) (s : State) : Host.Outcome State Fault Refusal :=
  .next (s.elementwise x fun _ _ a b => shiftRight a b.toNat)
def execVsra (x : VBinary) (s : State) : Host.Outcome State Fault Refusal :=
  .next (s.elementwise x fun _ _ a b => shiftArith a b.toNat)

/-- An exact value clamped to the range of a signed or unsigned width (R123). -/
def clampInt (w : Nat) (signed : Bool) (v : Int) : BitVec w :=
  let lo : Int := if signed then -(2 ^ (w - 1)) else 0
  let hi : Int := if signed then 2 ^ (w - 1) - 1 else 2 ^ w - 1
  BitVec.ofInt w (max lo (min hi v))

/-- An element read as the type says (R123). -/
def elemInt {w : Nat} (ty : Ty) (a : BitVec w) : Int := if ty.isSigned then a.toInt else a.toNat

def execVaddsat (x : VBinary) (s : State) : Host.Outcome State Fault Refusal :=
  .next (s.elementwise x fun w ty a b => clampInt w ty.isSigned (elemInt ty a + elemInt ty b))
def execVsubsat (x : VBinary) (s : State) : Host.Outcome State Fault Refusal :=
  .next (s.elementwise x fun w ty a b => clampInt w ty.isSigned (elemInt ty a - elemInt ty b))

/-- VABS: the most negative value stays, or saturates under SAT (R123). -/
def absElem {w : Nat} (sat : Bool) (a : BitVec w) : BitVec w :=
  if a.toInt < 0 then if sat && a == BitVec.intMin w then BitVec.intMax w else -a else a

def execVabs (x : VAbs) (s : State) : Host.Outcome State Fault Refusal :=
  .next (s.lanes x.c fun g =>
    let w := elemWidth x.ty
    g.writeV x.d (g.executing x.g) fun i =>
      let a := g.lanePacked x.c w x.a i
      mapElems w (fun a _ => absElem x.sat a) a a)

def execVmad (x : VTernary) (s : State) : Host.Outcome State Fault Refusal :=
  .next (s.lanes x.c fun g =>
    g.writeV x.d (g.executing x.g) fun i =>
      g.lane32 x.c x.a i * g.lane32 x.c x.b i + g.lane32 x.c x.cc i)

/-- The comparisons of R124. -/
def compareInt (cc : Fin 8) (signed : Bool) (a b : Word) : Bool :=
  let lt := if signed then decide (a.toInt < b.toInt) else decide (a.toNat < b.toNat)
  match cc.val with
  | 0 => a == b
  | 1 => a != b
  | 2 => lt
  | 3 => lt || a == b
  | 4 => !(lt || a == b)
  | _ => !lt

def execVcmp (x : VCompare) (s : State) : Host.Outcome State Fault Refusal :=
  .next (s.lanes x.c fun g =>
    g.writeKLanes x.d (g.executing x.g) fun i =>
      compareInt x.cc x.ty.isSigned (g.lane32 x.c x.a i) (g.lane32 x.c x.b i))

def execVsel (x : VSelect) (s : State) : Host.Outcome State Fault Refusal :=
  .next (s.lanes x.c fun g =>
    g.writeV x.d (g.executing x.g) fun i =>
      if (g.readK x.k).getLsbD i.val then g.lane32 x.c x.a i else g.lane32 x.c x.b i)

/-- VMOV moves bits; under .b64 a pair (R121, R124). -/
def execVmov (x : VUnary) (s : State) : Host.Outcome State Fault Refusal :=
  .next (s.lanes x.c fun g =>
    if x.ty = .b64 then g.writeV64 x.d (g.executing x.g) fun i => g.lane64 x.c .b64 x.a i
    else g.writeV x.d (g.executing x.g) fun i => g.lane32 x.c x.a i)

/-- Field position and length from the lane's B element (R125). -/
def execVbfx (x : VBinary) (s : State) : Host.Outcome State Fault Refusal :=
  .next (s.lanes x.c fun g =>
    g.writeV x.d (g.executing x.g) fun i =>
      fieldExtract x.ty.isSigned (g.lane32 x.c x.a i) ((g.lane32 x.c x.b i).setWidth 64))
def execVbfi (x : VBinary) (s : State) : Host.Outcome State Fault Refusal :=
  .next (s.lanes x.c fun g =>
    g.writeV x.d (g.executing x.g) fun i =>
      fieldInsert (g.readV x.d i) (g.lane32 x.c x.a i) ((g.lane32 x.c x.b i).setWidth 64))

def execVpopc (x : VUnary) (s : State) : Host.Outcome State Fault Refusal :=
  .next (s.lanes x.c fun g =>
    g.writeV x.d (g.executing x.g) fun i => BitVec.ofNat 32 (popCount (g.lane32 x.c x.a i)))
def execVclz (x : VUnary) (s : State) : Host.Outcome State Fault Refusal :=
  .next (s.lanes x.c fun g =>
    g.writeV x.d (g.executing x.g) fun i => BitVec.ofNat 32 (leadZeros (g.lane32 x.c x.a i)))

/-- Byte `e` of a lane, signed or unsigned (R126). -/
def byteInt (signed : Bool) (x : Word) (e : Nat) : Int :=
  let b := x.extractLsb' (8 * e) 8
  if signed then b.toInt else b.toNat

/-- The exact four-way sum, reduced modulo 2^32 (R126). A literal enters every byte (R117; notes/assumptions/11). -/
def dot4 (sa sb : Bool) (a b z : Word) : Word :=
  BitVec.ofInt 32 (z.toInt + byteInt sa a 0 * byteInt sb b 0 + byteInt sa a 1 * byteInt sb b 1
    + byteInt sa a 2 * byteInt sb b 2 + byteInt sa a 3 * byteInt sb b 3)

def execVdot4 (x : VDot) (s : State) : Host.Outcome State Fault Refusal :=
  .next (s.lanes x.c fun g =>
    g.writeV x.d (g.executing x.g) fun i =>
      dot4 (x.ty == .s8) (!x.bn) (g.lanePacked x.c 8 x.a i) (g.lanePacked x.c 8 x.b i) (g.lane32 x.c x.cc i))

def execVmulw (x : VBinary) (s : State) : Host.Outcome State Fault Refusal :=
  .next (s.lanes x.c fun g =>
    g.writeV64 x.d (g.executing x.g) fun i =>
      BitVec.ofInt 64 (elemInt x.ty (g.lane32 x.c x.a i) * elemInt x.ty (g.lane32 x.c x.b i)))

def execVadd64 (x : VBinary) (s : State) : Host.Outcome State Fault Refusal :=
  .next (s.lanes x.c fun g =>
    g.writeV64 x.d (g.executing x.g) fun i => g.lane64 x.c x.ty x.a i + g.lane64 x.c x.ty x.b i)

end Sys2Proof.Machine
end

