-- ==== Sys2Proof/Machine/VecFloat.lean ====
section
/-! DEFINITION. Class 3: vector float instructions (R127 to R135). -/

namespace Sys2Proof.Machine

/-- Bits of a lane's source in a scalar-per-lane float operation (R41, R116, R117). -/
def Group.laneF (g : Group) (c : Ctl) (ty : Ty) (o : Operand) (i : Lane) : Nat :=
  let narrow (x : Word) : Nat :=
    if ty = .f32 then x.toNat else (fmtOf ty).round .rne false (fp32.decode x.toNat)
  let low (x : Word) : Nat := if ty = .f32 then x.toNat else x.toNat % 2 ^ 16
  match o with
  | .v n => low (g.readV n i)
  | .s n => low ((g.readS n).extractLsb' 0 32)
  | .lit32 => narrow c.lit32
  | o => narrow (inlineF32 o)

/-- A source of a packed float operation: its two halves as they stand, an inline constant in both (R41, R117). -/
def Group.laneHalves (g : Group) (c : Ctl) (ty : Ty) (o : Operand) (i : Lane) : Word :=
  match o with
  | .v n => g.readV n i
  | .s n => (g.readS n).extractLsb' 0 32
  | .lit32 => c.lit32
  | o =>
    let h := BitVec.ofNat 16 ((fmtOf ty).round .rne false (fp32.decode (inlineF32 o).toNat))
    h ++ h

/-- Write a float result to the executing lanes; a half result has zeros above it (R117). -/
def Group.writeF (g : Group) (gd : Guard) (d : Fin 128) (f : Lane → Nat) : Group :=
  g.writeV d (g.executing gd) fun i => BitVec.ofNat 32 (f i)

def State.floatBinary (s : State) (x : VFBinary) (f : Fmt → Round → FVal → FVal → Nat) : State :=
  s.lanes x.c fun g =>
    let fm := fmtOf x.ty
    let r := g.round x.rm
    g.writeF x.g x.d fun i => f fm r (fm.decode (g.laneF x.c x.ty x.a i)) (fm.decode (g.laneF x.c x.ty x.b i))

def execVfadd (x : VFBinary) (s : State) : Host.Outcome State Fault Refusal :=
  .next (s.floatBinary x fun fm r a b => fm.round r false (a.add r b))
def execVfsub (x : VFBinary) (s : State) : Host.Outcome State Fault Refusal :=
  .next (s.floatBinary x fun fm r a b => fm.round r false (a.add r b.neg))
def execVfmul (x : VFBinary) (s : State) : Host.Outcome State Fault Refusal :=
  .next (s.floatBinary x fun fm r a b => fm.round r false (a.mul b))
/-- VFDIV rounds once from the exact quotient, a half one too (R128, not the way through FP32 of R93;
notes/assumptions/116). -/
def execVfdiv (x : VFBinary) (s : State) : Host.Outcome State Fault Refusal :=
  .next (s.floatBinary x fun fm r a b => fm.div r a b)

/-- x * y + z with one rounding (R128). -/
def execVfma (x : VFTernary) (s : State) : Host.Outcome State Fault Refusal :=
  .next (s.lanes x.c fun g =>
    let fm := fmtOf x.ty
    let r := g.round x.rm
    g.writeF x.g x.d fun i =>
      fm.round r false (((fm.decode (g.laneF x.c x.ty x.a i)).mul (fm.decode (g.laneF x.c x.ty x.b i))).add r
        (fm.decode (g.laneF x.c x.ty x.cc i))))

def State.floatMinMax (s : State) (x : VFMinMax) (isMax : Bool) : State :=
  s.lanes x.c fun g =>
    g.writeF x.g x.d fun i =>
      (fmtOf x.ty).minMax isMax x.nanp (g.laneF x.c x.ty x.a i) (g.laneF x.c x.ty x.b i)

def execVfmin (x : VFMinMax) (s : State) : Host.Outcome State Fault Refusal := .next (s.floatMinMax x false)
def execVfmax (x : VFMinMax) (s : State) : Host.Outcome State Fault Refusal := .next (s.floatMinMax x true)

/-- Weight of the sign bit of a lane float type (R130). -/
def signWeight (ty : Ty) : Nat := if ty = .f32 then 2 ^ 31 else 2 ^ 15

def execVfabs (x : VUnary) (s : State) : Host.Outcome State Fault Refusal :=
  .next (s.lanes x.c fun g => g.writeF x.g x.d fun i => g.laneF x.c x.ty x.a i % signWeight x.ty)

def execVfneg (x : VUnary) (s : State) : Host.Outcome State Fault Refusal :=
  .next (s.lanes x.c fun g => g.writeF x.g x.d fun i =>
    (g.laneF x.c x.ty x.a i + signWeight x.ty) % (2 * signWeight x.ty))

/-- The comparisons of R131. -/
def compareFloat (cc : Fin 8) (a b : FVal) : Bool :=
  let uno := a.isNan || b.isNan
  match cc.val with
  | 0 => a.eq b
  | 1 => uno || !a.eq b
  | 2 => a.lt b
  | 3 => a.le b
  | 4 => b.lt a
  | 5 => b.le a
  | 6 => !uno
  | _ => uno

def execVfcmp (x : VCompare) (s : State) : Host.Outcome State Fault Refusal :=
  .next (s.lanes x.c fun g =>
    let fm := fmtOf x.ty
    g.writeKLanes x.d (g.executing x.g) fun i =>
      compareFloat x.cc (fm.decode (g.laneF x.c x.ty x.a i)) (fm.decode (g.laneF x.c x.ty x.b i)))

/-- The one-hot class of R132. -/
def floatClass (fm : Fmt) (bits : Nat) : Nat :=
  match fm.decode bits with
  | .nan => 256
  | .inf neg => if neg then 1 else 128
  | .fin neg m _ =>
    if m = 0 then if neg then 8 else 16
    else if m < 2 ^ fm.mbits then if neg then 4 else 32
    else if neg then 2 else 64

def execVfclass (x : VUnary) (s : State) : Host.Outcome State Fault Refusal :=
  .next (s.lanes x.c fun g => g.writeF x.g x.d fun i => floatClass (fmtOf x.ty) (g.laneF x.c x.ty x.a i))

def State.floatUnary (s : State) (x : VFUnary) (f : Fmt → Round → Nat → Nat) : State :=
  s.lanes x.c fun g => g.writeF x.g x.d fun i => f (fmtOf x.ty) (g.round x.rm) (g.laneF x.c x.ty x.a i)

/-- VFSQRT rounds once from the exact root, a half one too (R128; notes/assumptions/116). -/
def execVfsqrt (x : VFUnary) (s : State) : Host.Outcome State Fault Refusal :=
  .next (s.floatUnary x fun fm r b => fm.sqrt r (fm.decode b))
def execVfrnd (x : VFUnary) (s : State) : Host.Outcome State Fault Refusal :=
  .next (s.floatUnary x fun fm r b => fm.roundInt r b)

/-- A half input is widened exactly and the FP32 result rounded once with RNE (R134). -/
def State.floatFun (s : State) (x : VFUnary) (f : LaneFun) : State :=
  s.floatUnary x fun fm _ b =>
    if x.ty = .f32 then (laneFun f (BitVec.ofNat 32 b)).toNat
    else fm.round .rne false
      (fp32.decode (laneFun f (BitVec.ofNat 32 (fp32.round .rne false (fm.decode b)))).toNat)

def execVfrcp (x : VFUnary) (s : State) : Host.Outcome State Fault Refusal := .next (s.floatFun x .rcp)
def execVfrsq (x : VFUnary) (s : State) : Host.Outcome State Fault Refusal := .next (s.floatFun x .rsq)
def execVfexp2 (x : VFUnary) (s : State) : Host.Outcome State Fault Refusal := .next (s.floatFun x .exp2)
def execVflog2 (x : VFUnary) (s : State) : Host.Outcome State Fault Refusal := .next (s.floatFun x .log2)
def execVfsin (x : VFUnary) (s : State) : Host.Outcome State Fault Refusal := .next (s.floatFun x .sin)
def execVfcos (x : VFUnary) (s : State) : Host.Outcome State Fault Refusal := .next (s.floatFun x .cos)
def execVftanh (x : VFUnary) (s : State) : Host.Outcome State Fault Refusal := .next (s.floatFun x .tanh)

/-- Half `h` of a lane. -/
def half (x : Word) (h : Nat) : Nat := (x.extractLsb' (16 * h) 16).toNat

/-- Two half results as one lane. -/
def joinHalves (f : Nat → Nat) : Word := BitVec.ofNat 16 (f 1) ++ BitVec.ofNat 16 (f 0)

/-- The packed two-source forms (R135). -/
def State.floatPacked (s : State) (x : VFBinary) (f : Round → FVal → FVal → FVal) : State :=
  s.lanes x.c fun g =>
    let fm := fmtOf x.ty
    let r := g.round x.rm
    g.writeV x.d (g.executing x.g) fun i =>
      joinHalves fun h =>
        fm.round r false (f r (fm.decode (half (g.laneHalves x.c x.ty x.a i) h))
          (fm.decode (half (g.laneHalves x.c x.ty x.b i) h)))

def execVhadd (x : VFBinary) (s : State) : Host.Outcome State Fault Refusal :=
  .next (s.floatPacked x fun r a b => a.add r b)
def execVhmul (x : VFBinary) (s : State) : Host.Outcome State Fault Refusal :=
  .next (s.floatPacked x fun _ a b => a.mul b)

def execVhfma (x : VFTernary) (s : State) : Host.Outcome State Fault Refusal :=
  .next (s.lanes x.c fun g =>
    let fm := fmtOf x.ty
    let r := g.round x.rm
    g.writeV x.d (g.executing x.g) fun i =>
      joinHalves fun h =>
        let v (o : Operand) := fm.decode (half (g.laneHalves x.c x.ty o i) h)
        fm.round r false (((v x.a).mul (v x.b)).add r (v x.cc)))

/-- The exact sum of several terms: NaN and infinities as IEEE 754-2019; a zero sum keeps the sign that all terms
share, else it is -0 only under RDN (R92, R135). -/
def sumExact (r : Round) : List FVal → FVal
  | [] => .fin false 0 0
  | [v] => v
  | v :: vs => v.add r (sumExact r vs)

/-- a0 b0 + a1 b1 + z, exact, rounded once to FP32 (R135). -/
def fdot2 (fm : Fmt) (r : Round) (a b : Word) (z : Nat) : Nat :=
  let p (h : Nat) := (fm.decode (half a h)).mul (fm.decode (half b h))
  fp32.round r false (sumExact r [p 0, p 1, fp32.decode z])

def execVfdot2 (x : VFTernary) (s : State) : Host.Outcome State Fault Refusal :=
  .next (s.lanes x.c fun g =>
    let r := g.round x.rm
    g.writeF x.g x.d fun i =>
      fdot2 (fmtOf x.ty) r (g.laneHalves x.c x.ty x.a i) (g.laneHalves x.c x.ty x.b i) (g.laneF x.c .f32 x.cc i))

end Sys2Proof.Machine
end

