-- ==== Sys2Proof/Machine/Convert.lean ====
section
/-! DEFINITION. Class 4: conversions, cross-lane operations, K registers and planes (R141 to R155). -/

namespace Sys2Proof

/-- Bits of one element of a type (R47, R80). -/
def Ty.bits : Ty → Nat
  | .b1 => 1
  | .s4 | .e2m1 => 4
  | t => 8 * t.bytes

def Ty.isFloat : Ty → Bool
  | .f32 | .f16 | .bf16 | .e4m3 | .e5m2 | .e2m1 => true
  | _ => false

end Sys2Proof

namespace Sys2Proof.Machine

/-! ### Conversion (R84, R142 to R148) -/

/-- The bits of a lane's source element of a type: the low bits of a register, or a constant adapted to the type
(R41, R142; notes/assumptions/13). -/
def Group.laneTyped (g : Group) (c : Ctl) (ty : Ty) (o : Operand) (i : Lane) : Nat :=
  if isConst o then
    if ty.isFloat then
      let x := if o = .lit32 then c.lit32 else inlineF32 o
      if ty = .f32 then x.toNat else (fmtOf ty).round .rne false (fp32.decode x.toNat)
    else (g.lane32 c o i).toNat % 2 ^ ty.bits
  else (g.lane32 c o i).toNat % 2 ^ ty.bits

/-- The integer of an element's bits. -/
def intOf (ty : Ty) (code : Nat) : Int := elemInt ty (BitVec.ofNat ty.bits code)

/-- The value of an element's bits. -/
def valOf (ty : Ty) (code : Nat) : FVal := if ty.isFloat then (fmtOf ty).decode code else FVal.ofInt (intOf ty code)

/-- Convert of R84: the bits of the destination element. Between equal types an integer is copied, and a float but
for a NaN, which becomes canonical (R144). -/
def convert (dst src : Ty) (r : Round) (sat : Bool) (code : Nat) : Nat :=
  if dst = src then
    if dst.isFloat && ((fmtOf dst).decode code).isNan then (fmtOf dst).nan else code
  else if dst.isFloat then
    match valOf src code with
    | .nan => (fmtOf dst).nan
    | v => (fmtOf dst).round r sat v
  else if src.isFloat then (toIntClamp r dst.bits dst.isSigned (valOf src code) % 2 ^ dst.bits).toNat
  else intToInt sat src.bits dst.bits dst.isSigned (intOf src code)

/-- An element as a lane's 32 bits: signed integers sign-extended, the rest zero-extended (R142). -/
def laneOf (ty : Ty) (code : Nat) : Word :=
  if ty.isSigned then BitVec.ofInt 32 (intOf ty code) else BitVec.ofNat 32 code

def execVcvt (x : Convert) (s : State) : Host.Outcome State Fault Refusal :=
  .next (s.lanes x.c fun g =>
    g.writeV x.d (g.executing x.g) fun i =>
      laneOf x.ty (convert x.ty x.ty2 (g.round x.rm) (x.sat || g.fmtSat) (g.laneTyped x.c x.ty2 x.a i)))

/-- A value rounded to an element type (R84). -/
def roundTo (ty : Ty) (r : Round) (sat : Bool) (v : FVal) : Nat :=
  if ty.isFloat then (fmtOf ty).round r sat v else (toIntClamp r ty.bits ty.isSigned v % 2 ^ ty.bits).toNat

/-- The largest pattern under R91 of the lanes of a mask. -/
def amaxOver (m : LaneMask) (f : Lane → Word) : Word :=
  (List.finRange 32).foldl (fun r i => if m.getLsbD i.val then amax2 r (f i) else r) 0

/-- emax of R86. -/
def mxEmax (ty : Ty) : Int :=
  match ty with
  | .e2m1 => 2
  | .e4m3 => 8
  | _ => 15

/-- The scale code of a block from its amax; 0xFF when it holds a NaN or an infinity (R86). -/
def mxScale (ty : Ty) (amax : Word) : Nat :=
  match fp32.decode amax.toNat with
  | .nan | .inf _ => 255
  | .fin _ m e =>
    if m = 0 then 0
    else (max 0 (min 254 ((Nat.log2 m : Int) + e - mxEmax ty + 127))).toNat

/-- One element of an MX32 block: the value over its scale, saturating (R86). -/
def mxElem (ty : Ty) (r : Round) (code : Nat) (v : FVal) : Nat :=
  if code = 255 then 0 else (fmtOf ty).round r true (v.mul (.fin false 1 (127 - (code : Int))))

def execVqnt (x : Quant) (s : State) : Host.Outcome State Fault Refusal :=
  .next (s.lanes x.c fun g =>
    let m := g.executing x.g
    let r := g.round x.rm
    let v (i : Lane) := fp32.decode (g.laneTyped x.c .f32 x.a i)
    match x.b with
    | some b =>
      g.writeV x.d m fun i =>
        laneOf x.ty (roundTo x.ty r (x.sat || g.fmtSat) ((v i).mul (fp32.decode (g.laneTyped x.c .f32 b i))))
    | none =>
      let code := mxScale x.ty (amaxOver m fun i => BitVec.ofNat 32 (g.laneTyped x.c .f32 x.a i))
      g.writeV x.d m fun i => BitVec.ofNat 8 code ++ 0#16 ++ BitVec.ofNat 8 (mxElem x.ty r code (v i)))

/-- VDQNT. In mode 1 the low bits of A are the element whatever kind of operand A is: an inline constant or LIT32 is read as
its 32-bit pattern (R146; notes/assumptions/115). -/
def execVdqnt (x : Quant) (s : State) : Host.Outcome State Fault Refusal :=
  .next (s.lanes x.c fun g =>
    let r := g.round x.rm
    g.writeF x.g x.d fun i =>
      let el := g.lane32 x.c x.a i
      match x.b with
      | some b =>
        fp32.round r false ((valOf x.ty (g.laneTyped x.c x.ty x.a i)).mul (fp32.decode (g.laneTyped x.c .f32 b i)))
      | none =>
        fp32.round r false ((valOf x.ty (el.toNat % 2 ^ x.ty.bits)).mul (e8m0Val (el.extractLsb' 24 8).toNat)))

/-- The amax of two lanes as FP32; a NaN is canonical (R147). -/
def amaxCanon (a b : Word) : Word :=
  let m := amax2 a b
  if (fp32.decode m.toNat).isNan then f32Nan else m

/-- A lane float widened exactly to FP32 bits. -/
def widenF32 (ty : Ty) (code : Nat) : Word :=
  if ty = .f32 then BitVec.ofNat 32 code else f32Of ((fmtOf ty).decode code)

def execVamax (x : VBinary) (s : State) : Host.Outcome State Fault Refusal :=
  .next (s.lanes x.c fun g =>
    g.writeV x.d (g.executing x.g) fun i =>
      amaxCanon (widenF32 x.ty (g.laneTyped x.c x.ty x.a i)) (widenF32 x.ty (g.laneTyped x.c x.ty x.b i)))

/-- Element `e` of width `w` of a lane replaced (R80, R148). -/
def insertElem (w e : Nat) (old : Word) (v : Nat) : Word :=
  let mask : Word := BitVec.ofNat 32 (2 ^ w - 1) <<< (w * e)
  (old &&& ~~~mask) ||| ((BitVec.ofNat 32 v <<< (w * e)) &&& mask)

def execVpack (x : Pack) (s : State) : Host.Outcome State Fault Refusal :=
  .next (s.lanes x.c fun g =>
    let w := x.ty.bits
    g.writeV x.d (g.executing x.g) fun i =>
      let e := (g.lane32 x.c x.b i).toNat % (32 / w)
      insertElem w e (g.readV x.d i)
        (convert x.ty x.ty2 (g.round x.rm) (x.sat || g.fmtSat) (g.laneTyped x.c x.ty2 x.a i)))

def execVunpk (x : Pack) (s : State) : Host.Outcome State Fault Refusal :=
  .next (s.lanes x.c fun g =>
    let w := x.ty2.bits
    g.writeV x.d (g.executing x.g) fun i =>
      let e := (g.lane32 x.c x.b i).toNat % (32 / w)
      let el := if isConst x.a then g.laneTyped x.c x.ty2 x.a i
        else (g.lane32 x.c x.a i).toNat / 2 ^ (w * e) % 2 ^ w
      laneOf x.ty (convert x.ty x.ty2 (g.round x.rm) (x.sat || g.fmtSat) el))

/-! ### Cross-lane operations (R149 to R153) -/

def laneMod (n : Nat) : Lane := ⟨n % 32, Nat.mod_lt _ (by decide)⟩

/-- Each member takes the element of its source lane as the register stands (R149, R150). -/
def State.permute (s : State) (x : Permute) (src : Group → Lane → Lane) : State :=
  s.lanes x.c fun g => g.writeV x.d (g.executing x.g) fun i => g.readV x.a (src g i)

def execVshuf (x : Permute) (s : State) : Host.Outcome State Fault Refusal :=
  .next (s.permute x fun g i => laneMod (g.lane32 x.c x.b i).toNat)

/-- A uniform operand's 32 bits. -/
def Group.uni (g : Group) (c : Ctl) (o : Operand) : Nat := (g.src32 c o).toNat

def execVbcast (x : Permute) (s : State) : Host.Outcome State Fault Refusal :=
  .next (s.permute x fun g _ => laneMod (g.uni x.c x.b))

def execVswz (x : Permute) (s : State) : Host.Outcome State Fault Refusal :=
  .next (s.permute x fun g i => laneMod (4 * (i.val / 4) + bitsOf (g.uni x.c x.b) (2 * (i.val % 4)) 2))

/-- Source lane of VLANE (R150). -/
def laneMoveSrc (mode : LaneMode) (n : Nat) (i : Lane) : Lane :=
  match mode with
  | .rot => laneMod (i.val + 32 - n % 32)
  | .up => if i.val < n then i else laneMod (i.val - n)
  | .dn => if 31 < i.val + n then i else laneMod (i.val + n)
  | .xor => laneMod (i.val ^^^ (n % 32))

def execVlane (x : LaneMove) (s : State) : Host.Outcome State Fault Refusal :=
  .next (s.lanes x.c fun g =>
    g.writeV x.d (g.executing x.g) fun i => g.readV x.a (laneMoveSrc x.mode (g.uni x.c x.b) i))

/-- Identity of an operation under a type (R152). -/
def redIdentity (op : RedOp) (ty : Ty) : Word :=
  match op with
  | .add => if ty = .f32 then 0x80000000 else 0
  | .min => if ty = .f32 then 0x7F800000 else if ty = .s32 then 0x7FFFFFFF else 0xFFFFFFFF
  | .max => if ty = .f32 then 0xFF800000 else if ty = .s32 then 0x80000000 else 0
  | .and => 0xFFFFFFFF
  | .or | .xor | .amax => 0

/-- One combination of two elements (R152); float ADD rounds once, with the effective SAT of class 4, which turns the infinity of an
infinite operand into the largest finite value (R83; notes/assumptions/144). -/
def redCombine (op : RedOp) (ty : Ty) (r : Round) (sat : Bool) (a b : Word) : Word :=
  match op with
  | .add =>
    if ty = .f32 then BitVec.ofNat 32 (fp32.round r sat ((fp32.decode a.toNat).add r (fp32.decode b.toNat)))
    else a + b
  | .min =>
    if ty = .f32 then BitVec.ofNat 32 (fp32.minMax false false a.toNat b.toNat)
    else if ty = .s32 then if a.toInt ≤ b.toInt then a else b else if a.toNat ≤ b.toNat then a else b
  | .max =>
    if ty = .f32 then BitVec.ofNat 32 (fp32.minMax true false a.toNat b.toNat)
    else if ty = .s32 then if b.toInt ≤ a.toInt then a else b else if b.toNat ≤ a.toNat then a else b
  | .and => a &&& b
  | .or => a ||| b
  | .xor => a ^^^ b
  | .amax => amaxCanon a b

/-- Neighbours combined pairwise, level by level (R87). -/
def pairLevel (f : Word → Word → Word) : List Word → List Word
  | a :: b :: rest => f a b :: pairLevel f rest
  | l => l

def pairTree (f : Word → Word → Word) : Nat → List Word → List Word
  | 0, l => l
  | n + 1, l => pairTree f n (pairLevel f l)

/-- Lane elements with the identity outside the members (R149). -/
def redInputs (op : RedOp) (ty : Ty) (m : LaneMask) (f : Lane → Word) : List Word :=
  (List.finRange 32).map fun i => if m.getLsbD i.val then f i else redIdentity op ty

def execVred (x : Reduce) (s : State) : Host.Outcome State Fault Refusal :=
  .next (s.lanes x.c fun g =>
    let m := g.executing x.g
    let r := g.round x.rm
    let el (i : Lane) := BitVec.ofNat 32 (g.laneTyped x.c x.ty x.a i)
    let v := (pairTree (redCombine x.op x.ty r g.fmtSat) 5 (redInputs x.op x.ty m el)).headD 0
    g.writeV x.d m fun _ => v)

/-- The combination of one element alone: a NaN of a float operation that is not moved is canonical (R76, R147). -/
def redAlone (op : RedOp) (ty : Ty) (a : Word) : Word :=
  if op = .amax then amaxCanon a a else if ty = .f32 ∧ (fp32.decode a.toNat).isNan then f32Nan else a

/-- Running combinations in ascending lane order: the value before and after each lane; the first input stands alone, and a lane
without an input changes nothing (R92, R152). -/
def scanGo (f : Word → Word → Word) (alone : Word → Word) (id : Word) : List (Option Word) → Option Word → List (Word × Word)
  | [], _ => []
  | x :: xs, acc =>
    let next := match x, acc with
      | none, acc => acc
      | some v, none => some (alone v)
      | some v, some a => some (f a v)
    (acc.getD id, next.getD id) :: scanGo f alone id xs next

/-- The inputs of a scan: float ADD takes those of members only, as it rounds once at each member after the first; in the other
operations a lane that is no member gives the identity (R149, R152). -/
def scanInputs (op : RedOp) (ty : Ty) (m : LaneMask) (f : Lane → Word) : List (Option Word) :=
  if op = .add ∧ ty = .f32 then (List.finRange 32).map fun i => if m.getLsbD i.val then some (f i) else none
  else (redInputs op ty m f).map some

/-- VSCAN (R149, R152; notes/assumptions/87). -/
def execVscan (x : Reduce) (s : State) : Host.Outcome State Fault Refusal :=
  .next (s.lanes x.c fun g =>
    let m := g.executing x.g
    let el (i : Lane) := BitVec.ofNat 32 (g.laneTyped x.c x.ty x.a i)
    let out := scanGo (redCombine x.op x.ty (g.round x.rm) g.fmtSat) (redAlone x.op x.ty) (redIdentity x.op x.ty)
      (scanInputs x.op x.ty m el) none
    g.writeV x.d m fun i => let p := out.getD i.val (0, 0); if x.excl then p.1 else p.2)

/-- Members whose element is not 0. -/
def Group.nonzero (g : Group) (c : Ctl) (gd : Guard) (o : Operand) : LaneMask :=
  g.executing gd &&& maskOf fun i => g.lane32 c o i != 0

def execVballot (x : Ballot) (s : State) : Host.Outcome State Fault Refusal :=
  .next (s.lanes x.c fun g =>
    let v := g.nonzero x.c x.g x.a
    match x.d with
    | .k n => g.writeK n v
    | .v n => g.writeV n (g.executing x.g) fun _ => v
    | _ => g)

/-- v of R153. -/
def Group.vote (g : Group) (x : Vote) : Nat :=
  let m := g.executing x.g
  let nz := g.nonzero x.c x.g x.a
  match x.mode with
  | .all => if nz = m then 1 else 0
  | .any => if nz = 0 then 0 else 1
  | .eq =>
    let els := ((List.finRange 32).filter fun i => m.getLsbD i.val).map fun i => g.lane32 x.c x.a i
    if els.all fun e => e == els.headD 0 then 1 else 0
  | .cnt => popCount nz

def execVvote (x : Vote) (s : State) : Host.Outcome State Fault Refusal :=
  .next (s.lanes x.c fun g =>
    match x.d with
    | .s n => g.writeS n (BitVec.ofNat 64 (g.vote x))
    | .v n => g.writeV n (g.executing x.g) fun _ => BitVec.ofNat 32 (g.vote x)
    | _ => g)

/-- VRDLANE writes its S register whole at every issue (R149, R151). -/
def execVrdlane (x : ReadLane) (s : State) : Host.Outcome State Fault Refusal :=
  .next (s.lanes x.c fun g => g.writeS x.d ((g.readV x.a (laneMod (g.uni x.c x.b))).setWidth 64))

def execVwrlane (x : WriteLane) (s : State) : Host.Outcome State Fault Refusal :=
  .next (s.lanes x.c fun g =>
    let n := laneMod (g.uni x.c x.b)
    g.writeV x.d (g.executing x.g &&& maskOf fun i => i == n) fun _ => g.src32 x.c x.a)

/-! ### K registers and planes (R154, R155) -/

def kCombine (m : KMode) (a b : LaneMask) : LaneMask :=
  match m with
  | .and => a &&& b
  | .or => a ||| b
  | .xor => a ^^^ b
  | .andn => a &&& ~~~b
  | .orn => a ||| ~~~b
  | .nand => ~~~(a &&& b)
  | .nor => ~~~(a ||| b)
  | .xnor => ~~~(a ^^^ b)

def execKop (x : KOpArgs) (s : State) : Host.Outcome State Fault Refusal :=
  .next (s.onceG x.c x.cond fun g =>
    g.writeMaskDest x.d (kCombine x.mode (g.src32 x.c x.a) (g.src32 x.c x.b)))

def execKmov (x : KMovArgs) (s : State) : Host.Outcome State Fault Refusal :=
  .next (s.onceG x.c x.cond fun g => g.writeMaskDest x.d (g.src32 x.c x.a))

/-- PLN of the lanes of a mask (R155). -/
def Group.writePln (g : Group) (m : LaneMask) (f : Lane → BitVec 2) : Group :=
  { g with pln := Vector.ofFn fun i => if m.getLsbD i.val then f i else g.pln.get i }

def execPset (x : PSetArgs) (s : State) : Host.Outcome State Fault Refusal :=
  .next (s.lanes x.c fun g =>
    g.writePln (g.executing x.g) fun i => (g.lane32 x.c x.a i).extractLsb' 0 2)

def execPselk (x : PSelArgs) (s : State) : Host.Outcome State Fault Refusal :=
  .next (s.lanes x.c fun g =>
    g.writePln (g.executing x.g) fun i =>
      BitVec.ofBool ((g.readK x.b).getLsbD i.val) ++ BitVec.ofBool ((g.readK x.a).getLsbD i.val))

def execPget (x : PGetArgs) (s : State) : Host.Outcome State Fault Refusal :=
  .next (s.lanes x.c fun g =>
    match x.d with
    | .v n => g.writeV n (g.executing x.g) fun i => (g.pln.get i).setWidth 32
    | .k n p => g.writeKLanes n (g.executing x.g) fun i => (g.pln.get i).toNat == p.val)

end Sys2Proof.Machine
end

