-- ==== Sys2Proof/Machine/Chain.lean ====
section
/-! DEFINITION. Chains: the control block, the ring and its entries, as groups and engines reach them (R252 to R255). -/

namespace Sys2Proof.Machine

/-- A group's accesses of one program-order position (R230, R269). -/
def viaGroup (seq : Nat) : Via := fun s va cls atomic =>
  s.translate s.g.coreRef (.store s.g.ref seq 0) s.g.ctx va cls atomic

/-- A device engine's accesses for a chain (R379). -/
def viaEngine (c : ChainRef) : Via := fun s va cls atomic => s.translateNow c.die none (.chain c) c.ctx va cls atomic

/-- The virtual address of a chain's control block (R252). -/
def State.ccbVa (s : State) (d : Fin 2) (ctx : BitVec 12) (ch : BitVec 12) : Nat :=
  (s.desc d ctx).chta.toNat + 128 * ch.toNat

/-- A control block as read (R252). -/
structure Ccb where
  raw : Nat
deriving DecidableEq, Repr

namespace Ccb
def errseq (c : Ccb) : Nat := bitsOf c.raw 256 64
def seq (c : Ccb) : Nat := bitsOf c.raw 192 64
def widx (c : Ccb) : Nat := bitsOf c.raw 128 64
def head (c : Ccb) : Nat := bitsOf c.raw 64 64
def nblk (c : Ccb) : Nat := bitsOf c.raw 48 16
def hcode (c : Ccb) : Nat := bitsOf c.raw 40 8
def state (c : Ccb) : Nat := bitsOf c.raw 32 8
def prio (c : Ccb) : Nat := bitsOf c.raw 10 2
def die (c : Ccb) : Nat := bitsOf c.raw 8 2
def inst (c : Ccb) : Nat := bitsOf c.raw 4 4
def eng (c : Ccb) : Nat := bitsOf c.raw 0 4
/-- Entries that the ring holds (R253). -/
def ring (c : Ccb) : Nat := 63 * c.nblk
/-- Valid phase of the entry with an index (R254). -/
def phase (c : Ccb) (i : Nat) : Nat := 1 - i / c.ring % 2
end Ccb

/-- The block of the ring that holds an index: links followed from HEAD, each checked for its alignment (R253, R257);
none when one is misaligned. -/
def blockAt (via : Via) (s : State) (at' : Nat) : Nat → Chk (Option Nat)
  | 0 => .ok (if at' % 4096 = 0 then some at' else none) s
  | n + 1 =>
    if at' % 4096 ≠ 0 then .ok none s
    else (readVia via s (at' + 4032) 8).bind fun bs s => blockAt via s (leNat bs) n

/-- The virtual address of the entry with an index (R253). -/
def entryAt (via : Via) (s : State) (c : Ccb) (i : Nat) : Chk (Option Nat) :=
  (blockAt via s c.head (i / 63 % c.nblk)).bind fun b s => .ok (b.map fun b => b + 64 * (i % 63)) s

/-! ### Appends (R255, R269) -/

/-- Read a control block through its writer's translation. -/
def readCcb (via : Via) (s : State) (va : Nat) : Chk Ccb :=
  (readVia via s va 128).bind fun bs s => .ok ⟨leNat bs⟩ s

/-- Reserve an index by an atomic add of 1 to WIDX at its slice (step 1 of R255, R206); none when the chain has no block. -/
def reserve (via : Via) (c : CoreRef) (ctx : BitVec 12) (s : State) (ccb : Nat) : Chk (Option Nat) :=
  (turnVia via c.die ctx (some c.core) s (ccb + 16) 8 true).bind fun pa s =>
    let c : Ccb := ⟨s.mem.nat (pa - 16) 128⟩
    if c.nblk = 0 then .ok none s
    else .ok (some c.widx) (s.writeL2 ctx pa (leBytes 8 (c.widx + 1)))

/-- The entry's control word: the image's, with STATUS 0 and PH for the index (R269). -/
def entryControl (c : Ccb) (i : Nat) (img : Nat) : Nat :=
  let w := bitsOf img 0 64
  w - w % 2 - bitsOf w 16 8 * 2 ^ 16 + c.phase i

/-- What writing a reserved entry comes to. -/
inductive Put where
  | full
  | written

/-- Wait for room, then write bytes 8 to 63 and the control word (steps 2 to 4 of R255); nothing is written where a
link is misaligned (R269). -/
def putEntry (via : Via) (d : Fin 2) (ctx : BitVec 12) (s : State) (ccb i : Nat) (img : List Byte) : Chk Put :=
  (readCcb via s ccb).bind fun c s =>
    if c.seq + c.ring ≤ i then .ok .full s
    else
      (entryAt via s c i).bind fun e s =>
        match e with
        | none => .ok .written s
        | some va =>
          (writeVia via d ctx s va 64 false).bind fun pa s =>
            let s := s.writeL2 ctx (pa + 8) (img.drop 8)
            .ok .written (s.writeL2 ctx pa (leBytes 8 (entryControl c i (leNat img))))

/-! ### What an append under way may still write (R13, R226) -/

/-- A page of the ring, among the next `n` blocks from one on. -/
def ringHas (via : Via) (s : State) (page : Nat) : Nat → Nat → Bool
  | 0, _ => false
  | n + 1, b =>
    b / 4096 == page ||
      match readVia via s (b + 4032) 8 with
      | .ok bs _ => ringHas via s page n (leNat bs)
      | _ => false

/-- An append that has not written its entry may still write some of [va, va + n): WIDX, and its entry, or any of the ring
while it has no index. -/
def State.appendTouches (s : State) (d : Fin 2) (ctx : BitVec 12) (ch : BitVec 12) (idx : Option Nat) (va n : Nat) : Bool :=
  let ccb := s.ccbVa d ctx ch
  let via := viaPeek d ctx
  let meets (lo k : Nat) := decide (lo < va + n ∧ va < lo + k)
  match readCcb via s ccb with
  | .ok c _ =>
    match idx with
    | none => meets (ccb + 16) 8 || ringHas via s (va / 4096) c.nblk c.head
    | some i =>
      match entryAt via s c i with
      | .ok (some e) _ => meets e 64
      | _ => false
  | _ => false

end Sys2Proof.Machine
end

