-- ==== Sys2Proof/Machine/Access.lean ====
section
/-! DEFINITION. Accesses of a group: their addresses and checks at issue (R137, R217, R218, R233), the operand log and
the store FIFO that they enter (R376, R378), fences (R204, R227), and the performing of loads (R13, R200 to R203). -/

namespace Sys2Proof

def Ord.acquires : Ord → Bool
  | .acq | .acqrel => true
  | _ => false

def Ord.releases : Ord → Bool
  | .rel | .acqrel => true
  | _ => false

/-- A guard field of 0b0000 (R221). -/
def Guard.isNone (g : Guard) : Bool := g.k == 0 && !g.neg

end Sys2Proof

namespace Sys2Proof.Machine

/-! ### Addresses and data (R217, R218) -/

/-- The global address of a once-per-group access. -/
def Group.scalarAddr (g : Group) (c : Ctl) (a : Fin 64) (b : Operand) : Word64 := g.readS a + g.src c .s64 b

/-- The global address of a lane (R136, R217). -/
def Group.laneAddr (g : Group) (c : Ctl) (a b : Operand) (i : Lane) : Word64 :=
  let base := match a with
    | .v n => g.readV64 n i
    | o => g.src c .s64 o
  let off := match b with
    | .v n => (g.readV n i).signExtend 64
    | o => g.src c .s64 o
  base + off

/-- The offset of a lane in a typed-store window (R217). -/
def Group.typedAddr (g : Group) (c : Ctl) (a b : Operand) (i : Lane) : Word := g.lane32 c a i + g.lane32 c b i

/-- LIT32 as data of a half format is an FP32 value, converted with RNE (R41). -/
def halfLit (c : Ctl) (ty : Ty) (o : Operand) : Option Word64 :=
  if ty.isHalf && o == .lit32 then some (BitVec.ofNat 64 ((fmtOf ty).round .rne false (fp32.decode c.lit32.toNat)))
  else none

/-- The data of a once-per-group store or atomic (R41, R217). -/
def Group.scalarData (g : Group) (c : Ctl) (ty : Ty) (o : Operand) : Word64 := (halfLit c ty o).getD (g.src c ty o)

/-- The data of a lane: the low bytes of it are stored (R41, R217, R218). -/
def Group.laneData (g : Group) (c : Ctl) (ty : Ty) (o : Operand) (i : Lane) : Word64 :=
  (halfLit c ty o).getD
    (if ty.bytes = 8 then g.lane64 c ty o i else if o == .lit64 then c.lit else (g.lane32 c o i).setWidth 64)

/-- A loaded value extended to 64 bits (R218). -/
def extendLoad (ty : Ty) (x : Word64) : Word64 :=
  match ty.bytes, ty.isSigned with
  | 1, true => (x.extractLsb' 0 8).signExtend 64
  | 2, true => (x.extractLsb' 0 16).signExtend 64
  | 4, true => (x.extractLsb' 0 32).signExtend 64
  | _, _ => x

/-- Lanes of a mask, ascending. -/
def lanesOf (m : LaneMask) : List Lane := (List.finRange 32).filter fun i => m.getLsbD i.val

/-- The lanes of an access with their elements; lane 0 stands for a once-per-group access or a scalar form. -/
def elements (ls : List Lane) (f : Lane → LaneAcc) : List LaneAcc := ls.map f

/-! ### Checks at issue (R233, R372) -/

/-- SUB and lane of a report: the lane, or 0xFF for an access without lanes. -/
def laneCode (scalar : Bool) (i : Lane) : Byte := if scalar then 0xFF else BitVec.ofNat 8 i.val

/-- The trap of the lowest element with a property. -/
def Group.checkEach (g : Group) (code : Byte) (scalar : Bool) (es : List LaneAcc) (p : LaneAcc → Bool)
    (info : LaneAcc → Word64) : Option TrapReq :=
  (es.find? p).map fun e => g.trapHere code (laneCode scalar e.lane) (info e)

/-- CheckAtIssue for global accesses: cause 0x05, then 0x06. -/
def Group.checkGlobal (g : Group) (w : Nat) (scalar : Bool) (es : List LaneAcc) : Option TrapReq :=
  let addr (e : LaneAcc) := BitVec.ofNat 64 e.addr
  (g.checkEach 5 scalar es (fun e => decide (2 ^ 56 ≤ e.addr)) addr).or
    (g.checkEach 6 scalar es (fun e => e.addr % w != 0) addr)

/-- The store number of R372. -/
def storeCode (sp : Space) : Word64 :=
  match sp with
  | .a => 1
  | .c => 2
  | _ => 0

/-- The window of a typed store: its size in bytes (R189). -/
def Team.size (t : Team) (sp : Space) : Nat :=
  match sp with
  | .glob => 0
  | .l => t.lsize
  | .a => t.asize
  | .w => t.wsize
  | .c => t.csize

/-- The bytes of a typed-store window. -/
def Team.window (t : Team) (sp : Space) : Mem :=
  match sp with
  | .glob => []
  | .l => t.l
  | .a => t.a
  | .w => t.w
  | .c => t.c

def Team.setWindow (t : Team) (sp : Space) (m : Mem) : Team :=
  match sp with
  | .glob => t
  | .l => { t with l := m }
  | .a => { t with a := m }
  | .w => { t with w := m }
  | .c => { t with c := m }

/-- Bytes written into a window; what is written holds no error any more (R375). -/
def Team.put (t : Team) (sp : Space) (a : Nat) (bs : List Byte) : Team :=
  { t.setWindow sp ((t.window sp).writes a bs) with
    errs := t.errs.filter fun e => !(e.1 == sp && decide (a ≤ e.2 ∧ e.2 < a + bs.length)) }

/-- The lowest of `n` bytes from `lo` of a window that holds an uncorrectable error, of those that `p` names (R192). -/
def Team.badByte (t : Team) (sp : Space) (lo n : Nat) (p : Nat → Bool) : Option Nat :=
  t.errs.foldl (fun r e =>
    if e.1 = sp ∧ lo ≤ e.2 ∧ e.2 < lo + n ∧ p e.2 then some (min e.2 (r.getD e.2)) else r) none

def State.badByte (s : State) (team : Nat) (sp : Space) (lo n : Nat) (p : Nat → Bool) : Option Nat :=
  (s.team? team).bind fun t => t.badByte sp lo n p

/-- Size and bytes of the focused group's window; a group without a team has none. -/
def State.windowSize (s : State) (sp : Space) : Nat := ((s.team? s.g.team).map (·.size sp)).getD 0
def State.windowMem (s : State) (sp : Space) : Mem := ((s.team? s.g.team).map (·.window sp)).getD []

/-- CheckAtIssue for typed stores: cause 0x06, then 0x07 with the store and the first byte beyond the window. -/
def State.checkTyped (s : State) (sp : Space) (w : Nat) (scalar : Bool) (es : List LaneAcc) : Option TrapReq :=
  let size := s.windowSize sp
  (s.g.checkEach 6 scalar es (fun e => e.addr % w != 0) fun e => BitVec.ofNat 64 e.addr).or
    (s.g.checkEach 7 scalar es (fun e => decide (size < e.addr + w)) fun e =>
      BitVec.ofNat 64 (max size e.addr) ||| (storeCode sp <<< 32))

def State.checkAccess (s : State) (sp : Space) (w : Nat) (scalar : Bool) (es : List LaneAcc) : Option TrapReq :=
  if sp = .glob then s.g.checkGlobal w scalar es else s.checkTyped sp w scalar es

/-! ### Entering the log and the FIFO -/

/-- 32 entries stand in the FIFO (R378). -/
def Group.fifoFull (g : Group) : Bool := decide (32 ≤ g.fifo.length)

/-- A CFLUSH in force holds back classes 5, 6 and 7 (R228). -/
def Group.flushing (g : Group) : Bool := g.cflush.isSome

/-- A new outstanding result (R18, R376). -/
def Group.pushLog (g : Group) (p : Pend) : Group := { g with log := g.log ++ [p], seq := g.seq + 1 }

/-- A new entry of the store FIFO (R200, R378). -/
def Group.pushFifo (g : Group) (e : FifoEntry) : Group := { g with fifo := g.fifo ++ [e], seq := g.seq + 1, stores := g.stores + 1 }

/-- The lanes of a list of elements. -/
def lanesMask (es : List LaneAcc) : LaneMask := maskOf fun i => es.any fun e => e.lane == i

/-! ### Fences (R204, R227) -/

/-- Every element of the result has its value, or the result needs none. -/
def Pend.performed (p : Pend) : Bool := p.lanes.all fun a => a.val.isSome

/-- Every load, atomic or table access before a position has its value (R197). -/
def Group.readsBefore (g : Group) (seq : Nat) : Bool := g.log.all fun p => decide (seq ≤ p.seq) || p.performed

/-- Every store and atomic before a position has left the FIFO. -/
def Group.storesBefore (g : Group) (seq : Nat) : Bool := g.fifo.all fun e => decide (seq ≤ e.seq)

/-- The core has no store on its way to L2. -/
def State.pathClear (s : State) : Bool := (s.core s.g.coreRef).path.isEmpty

/-- The focused group as a party of a scope (R198). A team without a cluster shape is a cluster of one. -/
def State.party (s : State) : Party :=
  ⟨s.g.die, s.g.core, ((s.team? s.g.team).map Team.rootTeam).getD s.g.team⟩

/-- A release with which an acquire of the focused group at a scope synchronises stands in L2 ahead of stores that it
publishes: each party lies in the other's instance of the scope that it used (R199, R203). -/
def State.aheadOf (s : State) (sco : Scope) (p : Ahead → Bool) : Bool :=
  s.ahead.any fun x => p x && x.sco.covers x.by' s.party && sco.covers s.party x.by'

/-- What a fence waits for has happened. -/
def State.fenceMet (s : State) (f : Fence) : Bool :=
  s.g.readsBefore f.seq && (!(f.acq && f.sco.wide) || !s.aheadOf f.sco fun _ => true)
    && (!f.rel || (s.g.storesBefore f.seq && (!f.sco.wide || s.pathClear)))

/-- Fences before a position, oldest first: those met are taken out, an acquire at .clu or wider dropping L1 (R203);
none when one that holds the access back is not met. -/
def State.passFences (s : State) (seq : Nat) (store : Bool) : List Fence → Option State
  | [] => some { s with g := { s.g with fences := [] } }
  | f :: fs =>
    if seq ≤ f.seq then some { s with g := { s.g with fences := f :: fs } }
    else if s.fenceMet f then
      (if f.acq && f.sco.wide then s.dropL1 s.g.coreRef else s).passFences seq store fs
    else if store || f.acq then none
    else (s.passFences seq store fs).map fun t => { t with g := { t.g with fences := f :: t.g.fences } }

/-- The group of a place has met every fence before a position that holds a store back: what it did and observed before them
is released with what follows (R202, R204). A command, a SPAWN and a barrier arrival wait for that (R208, R210). -/
def State.fencesMet (s : State) (r : GroupRef) (seq : Nat) : Bool :=
  match s.focus r with
  | none => true
  | some t => (t.passFences seq true t.g.fences).isSome

/-- Such a group passes its fences (R203). -/
def State.meetFences (s : State) (r : GroupRef) (seq : Nat) : State :=
  s.atGroup r fun t => (t.passFences seq true t.g.fences).getD t

/-! ### Faults found when an access is performed (R234, R374) -/

/-- Cause of a status of R237. -/
def faultCode (status : Byte) : Byte :=
  match status.toNat with
  | 3 => 0x0B
  | 4 => 0x0C
  | 5 => 0x0D
  | _ => 0x0E

/-- Access address of R372. -/
def accessInfo (scalar : Bool) (i : Lane) (va : Nat) : Word64 := laneCode scalar i ++ BitVec.ofNat 56 va

/-- Access kind of a FIFO entry (R372). -/
def FifoEntry.accessKind (e : FifoEntry) : Byte :=
  match e.kind with
  | .store => if e.scalar then 2 else 5
  | .atomic _ => if e.scalar then 3 else 6
  | .qput _ _ _ => 8

/-- Access kind of an outstanding result (R372). -/
def Pend.accessKind (p : Pend) : Byte :=
  match p.kind with
  | .load _ true => 7
  | .seal _ _ _ => 9
  | .atomic => if p.scalar then 3 else 6
  | .qput => 8
  | _ => if p.scalar then 1 else 4

/-- A fault of a read waits for the next run boundary; one of a group that has exited is discarded (R374). -/
def State.deferRead (s : State) (d : Deferred) : State :=
  if s.g.run = .exiting then s else { s with g := { s.g with deferred := s.g.deferred ++ [d] } }

/-- A fault of a store, an atomic or a QPUT: the later entries of the FIFO are discarded with their results, and the
fault waits for the next run boundary, or aborts the launch of a group that has exited (R234, R374). A lane of an
instruction whose fault has been taken is not reported (notes/assumptions/99). -/
def State.deferWrite (s : State) (d : Deferred) : State :=
  if s.g.fifo.any fun e => e.seq == d.seq && e.told then s
  else if s.g.run = .exiting then
    s.abortLaunch s.g.launch { s.report 5 d.code d.sub d.info 0 0 with }
  else
    let gone (q : Nat) := decide (d.seq < q) && s.g.fifo.any fun e => e.seq == q
    { s with g := { s.g with
        fifo := s.g.fifo.filter fun e => decide (e.seq ≤ d.seq)
        log := s.g.log.filter fun p => !(gone p.seq)
        deferred := s.g.deferred ++ [d] } }

/-! ### Performing loads (R13, R200, R377) -/

def LaneAcc.overlaps (a : LaneAcc) (addr n w : Nat) : Bool := decide (a.addr < addr + n ∧ addr < a.addr + w)

/-- The byte that the group's own store queue holds for an address: its latest store before position `seq` (R13). -/
def fifoByte (sp : Space) (seq va : Nat) (fifo : List FifoEntry) : Option Byte :=
  fifo.foldl (fun r e =>
    if e.sp = sp ∧ e.seq < seq ∧ e.kind = .store then
      e.lanes.foldl (fun r a => if a.overlaps va 1 e.width then some (BitVec.ofNat 8 (bitsOf a.data.toNat (8 * (va - a.addr)) 8))
        else r) r
    else r) none

/-- An earlier atomic or append of the focused group may still write some of these bytes (R13, R226, R255). -/
def State.atomicAhead (s : State) (sp : Space) (seq va n : Nat) : Bool :=
  s.g.fifo.any fun e => decide (e.seq < seq) &&
    match e.kind with
    | .atomic _ => e.sp == sp && e.lanes.any fun a => a.overlaps va n e.width
    | .qput ch _ idx => sp == .glob && s.appendTouches s.g.die s.g.ctx ch idx va n
    | .store => false

/-- An earlier atomic that acquires has not been performed, whether or not it returns a value (R203, R226). -/
def Group.acquireAhead (g : Group) (seq : Nat) : Bool := g.fifo.any fun e => decide (e.seq < seq) && e.ord.acquires

/-- Bytes of memory with the group's own earlier stores over them. -/
def Group.forward (g : Group) (sp : Space) (seq va : Nat) : List Byte → List Byte
  | [] => []
  | b :: bs => (fifoByte sp seq va g.fifo).getD b :: g.forward sp seq (va + 1) bs

/-- What one element of a load comes to. -/
inductive ReadStep where
  | done (bytes : List Byte) (s : State)
  /-- It waits for an earlier atomic, for stores under way, or for an engine (R226, R203, R250). -/
  | held
  | bad (status : Byte) (s : State)

/-- Read bytes of one line for a load (R203, R216, R222); LDRO reads the read-only partition as it stands (R209). A load that
does not read L1 returns a write that has reached L2 (R201), and waits for those of its core that are on their way there
(R200). -/
def State.readGlobal (s : State) (p : Pend) (ro : Bool) (va pa : Nat) : ReadStep :=
  let c := s.g.coreRef
  let w := p.ty.bytes
  let l := lineOf pa
  if s.poisoned pa w then .bad 7 s
  else if ro then
    let va := (s.g.ctx, va / 128)
    match findLine (s.core c).ro l with
    | some x =>
      let y := if x.vas.contains va then x else { x with vas := va :: x.vas }
      .done (x.data.bytes pa w) (s.modCore c fun k => { k with ro := putLine 256 k.ro y })
    | none =>
      let x : CacheLine := ⟨l, s.mem.slice (l * 128) 128, [va]⟩
      .done (x.data.bytes pa w) (s.modCore c fun k => { k with ro := putLine 256 k.ro x })
  else if p.ord.acquires && p.sco.wide then
    if ((s.core c).path.any fun e => e.touches pa w) || s.aheadOf p.sco (fun x => x.touches pa w) then .held
    else .done (s.mem.bytes pa w) (s.dropL1 c)
  else if p.cp = .ca then
    match findLine (s.core c).l1 l with
    | some x => .done (x.data.bytes pa w) s
    | none => .done ((s.lineFor c l).data.bytes pa w) (s.fillL1 c l true)
  else if (s.core c).path.any fun e => e.touches pa w then .held
  else .done (s.mem.bytes pa w) (s.fillL1 c l false)

/-- A hold of an engine stands against an access of the focused group: the access comes after the command in the
order of R250 and R251. -/
def Hold.against (h : Hold) (g : Group) (sp : Space) (seq lo n : Nat) (write : Bool) : Bool :=
  h.team == g.team && h.sp == sp && (write || h.write) && decide (h.lo < lo + n ∧ lo < h.lo + h.len)
    && !h.marks.any fun m => m.1 == g.slot && decide (seq < m.2)

def State.heldByEngine (s : State) (sp : Space) (seq lo n : Nat) (write : Bool) : Bool :=
  (s.core s.g.coreRef).sb.any fun h => h.against s.g sp seq lo n write

/-- Translation of one element, before it is performed. -/
inductive LaneTrans where
  | ok (pa : Nat)
  | wait
  | bad (status : Byte)
deriving DecidableEq, Repr

/-- Translate the elements of an access one by one (R138). -/
def State.translateAll (s : State) (who : Lane → Requester) (cls : AccClass) (atomic : Bool) :
    List LaneAcc → State × List (LaneAcc × LaneTrans)
  | [] => (s, [])
  | a :: as =>
    match s.translate s.g.coreRef (who a.lane) s.g.ctx a.addr cls atomic with
    | .ok pa t => let r := t.translateAll who cls atomic as; (r.1, (a, .ok pa) :: r.2)
    | .wait t => let r := t.translateAll who cls atomic as; (r.1, (a, .wait) :: r.2)
    | .bad st _ t => let r := t.translateAll who cls atomic as; (r.1, (a, .bad st) :: r.2)

/-- Perform the translated elements of a global load; elements of one page wait together, so that lanes that read the
same byte read it at once (R139). -/
def State.performLanes (s : State) (p : Pend) (ro : Bool) (ts : List (LaneAcc × LaneTrans)) :
    List (LaneAcc × LaneTrans) → State × List LaneAcc
  | [] => (s, [])
  | (a, t) :: rest =>
    let keep (s : State) (a : LaneAcc) := let r := s.performLanes p ro ts rest; (r.1, a :: r.2)
    let fault (s : State) (st : Byte) :=
      (s.deferRead ⟨p.seq, a.lane.val, faultCode st, p.accessKind, accessInfo p.scalar a.lane a.addr, false⟩).performLanes
        p ro ts rest
    match t with
    | .wait => keep s a
    | .bad st => fault s st
    | .ok pa =>
      if ts.any fun x => x.2 == .wait && x.1.addr / 4096 == a.addr / 4096 then keep s a
      else if !ro && s.atomicAhead .glob p.seq a.addr p.ty.bytes then keep s a
      else
        match s.readGlobal p ro a.addr pa with
        | .held => keep s a
        | .bad st t => fault t st
        | .done bs t =>
          let bs := if ro then bs else t.g.forward .glob p.seq a.addr bs
          keep t { a with val := some (extendLoad p.ty (BitVec.ofNat 64 (leNat bs))) }

/-- The lanes whose element is gone leave the destination as it was (R374). -/
def Pend.withLanes (p : Pend) (ls : List LaneAcc) : Pend :=
  let m := lanesMask ls
  { p with lanes := ls, due := p.due &&& m, dueHi := p.dueHi &&& m }

/-- The line of a translated element. -/
def LaneTrans.line : LaneTrans → Option LineNo
  | .ok pa => some (lineOf pa)
  | _ => none

/-- Elements of one line one behind another, the lines in the order of their first elements; `fuel` bounds them. -/
def byLine : Nat → List (LaneAcc × LaneTrans) → List (LaneAcc × LaneTrans)
  | _, [] => []
  | 0, ts => ts
  | n + 1, t :: ts => (t :: ts.filter fun x => x.2.line == t.2.line) ++ byLine n (ts.filter fun x => x.2.line != t.2.line)

/-- Perform what can be performed of a load of global memory. Lanes of one line read it before another line can take its place
in L1, so that lanes that read one byte read one value (R139). -/
def State.performGlobal (s : State) (p : Pend) (ro : Bool) : State × Pend :=
  let todo := p.lanes.filter fun a => a.val.isNone
  let ts := s.translateAll (fun i => .load s.g.ref p.seq i) .read false todo
  let r := ts.1.performLanes p ro ts.2 (byLine 32 ts.2)
  (r.1, p.withLanes ((p.lanes.filter fun a => a.val.isSome) ++ r.2))

/-- The machine check of a group access that reads an erroneous byte of a typed store: XINFO as that of cause 0x07 (R375). -/
def checkByte (seq lane : Nat) (sp : Space) (a : Nat) (ofWrite : Bool) : Deferred :=
  ⟨seq, lane, 0x0F, 6, BitVec.ofNat 64 (a % 2 ^ 32) ||| (storeCode sp <<< 32), ofWrite⟩

/-- The erroneous byte that a group's read of a typed store meets: of those that its own store queue does not hold (R13,
R375). -/
def State.badRead (s : State) (sp : Space) (seq a n : Nat) : Option Nat :=
  s.badByte s.g.team sp a n fun b => (fifoByte sp seq b s.g.fifo).isNone

/-- Perform a load of a typed store, once no engine and no earlier atomic holds its bytes (R220); a lane that reads an
erroneous byte has a machine check (R375). -/
def State.performTyped (s : State) (p : Pend) (sp : Space) : State × Pend :=
  let w := p.ty.bytes
  let free (a : LaneAcc) := !(s.heldByEngine sp p.seq a.addr w false) && !(s.atomicAhead sp p.seq a.addr w)
  if p.lanes.all free then
    let m := s.windowMem sp
    let bad (a : LaneAcc) := s.badRead sp p.seq a.addr w
    let q := { p with lanes := (p.lanes.filter fun a => (bad a).isNone).map fun a =>
      { a with val := some (extendLoad p.ty (BitVec.ofNat 64 (leNat (s.g.forward sp p.seq a.addr (m.bytes a.addr w))))) } }
    if p.lanes.all fun a => (bad a).isNone then (s, q)
    else
      (p.lanes.foldl (fun s a => match bad a with
        | some b => s.deferRead (checkByte p.seq a.lane.val sp b false)
        | none => s) s, q.withLanes q.lanes)
  else (s, p)

/-! ### Seal tables (R187, R230, R231) -/

/-- Both dies' copies of a context's table take a change (R187). -/
def State.modSeals (s : State) (ctx : BitVec 12) (f : List SealEntry → List SealEntry) : State :=
  { s with dies := mapVec (fun d => if d.sealsOf.contains ctx then { d with seals := f d.seals } else d) s.dies }

/-- Write an entry of a seal table. -/
def sealWord (vpn npg : Nat) : Nat := 1 + vpn * 2 ^ 12 + npg * 2 ^ 64

/-- SEAL on the table at a physical address: the lowest free entry, or all ones (R230). -/
def State.doSeal (s : State) (ctx : BitVec 12) (pa vpn npg : Nat) : State × Word64 :=
  match (List.range 256).find? fun i => (readSeal s.mem ctx pa i).isNone with
  | none => (s, BitVec.allOnes 64)
  | some i =>
    ((s.writeL2 ctx (pa + 16 * i) (leBytes 16 (sealWord vpn npg))).modSeals ctx fun es => es ++ [⟨ctx, i, vpn, npg⟩],
      BitVec.ofNat 64 i)

/-- The valid entries of a context's page table, wherever they stand: virtual and physical page, and the number of pages. -/
def State.mappings (s : State) (d : Fin 2) (ctx : BitVec 12) : List (Nat × Nat × Nat) :=
  let c := s.desc d ctx
  let cells := s.mem.slice c.ptbase (128 * 2 ^ c.logb)
  ((cells.map fun x => x.1 / 16 * 16).eraseDups).filterMap fun a =>
    let raw := s.mem.nat a 16
    if bitsOf raw 0 1 = 1 then some (bitsOf raw 84 44, bitsOf raw 24 40, 2 ^ (pageShift (Fin.ofNat 4 (bitsOf raw 82 2)) - 12)) else none

/-- A line of physical memory stands behind a page of a virtual range, by some of these mappings. -/
def behind (ms : List (Nat × Nat × Nat)) (vpn npg : Nat) (l : LineNo) : Bool :=
  ms.any fun m => decide (m.2.1 ≤ l / 32 ∧ l / 32 < m.2.1 + m.2.2) &&
    decide (vpn ≤ m.1 + (l / 32 - m.2.1) ∧ m.1 + (l / 32 - m.2.1) < vpn + npg)

/-- UNSEAL: the lowest valid entry that matches, cleared; every read-only copy of a line of its range is dropped, under whatever
address it was read (R183, R231). -/
def State.doUnseal (s : State) (ctx : BitVec 12) (pa vpn npg : Nat) : State × Word64 :=
  match (List.range 256).find? fun i => readSeal s.mem ctx pa i == some ⟨ctx, i, vpn, npg⟩ with
  | none => (s, BitVec.allOnes 64)
  | some i =>
    let t := (s.writeL2 ctx (pa + 16 * i) (leBytes 16 0)).modSeals ctx fun es =>
      es.filter fun e => !(e.ctx == ctx && e.idx == i)
    let ms := s.mappings s.g.die ctx
    let inRange (x : CacheLine) := (x.vas.any fun v => v.1 == ctx && decide (vpn ≤ v.2 / 32 ∧ v.2 / 32 < vpn + npg))
      || behind ms vpn npg x.line
    ({ t with cores := mapVec (mapVec fun k => { k with ro := k.ro.filter fun x => !inRange x }) t.cores },
      BitVec.ofNat 64 i)

/-- No store of a context is still on its way to L2, on any core. -/
def State.ctxPathClear (s : State) (ctx : BitVec 12) : Bool :=
  s.cores.all fun d => d.all fun k => k.path.all fun e => e.ctx != ctx

/-- L1 lines of a page: what the group reads and writes of its seal table at L2 is no older afterwards (R196). -/
def State.dropL1Page (s : State) (c : CoreRef) (l : LineNo) : State :=
  s.modCore c fun k => { k with l1 := k.l1.filter fun x => x.line / 32 != l / 32 }

/-- Perform a SEAL or UNSEAL once everything before it is performed (R230, R231). -/
def State.performSeal (s : State) (p : Pend) (clear : Bool) (vpn npg : Nat) : State × Pend :=
  let g := s.g
  let ready := (g.log.all fun q => decide (p.seq ≤ q.seq) || q.performed) && g.storesBefore p.seq && s.ctxPathClear g.ctx
  if !ready || p.performed then (s, p)
  else
    let d := s.desc g.die g.ctx
    let va := d.seala.toNat
    let fault (s : State) (st : Byte) := (s.deferRead ⟨p.seq, 0, faultCode st, 9, accessInfo true 0 va, false⟩, p.withLanes [])
    match s.translate g.coreRef (.seal g.ref p.seq) g.ctx va .write true with
    | .wait t => (t, p)
    | .bad st _ t => fault t st
    | .ok pa s =>
      if s.poisoned pa 4096 then fault s 7
      else
        let r := if clear then s.doUnseal g.ctx pa vpn npg else s.doSeal g.ctx pa vpn npg
        (r.1.dropL1Page g.coreRef (lineOf pa), { p with lanes := p.lanes.map fun a => { a with val := some r.2 } })

end Sys2Proof.Machine
end

