-- ==== Sys2Proof/Machine/Command.lean ====
section
/-! DEFINITION. Handles and the life of an engine command: issue, binding, ending, batches and cancellation (R236 to
R242, R248 to R251). -/

namespace Sys2Proof.Machine

/-! ### Handle words (R236) -/

def HState.code : HState → BitVec 2
  | .empty => 0 | .pending => 1 | .complete => 2

def Eng.code : Eng → BitVec 4
  | .none => 0 | .copy => 1 | .batch => 2 | .matrix => 3 | .epilogue => 4 | .lantern => 5

/-- The 64-bit handle word. -/
def Handle.word (h : Handle) : Word64 :=
  0#8 ++ h.state.code ++ 0#2 ++ h.eng.code ++ h.status ++ 0#8 ++ h.tag

/-- What a pending handle tracks (R238). -/
def Handle.tracks (h : Handle) : Option Tracked :=
  if h.state = .pending then some ⟨h.eng == .batch, h.tag⟩ else none

def Group.handle (g : Group) (n : Fin 16) : Handle := g.h.get n
def Group.setHandle (g : Group) (n : Fin 16) (x : Handle) : Group :=
  { g.clean (.h n) with h := g.h.set n x }

/-! ### Waking a waiting group (R113) -/

/-- The focused group's wait is over: it is Ready at the next word. -/
def State.wake (s : State) : State :=
  match s.g.run with
  | .waiting c _ => { s with g := { s.g with run := .ready } }.advance c
  | _ => s

/-- WAITH ends: the handle word is written, and a complete handle makes the group observe the command's writes: the
lines that L1 might hold from before them are dropped (R211, R265; notes/assumptions/15). -/
def State.endWaitH (s : State) (h : Fin 16) (d : Option (Fin 64)) : State :=
  let x := s.g.handle h
  let s := if x.state = .complete then s.dropL1 s.g.coreRef else s
  match d with
  | some n => { s with g := s.g.writeS n x.word }
  | none => s

/-- The focused group waits on a handle that is no longer pending. -/
def State.wakeHandle (s : State) : State :=
  match s.g.run with
  | .waiting _ (.handle h d) => if (s.g.handle h).state = .pending then s else (s.endWaitH h d).wake
  | _ => s

/-- Every group of a core whose handle wait is over wakes (R265). -/
def State.wakeHandles (s : State) (c : CoreRef) : State :=
  let refs := (s.groups.filter fun g => g.coreRef == c && g.active).map Group.ref
  refs.foldl (fun s r => s.atGroup r State.wakeHandle) s

/-! ### The end of a command (R238 to R240, R248) -/

/-- Every handle of the core that tracks the command or batch becomes complete with its status (R238). -/
def State.completeHandles (s : State) (c : CoreRef) (t : Tracked) (st : Byte) : State :=
  let fix (h : Handle) : Handle := if h.tracks = some t then { h with state := .complete, status := st } else h
  s.mapGroups fun g => if g.coreRef = c then { g with h := mapVec fix g.h } else g

/-- The commands that wait for `t`: freed when it ended well, else to end with status 2 (R240). -/
def Core.resolve (k : Core) (t : Tracked) (st : Byte) : Core × List Word :=
  if st = 0 then ({ k with cmds := k.cmds.map fun x => if x.pred = some t then { x with pred := none } else x }, [])
  else (k, (k.cmds.filter fun x => x.pred == some t).map Cmd.tag)

/-- Members of batches end (R248). -/
def Core.batchEnd (k : Core) (tag : Word) (st : Byte) : Core :=
  { k with batches := k.batches.map fun b =>
      if b.members.contains tag then
        { b with members := b.members.filter (· != tag), status := if b.status = 0 then st else b.status }
      else b }

/-- Closed batches whose members have all ended. -/
def Core.doneBatches (k : Core) : List Batch := k.batches.filter fun b => b.closed && b.members.isEmpty

/-- Take a command out of its engine with its scoreboard entries (R249). -/
def Core.dropCmd (k : Core) (tag : Word) : Core :=
  { k with cmds := k.cmds.filter (·.tag != tag), sb := k.sb.filter (·.tag != tag),
           mx := { k.mx with halted := k.mx.halted.filter (·.tag != tag) } }

/-- The requesters of a command (R389). -/
def Requester.ofCmd (c : CoreRef) (tag : Word) : Requester → Bool
  | .command x t _ => x == c && t == tag
  | _ => false

/-- Commands and batches end one after another: a failure ends the dependants with status 2 (R240). -/
def State.endAll (s : State) (c : CoreRef) : Nat → List (Tracked × Byte) → State
  | 0, _ => s
  | _, [] => s
  | n + 1, (t, st) :: rest =>
    let s := s.completeHandles c t st
    let s := if t.batch then s else (s.modCore c fun k => (k.dropCmd t.tag).batchEnd t.tag st).dropRequests
      (Requester.ofCmd c t.tag)
    let r := (s.core c).resolve t st
    let done := r.1.doneBatches
    let s := s.setCore c { r.1 with batches := r.1.batches.filter fun b => !(b.closed && b.members.isEmpty) }
    s.endAll c n (rest ++ (done.map fun b => (⟨true, b.tag⟩, b.status)) ++ r.2.map fun g => (⟨false, g⟩, 2))

/-- A command ends with a status (R237 to R240). -/
def State.endCmd (s : State) (c : CoreRef) (tag : Word) (st : Byte) : State :=
  let k := s.core c
  (s.endAll c (2 * (k.cmds.length + k.batches.length) + 2) [(⟨false, tag⟩, st)]).wakeHandles c

/-- Batches that have nothing left to wait for complete (R248). -/
def State.endBatches (s : State) (c : CoreRef) : State :=
  let k := s.core c
  let done := k.doneBatches
  let s := s.setCore c { k with batches := k.batches.filter fun b => !(b.closed && b.members.isEmpty) }
  (s.endAll c (2 * (k.cmds.length + k.batches.length) + 2) (done.map fun b => (⟨true, b.tag⟩, b.status))).wakeHandles c

def State.cmd? (s : State) (c : CoreRef) (tag : Word) : Option Cmd := (s.core c).cmds.find? (·.tag == tag)

def State.modCmd (s : State) (c : CoreRef) (tag : Word) (f : Cmd → Cmd) : State :=
  s.modCore c fun k => { k with cmds := k.cmds.map fun x => if x.tag == tag then f x else x }

/-- Every lane of a command has ended or suspended. -/
def Core.lanesOver (k : Core) (tag : Word) : Bool :=
  k.rays.all fun y => y.tag != tag || (y.begun && y.state != .running && y.state != .switched)

/-- CANH reaches a command: one that has not started ends at once (R241); to a traversal whose lanes are all over it comes too
late (R364). -/
def State.cancelCmd (s : State) (c : CoreRef) (tag : Word) : State :=
  match s.cmd? c tag with
  | none => s
  | some x =>
    if x.phase ≠ .started then s.endCmd c tag 1
    else if x.eng = .lantern ∧ (s.core c).lanesOver tag then s
    else s.modCmd c tag fun x => { x with cancel := true }

def State.cancel (s : State) (c : CoreRef) (t : Tracked) : State :=
  if t.batch then
    match (s.core c).batches.find? (·.tag == t.tag) with
    | some b => b.members.foldl (fun s tag => s.cancelCmd c tag) s
    | none => s
  else s.cancelCmd c t.tag

/-! ### Issue (R240, R242, R249, R262) -/

/-- What a start condition binds to at issue (R240). -/
inductive Binding where
  | free
  | wait (t : Tracked)
  | failed
deriving DecidableEq, Repr

def Group.bindTo (g : Group) (sh : Option (Fin 16)) : Binding :=
  match sh with
  | none => .free
  | some n =>
    let h := g.handle n
    match h.state with
    | .empty => .free
    | .pending => .wait ⟨h.eng == .batch, h.tag⟩
    | .complete => if h.status = 0 then .free else .failed

/-- A range that a command may touch. -/
structure Range where
  sp    : Space
  lo    : Nat
  len   : Nat
  write : Bool
deriving DecidableEq, Repr

/-- Positions of the groups of a team at this moment (R251). -/
def State.teamMarks (s : State) : List (Fin 32 × Nat) :=
  (s.groups.filter fun g => g.team == s.g.team && g.active).map fun g => (g.slot, g.seq)

/-- What a word gives for a command. -/
structure CmdReq where
  c     : Ctl
  eng   : Eng
  instr : Instr
  ext   : List Word64
  cap   : List Word
  d     : Option (Fin 16)
  sh    : Option (Fin 16)
  holds : List Range
  /-- Most commands of the engine that the core holds (R242, R290). -/
  limit : Option Nat

/-- The open batch of a group (R248). -/
def State.openBatch (s : State) : Option Batch :=
  (s.core s.g.coreRef).batches.find? fun b => b.g == s.g.ref && !b.closed

/-- Join the open batch, opening one (R248). -/
def Core.joinBatch (k : Core) (g : GroupRef) (tag : Word) : Core :=
  if k.batches.any fun b => b.g == g && !b.closed then
    { k with batches := k.batches.map fun b =>
        if b.g = g ∧ b.closed = false then { b with members := b.members ++ [tag], count := b.count + 1 } else b }
  else { k with batches := k.batches ++ [⟨tag, g, [tag], 1, 0, false⟩] }

/-- A command may be made: no CFLUSH holds it back, its engine has room, and the scoreboard has room for its entries
(R228, R242). -/
def State.cmdRoom (s : State) (r : CmdReq) : Bool :=
  let k := s.core s.g.coreRef
  !s.g.flushing && decide (k.sb.length + r.holds.length ≤ 32)
    && match r.limit with
       | some n => decide ((k.cmds.filter (·.eng == r.eng)).length < n)
       | none => true

/-- Make a command: the binding first, then its tag, its entries, and its batch or handle (R262). -/
def State.issueCmd (s : State) (r : CmdReq) : State :=
  if !s.cmdRoom r then s
  else
    let g := s.g
    let c := g.coreRef
    let k := s.core c
    let tag := k.tag
    let marks := s.teamMarks
    let bind := g.bindTo r.sh
    let x : Cmd := { tag, g := g.ref, launch := g.launch, team := g.team, ctx := g.ctx, eng := r.eng, instr := r.instr,
                     ext := r.ext, fmt := g.fmt.get 0,
                     pred := match bind with
                       | .wait t => some t
                       | _ => none
                     seq := g.seq, marks, cap := r.cap, phase := .waiting, cancel := false, recs := [], done := [] }
    let holds : List Hold := r.holds.map fun a => ⟨marks, tag, g.team, a.sp, a.lo, a.len, a.write⟩
    let k := { k with tag := tag + 1, cmds := k.cmds ++ [x], sb := k.sb ++ holds }
    let k := if r.d.isNone then k.joinBatch g.ref tag else k
    let g := match r.d with
      | some n => g.setHandle n ⟨.pending, r.eng, 0, tag, false⟩
      | none => g
    let s := { s.setCore c k with g := { g with seq := g.seq + 1 } }
    let s := if bind = .failed then s.endCmd c tag 2 else s
    s.advance r.c

/-! ### What a command waits for before it reads (R210, R251, R258) -/

/-- Typed-store accesses of a group before a position have been performed. -/
def Group.typedBefore (g : Group) (seq : Nat) : Bool :=
  (g.fifo.all fun e => decide (seq ≤ e.seq) || e.sp == .glob)
    && g.log.all fun p => decide (seq ≤ p.seq) || p.performed ||
      match p.kind with
      | .load sp _ => sp == .glob
      | _ => true

/-- Every read of the issuing group before the command has its value and every store has reached L2, and every typed-store
access of its team before it has been performed (R210, R251). -/
def State.settledBefore (s : State) (c : CoreRef) (x : Cmd) : Bool :=
  (s.groups.all fun g =>
    !(g.coreRef == c && g.active && g.team == x.team) ||
      ((x.marks.all fun m => m.1 != g.slot || g.typedBefore m.2) && (g.ref != x.g || (g.readsBefore x.seq && g.storesBefore x.seq))))
    && s.fencesMet x.g x.seq && (s.core c).path.isEmpty

/-- A command whose start condition holds and that may read (R240, R258). -/
def State.cmdReady (s : State) (c : CoreRef) (x : Cmd) : Bool :=
  x.phase != .started && x.pred.isNone && !s.preempting x.launch && s.settledBefore c x

/-- The command is the first of its engine, in issue order, that waits with its start condition met (R247, R290). -/
def Core.isNext (k : Core) (eng : Eng) (tag : Word) : Bool :=
  match k.cmds.find? fun x => x.eng == eng && x.phase != .started && x.pred.isNone with
  | some x => x.tag == tag
  | none => false

end Sys2Proof.Machine
end

