-- ==== Sys2Proof/Machine/Memory.lean ====
section
/-! DEFINITION. Class 5: loads, stores, atomics, fences, cache maintenance and seals as a group issues them (R136 to
R139, R214 to R233). What is issued here is performed by the steps of MemEv. -/

namespace Sys2Proof.Machine

/-! ### Issue of loads, stores and atomics -/

/-- What an access fixes at issue. -/
structure Access where
  instr  : Instr
  c      : Ctl
  sp     : Space
  ty     : Ty
  sco    : Scope
  ord    : Ord
  cp     : Cp
  scalar : Bool
  es     : List LaneAcc

/-- Destination of a load or atomic, a pair for 8-byte types (R137). -/
def destOf (ty : Ty) : Operand → Dest
  | .s n => .s n
  | .v n => if ty.bytes = 8 then .vpair n else .v n
  | _ => .none

/-- The log entry of an access. -/
def Group.pendOf (g : Group) (x : Access) (kind : PendKind) (d : Dest) : Pend :=
  let m : LaneMask := if x.scalar then 1 else lanesMask x.es
  { seq := g.seq, fpos := g.stores, instr := x.instr, off := g.planeAddr, kind, ty := x.ty, sco := x.sco, ord := x.ord, cp := x.cp,
    dst := d, due := m, dueHi := m, dueSc := false, scalar := x.scalar, lanes := x.es }

/-- The FIFO entry of an access. -/
def Group.entryOf (g : Group) (x : Access) (kind : FifoKind) (ret : Bool) : FifoEntry :=
  { seq := g.seq, fpos := g.stores, instr := x.instr, sp := x.sp, kind, ty := x.ty, width := x.ty.bytes, sco := x.sco, ord := x.ord, ret,
    scalar := x.scalar, lanes := x.es, sent := false, told := false }

/-- Issue an access: nothing without an executing lane (R42); a stall while a CFLUSH is in force (R228) or a queue is
full (R21, R378); the checks of R233; then its entries. -/
def State.issueAccess (s : State) (x : Access) (full : Group → Bool) (f : Group → Group) : State :=
  if s.g.flushing then s
  else if x.es.isEmpty then s.advance x.c
  else
    match s.checkAccess x.sp x.ty.bytes x.scalar x.es with
    | some t => s.boundary (.trap t)
    | none => if full s.g then s else { s with g := f s.g }.advance x.c

def State.issueLoad (s : State) (x : Access) (ro : Bool) (d : Operand) : State :=
  s.issueAccess x Group.logFull fun g => g.pushLog (g.pendOf x (.load x.sp ro) (destOf x.ty d))

def State.issueStore (s : State) (x : Access) : State :=
  s.issueAccess x Group.fifoFull fun g => g.pushFifo (g.entryOf x .store false)

/-- An atomic takes a FIFO entry, and a log entry too when it returns the old value (R225, R226). -/
def State.issueAtomic (s : State) (x : Access) (op : Aop) (d : Option Operand) : State :=
  s.issueAccess x (fun g => g.fifoFull || (d.isSome && g.logFull)) fun g =>
    let g1 := g.pushFifo (g.entryOf x (.atomic op) d.isSome)
    match d with
    | some o => { g1 with log := g1.log ++ [g.pendOf x .atomic (destOf x.ty o)] }
    | none => g1

/-- An element without data. -/
def elemAt (i : Lane) (addr : Nat) : LaneAcc := ⟨i, addr, 0, 0, none⟩

/-! ### Scalar accesses (R219) -/

def execLds (x : SLoad) (s : State) : Host.Outcome State Fault Refusal :=
  .next (if s.g.flushing then s
  else if x.cond.holds s.g.sc then
    s.issueLoad { instr := .lds x, c := x.c, sp := .glob, ty := x.ty, sco := x.sco, ord := x.ord, cp := x.cp,
                  scalar := true, es := [elemAt 0 (s.g.scalarAddr x.c x.a x.b).toNat] } false (.s x.d)
  else s.advance x.c)

def execSts (x : SStore) (s : State) : Host.Outcome State Fault Refusal :=
  .next (if s.g.flushing then s
  else if x.cond.holds s.g.sc then
    s.issueStore { instr := .sts x, c := x.c, sp := .glob, ty := x.ty, sco := x.sco, ord := x.ord, cp := x.cp,
                   scalar := true,
                   es := [{ elemAt 0 (s.g.scalarAddr x.c x.a x.b).toNat with data := s.g.scalarData x.c x.ty x.data }] }
  else s.advance x.c)

/-! ### Lane accesses (R137, R220 to R222) -/

/-- A load or store of lanes, or in the scalar form of one element (R221). -/
def Group.units (g : Group) (scalar : Bool) (gd : Guard) : List Lane := if scalar then [0] else lanesOf (g.executing gd)

def Group.addrOf (g : Group) (sp : Space) (c : Ctl) (a b : Operand) (i : Lane) : Nat :=
  if sp = .glob then (g.laneAddr c a b i).toNat else (g.typedAddr c a b i).toNat

/-- A load whose scalar form names an S register (R221). -/
def State.laneLoad (s : State) (i : Instr) (sp : Space) (ro : Bool) (x : VLoad) : State :=
  let scalar := !x.d.isV
  s.issueLoad { instr := i, c := x.c, sp, ty := x.ty, sco := x.sco, ord := x.ord, cp := x.cp, scalar,
                es := elements (s.g.units scalar x.g) fun j => elemAt j (s.g.addrOf sp x.c x.a x.b j) } ro x.d

/-- A store; `form` tells that the instruction has a scalar form (R221). -/
def State.laneStore (s : State) (i : Instr) (sp : Space) (form : Bool) (x : VStore) : State :=
  let scalar := form && x.g.isNone && !x.a.isV && !x.b.isV && !x.data.isV
  s.issueStore { instr := i, c := x.c, sp, ty := x.ty, sco := x.sco, ord := x.ord, cp := x.cp, scalar,
                 es := elements (s.g.units scalar x.g) fun j =>
                   { elemAt j (s.g.addrOf sp x.c x.a x.b j) with data := s.g.laneData x.c x.ty x.data j } }

def execLdv (x : VLoad) (s : State) : Host.Outcome State Fault Refusal := .next (s.laneLoad (.ldv x) .glob false x)
def execStv (x : VStore) (s : State) : Host.Outcome State Fault Refusal := .next (s.laneStore (.stv x) .glob false x)
def execLdl (x : VLoad) (s : State) : Host.Outcome State Fault Refusal := .next (s.laneLoad (.ldl x) .l false x)
def execStl (x : VStore) (s : State) : Host.Outcome State Fault Refusal := .next (s.laneStore (.stl x) .l true x)
def execLda (x : VLoad) (s : State) : Host.Outcome State Fault Refusal := .next (s.laneLoad (.lda x) .a false x)
def execSta (x : VStore) (s : State) : Host.Outcome State Fault Refusal := .next (s.laneStore (.sta x) .a false x)
def execLdc (x : VLoad) (s : State) : Host.Outcome State Fault Refusal := .next (s.laneLoad (.ldc x) .c false x)
def execStc (x : VStore) (s : State) : Host.Outcome State Fault Refusal := .next (s.laneStore (.stc x) .c false x)
def execLdro (x : VLoad) (s : State) : Host.Outcome State Fault Refusal := .next (s.laneLoad (.ldro x) .glob true x)

/-! ### Prefetch (R223) -/

/-- The line of a prefetch enters L1 under CP 0 when its address translates without a fault. -/
def State.prefetch (s : State) (va : Nat) (cp : Cp) : State :=
  let g := s.g
  let c := s.core g.coreRef
  let pa? := match tlbHit (c.dtlb ++ c.tlb2) g.ctx va .read false with
    | some pa => some pa
    | none =>
      let d := s.desc g.die g.ctx
      match s.walk d va with
        | .found e => if e.r then some (e.addr va) else none
        | _ => none
  match pa? with
  | some pa =>
    if 2 ^ 56 ≤ va ∨ s.row pa = .nothing ∨ s.poison.contains (lineOf pa) ∨ cp ≠ .ca then s
    else s.fillL1 g.coreRef (lineOf pa) true
  | none => s

def execPrf (x : Prefetch) (s : State) : Host.Outcome State Fault Refusal :=
  .next (if s.g.flushing then s
  else if x.cond.holds s.g.sc then (s.prefetch (s.g.scalarAddr x.c x.a x.b).toNat x.cp).advance x.c
  else s.advance x.c)

/-! ### Atomics (R224 to R226) -/

def execAtoms (x : SAtomic) (s : State) : Host.Outcome State Fault Refusal :=
  .next (if s.g.flushing then s
  else if x.cond.holds s.g.sc then
    s.issueAtomic { instr := .atoms x, c := x.c, sp := .glob, ty := x.ty, sco := x.sco, ord := x.ord, cp := .ca,
                    scalar := true,
                    es := [{ elemAt 0 (s.g.scalarAddr x.c x.a x.b).toNat with
                             data := s.g.scalarData x.c x.ty x.data, cmp := s.g.readS (x.d.getD 0) }] }
      x.aop (x.d.map Operand.s)
  else s.advance x.c)

/-- The compare element of a lane: the destination before it is written (R225). -/
def Group.laneCmp (g : Group) (ty : Ty) (d : Option (Fin 128)) (i : Lane) : Word64 :=
  match d with
  | some n => if ty.bytes = 8 then g.readV64 n i else (g.readV n i).setWidth 64
  | none => 0

def State.laneAtomic (s : State) (i : Instr) (sp : Space) (x : VAtomic) : State :=
  s.issueAtomic { instr := i, c := x.c, sp, ty := x.ty, sco := x.sco, ord := x.ord, cp := .ca, scalar := false,
                  es := elements (s.g.units false x.g) fun j =>
                    { elemAt j (s.g.addrOf sp x.c x.a x.b j) with
                      data := s.g.laneData x.c x.ty x.data j, cmp := s.g.laneCmp x.ty x.d j } }
    x.aop (x.d.map Operand.v)

def execAtomv (x : VAtomic) (s : State) : Host.Outcome State Fault Refusal := .next (s.laneAtomic (.atomv x) .glob x)
def execAtoml (x : VAtomic) (s : State) : Host.Outcome State Fault Refusal := .next (s.laneAtomic (.atoml x) .l x)

/-! ### Fences and cache maintenance (R227 to R229) -/

/-- A fence stands at its place in program order until it is met (R227). -/
def Group.fence (g : Group) (sco : Scope) (ord : Ord) : Group :=
  { g with fences := g.fences ++ [⟨g.seq, sco, ord.acquires, ord.releases⟩], seq := g.seq + 1 }

/-- A class-5 instruction without an access: it stalls while a CFLUSH is in force (R228). -/
def State.maintain (s : State) (c : Ctl) (cond : Cond) (f : State → State) : State :=
  if s.g.flushing then s else if cond.holds s.g.sc then (f s).advance c else s.advance c

def execFence (x : FenceArgs) (s : State) : Host.Outcome State Fault Refusal :=
  .next (s.maintain x.c x.cond fun s => { s with g := s.g.fence x.sco x.ord })

def execCflush (x : FlushArgs) (s : State) : Host.Outcome State Fault Refusal :=
  .next (s.maintain x.c x.cond fun s => { s with g := { s.g with cflush := some (s.g.seq, x.sco), seq := s.g.seq + 1 } })

/-- CINV is performed after every earlier load has its value: it stalls until then
(R229). It drops the lines of one partition, or of both, of its own core's L1 (R186). -/
def execCinv (x : InvArgs) (s : State) : Host.Outcome State Fault Refusal :=
  .next (if x.cond.holds s.g.sc && !s.g.readsBefore s.g.seq then s
  else s.maintain x.c x.cond fun s => s.modCore s.g.coreRef fun k =>
    match x.sel with
    | .gen => { k with l1 := [] }
    | .ro => { k with ro := [] }
    | .all => { k with l1 := [], ro := [] })

/-! ### Seals (R230, R231) -/

/-- The checks of R230 on base and count. -/
def sealOk (base n : Word64) : Bool :=
  base.extractLsb' 0 12 == 0#12 && base.extractLsb' 56 8 == 0#8 && n != 0 && decide (n.toNat < 2 ^ 32)
    && decide (base.toNat + 4096 * n.toNat ≤ 2 ^ 56)

/-- Issue a SEAL or UNSEAL: the fence it begins with, then its result outstanding. -/
def State.sealIssue (s : State) (i : Instr) (x : SealArgs) (clear : Bool) : State :=
  if s.g.flushing then s
  else if x.cond.holds s.g.sc then
      let base := s.g.src x.c .n64 x.a
      let n := s.g.src x.c .n64 x.b
      if !sealOk base n then s.boundary (.trap (s.g.illegal 10 i))
      else if s.g.logFull then s
      else
        let g := s.g.fence .dev .acqrel
        { s with g := g.pushLog { seq := g.seq, fpos := g.stores, instr := i, off := g.planeAddr,
                                  kind := .seal clear (base.toNat / 4096) n.toNat, ty := .n64, sco := .dev,
                                  ord := .acqrel, cp := .ca, dst := .s x.d, due := 1, dueHi := 0, dueSc := false,
                                  scalar := true, lanes := [elemAt 0 0] } }.advance x.c
  else s.advance x.c

def execSealPages (x : SealArgs) (s : State) : Host.Outcome State Fault Refusal := .next (s.sealIssue (.sealPages x) x false)
def execUnseal (x : SealArgs) (s : State) : Host.Outcome State Fault Refusal := .next (s.sealIssue (.unseal x) x true)

end Sys2Proof.Machine
end

