-- ==== Sys2Proof/Machine/Handles.lean ====
section
/-! DEFINITION. Class 7, part one: COPY, BSEAL and the handle instructions, and QPUT, QGET and WAITV (R259 to R271). -/

namespace Sys2Proof.Machine

/-- The typed store of a store code (R260). -/
def spaceOf : Store → Space
  | .l => .l
  | .a => .a
  | .w => .w
  | .c => .c

/-! ### COPY (R260 to R263) -/

/-- A store offset or length: an S register's low 32 bits, or an inline integer (R260). -/
def Group.off32 (g : Group) (c : Ctl) (o : Operand) : Nat := (g.src32 c o).toNat

/-- The open batch already has 32 members (R242, R261). -/
def State.batchFull (s : State) : Bool :=
  match s.openBatch with
  | some b => decide (32 ≤ b.count)
  | none => false

/-- Layout and box addresses as R261 wants them. -/
def copyAddrsOk (la ba : Word64) : Bool :=
  la.toNat % 64 == 0 && ba.toNat % 32 == 0 && decide (la.toNat < 2 ^ 56) && decide (ba.toNat < 2 ^ 56)

/-- COPY.IN and COPY.OUT: one entry from the offset to the window's end (R263). -/
def State.copyMem (s : State) (i : Instr) (x : CopyArgs) (write : Bool) : State :=
  if s.g.flushing then s
  else if x.cond.holds s.g.sc then
    let la := s.g.readS x.la
    let ba := s.g.readS x.ba
    let off := s.g.off32 x.c x.off
    let sp := spaceOf x.st
    if !copyAddrsOk la ba || (x.d.isNone && s.batchFull) then s.boundary (.trap (s.g.illegal 10 i))
    else
      s.issueCmd { c := x.c, eng := .copy, instr := i, ext := [la, ba, BitVec.ofNat 64 off], cap := [], d := x.d,
                   sh := x.sh, holds := [⟨sp, off, s.windowSize sp - off, write⟩], limit := some 32 }
  else s.advance x.c

def execCopyIn (x : CopyArgs) (s : State) : Host.Outcome State Fault Refusal := .next (s.copyMem (.copyIn x) x true)
def execCopyOut (x : CopyArgs) (s : State) : Host.Outcome State Fault Refusal := .next (s.copyMem (.copyOut x) x false)

/-- COPY.XS: offsets and length in multiples of 32, at least 32, and no overlap within one store (R261). -/
def execCopyXs (x : CopyXsArgs) (s : State) : Host.Outcome State Fault Refusal :=
  .next (if s.g.flushing then s
  else if x.cond.holds s.g.sc then
    let so := s.g.off32 x.c x.so
    let n := s.g.off32 x.c x.bytes
    let d := s.g.off32 x.c x.doff
    let bad := so % 32 != 0 || n % 32 != 0 || d % 32 != 0 || decide (n < 32)
      || (x.src == x.dst && decide (so < d + n ∧ d < so + n)) || (x.d.isNone && s.batchFull)
    if bad then s.boundary (.trap (s.g.illegal 10 (.copyXs x)))
    else
      s.issueCmd { c := x.c, eng := .copy, instr := .copyXs x,
                   ext := [BitVec.ofNat 64 so, BitVec.ofNat 64 n, BitVec.ofNat 64 d], cap := [], d := x.d, sh := x.sh,
                   holds := [⟨spaceOf x.src, so, n, false⟩, ⟨spaceOf x.dst, d, n, true⟩], limit := some 32 }
  else s.advance x.c)

/-! ### Handles (R264 to R268) -/

/-- A class-7 instruction that ends at issue: it stalls while a CFLUSH is in force (R228). -/
def State.atOnce (s : State) (c : Ctl) (cond : Cond) (f : State → State) : State :=
  if s.g.flushing then s else if cond.holds s.g.sc then (f s).advance c else s.advance c

/-- BSEAL closes the open batch; without one the handle is complete at once (R264). The tag of a batch is that of its
first member (notes/assumptions/14). -/
def execBseal (x : HandleArgs) (s : State) : Host.Outcome State Fault Refusal :=
  .next (s.atOnce x.c x.cond fun s =>
    let c := s.g.coreRef
    match s.openBatch with
    | none =>
      { s with g := s.g.setHandle x.h ⟨.complete, .batch, 0, Config.emptyBatchTag (s.core c).tag, false⟩ }
    | some b =>
      let s := { s with g := s.g.setHandle x.h ⟨.pending, .batch, 0, b.tag, false⟩ }
      (s.modCore c fun k => { k with batches := k.batches.map fun y =>
        if y.g = s.g.ref ∧ y.closed = false then { y with closed := true } else y }).endBatches c)

/-- WAITH: the park, then the wait while the handle is pending (R265). -/
def execWaith (x : WaitHArgs) (s : State) : Host.Outcome State Fault Refusal :=
  .next (if s.g.flushing then s
  else if x.cond.holds s.g.sc then
    if s.g.unsettled then s.boundary .wait
    else if (s.g.handle x.h).state = .pending then
      s.beginWait x.c (.handle x.h x.d)
    else (s.endWaitH x.h x.d).advance x.c
  else s.advance x.c)

/-- SC of TESTH.SC (R266). -/
def handleFlags (h : Handle) : BitVec 4 :=
  mkSc (h.state == .complete && h.status != 0) (h.state == .pending) (h.state == .complete) false

/-- TESTH reads the handle word as it stands; a complete one makes the group observe the command's writes (R266,
R211). -/
def execTesth (x : TestHArgs) (s : State) : Host.Outcome State Fault Refusal :=
  .next (s.atOnce x.c x.cond fun s =>
    let h := s.g.handle x.h
    let s := if h.state = .complete then s.dropL1 s.g.coreRef else s
    let g := s.g.writeS x.d h.word
    { s with g := if x.fs then g.writeSc (handleFlags h) else g })

/-- CANH (R241, R267). -/
def execCanh (x : HandleArgs) (s : State) : Host.Outcome State Fault Refusal :=
  .next (s.atOnce x.c x.cond fun s =>
    match (s.g.handle x.h).tracks with
    | some t => s.cancel s.g.coreRef t
    | none => s)

/-- MOVH copies a handle, or empties one (R238, R268). -/
def execMovh (x : MovHArgs) (s : State) : Host.Outcome State Fault Refusal :=
  .next (s.atOnce x.c x.cond fun s =>
    { s with g := s.g.setHandle x.d (match x.a with
      | some n => s.g.handle n
      | none => Handle.empty) })

/-! ### Chains (R269 to R271) -/

/-- The 64-byte image at an L-store offset, the group's own earlier stores included (R13, R269). -/
def State.image (s : State) (off : Nat) : List Byte := s.g.forward .l s.g.seq off ((s.windowMem .l).bytes off 64)

/-- The image may be read: no engine and no atomic of the group still holds its bytes (R250, R226). -/
def State.imageFree (s : State) (off : Nat) : Bool :=
  !(s.heldByEngine .l s.g.seq off 64 false) && !(s.atomicAhead .l s.g.seq off 64)

/-- A chain number above 4,095 traps with sub-cause 10 (R259). -/
def chainOk (v : Word64) : Bool := decide (v.toNat < 4096)

/-- QPUT: the image is read and the append enters the log and the FIFO; an image with an erroneous byte is a machine check
and appends nothing (R255, R269, R375). An offset in an S register counts with all of its bits (notes/assumptions/147). -/
def execQput (x : QPutArgs) (s : State) : Host.Outcome State Fault Refusal :=
  .next (if s.g.flushing then s
  else if x.cond.holds s.g.sc then
    let ch := s.g.src x.c .n64 x.ch
    let off := (s.g.src x.c .n64 x.off).toNat
    let size := s.windowSize .l
    if !chainOk ch || off % 64 != 0 then s.boundary (.trap (s.g.illegal 10 (.qput x)))
    else if size < off + 64 then s.boundary (.trap (s.g.trapHere 7 0xFF (BitVec.ofNat 64 (max size off % 2 ^ 32))))
    else if s.g.logFull || s.g.fifoFull || !s.imageFree off then s
    else if let some b := s.badRead .l s.g.seq off 64 then
      let t := s.deferRead (checkByte s.g.seq 0 .l b true)
      { t with g := { t.g with seq := t.g.seq + 1 } }.advance x.c
    else
      let g := s.g
      let e : FifoEntry := { seq := g.seq, fpos := g.stores, instr := .qput x, sp := .glob,
                             kind := .qput (ch.setWidth 12) (s.image off) none, ty := .n64, width := 0, sco := .dev,
                             ord := .rel, ret := true, scalar := true, lanes := [elemAt 0 0], sent := false, told := false }
      let p : Pend := { seq := g.seq, fpos := g.stores, instr := .qput x, off := g.planeAddr, kind := .qput, ty := .n64, sco := .dev,
                        ord := .rel, cp := .ca, dst := .s x.d, due := 1, dueHi := 0, dueSc := false, scalar := true,
                        lanes := [elemAt 0 0] }
      { s with g := { g.pushFifo e with log := g.log ++ [p] } }.advance x.c
  else s.advance x.c)

/-- Byte offset and type of the field that QGET reads (R252, R270); HCODE stands above STATE. -/
def qgetField : QSel → Nat × Ty
  | .seq => (24, .n64)
  | .err => (32, .n64)
  | .widx => (16, .n64)
  | .state => (4, .n16)

/-- QGET: a load of the field with ORD 1 at .dev that does not read L1 (R270). -/
def execQget (x : QGetArgs) (s : State) : Host.Outcome State Fault Refusal :=
  .next (if s.g.flushing then s
  else if x.cond.holds s.g.sc then
    let ch := s.g.src x.c .n64 x.ch
    let f := qgetField x.sel
    if !chainOk ch then s.boundary (.trap (s.g.illegal 10 (.qget x)))
    else
      s.issueLoad { instr := .qget x, c := x.c, sp := .glob, ty := f.2, sco := .dev, ord := .acq, cp := .cg,
                    scalar := true, es := [elemAt 0 (s.ccbVa s.g.die s.g.ctx (ch.setWidth 12) + f.1)] } false (.s x.d)
  else s.advance x.c)

/-- WAITV: the park, and only then the chain number and the target are read (R22, R271). -/
def execWaitv (x : WaitVArgs) (s : State) : Host.Outcome State Fault Refusal :=
  .next (if s.g.flushing then s
  else if x.cond.holds s.g.sc then
    let ch := s.g.src x.c .n64 x.ch
    if s.g.unsettled then s.boundary .wait
    else if !chainOk ch then s.boundary (.trap (s.g.illegal 10 (.waitv x)))
    else s.beginWait x.c (.seq (ch.setWidth 12) (s.g.src x.c .n64 x.n) x.d)
  else s.advance x.c)

/-- A load of the focused group at .dev, an acquire that reads L2: it waits for the core's own stores to the line and for what a
release there publishes (R200, R201, R203). -/
def viaAcquire : Via := Via.acquiring (fun s va cls atomic =>
  s.translate s.g.coreRef (.load s.g.ref s.g.seq 0) s.g.ctx va cls atomic) fun s pa n =>
    (s.core s.g.coreRef).path.any (fun e => e.touches pa n) || s.aheadFor .dev s.party pa n

/-- A read of the control block shows SEQ: the wait ends with an acquire at .dev once it reaches the number, and at
once, with a deferred fault, when the read cannot be made. The read is a load of the group: fences, acquires and the group's own
stores and atomics before it hold it back as any load, or are read (R13, R203, R204, R271). -/
def execWaitvWake (r : GroupRef) (s : State) : Host.Outcome State Fault Refusal :=
  .next (s.atGroup r fun s =>
    match s.g.run with
    | .waiting _ (.seq ch n d) =>
      let va := s.ccbVa s.g.die s.g.ctx ch + 24
      if s.g.acquireAhead s.g.seq || s.atomicAhead .glob s.g.seq va 8 then s
      else
        match s.passFences s.g.seq false s.g.fences with
        | none => s
        | some s =>
          match readVia viaAcquire s va 8 with
          | .ok bs s =>
            let seq : Word64 := BitVec.ofNat 64 (leNat (s.g.forward .glob s.g.seq va bs))
            if n.toNat ≤ seq.toNat then
              let s := s.dropL1 s.g.coreRef
              { s with g := match d with
                | some k => s.g.writeS k seq
                | none => s.g }.wake
            else s
          | .wait s => s
          | .bad st f s =>
            let d : Deferred := ⟨s.g.seq, 0, faultCode st, 1, accessInfo true 0 f.va, false⟩
            { s with g := { s.g with run := .ready, deferred := s.g.deferred ++ [d] } }.boundary .wait
    | _ => s)

end Sys2Proof.Machine
end

