-- ==== Sys2Proof/Machine/Matrix.lean ====
section
/-! DEFINITION. The arithmetic of the matrix engine: format combinations (R273), exact block sums and their promotion
(R87 to R90, R274, R280, R281), operand blocks (R275 to R277), and tapered records (R283 to R289). -/

namespace Sys2Proof.Machine

/-! ### FMT (R81, R273) -/

def fmtAF (f : Word) : Nat := bitsOf f.toNat 0 4
def fmtBF (f : Word) : Nat := bitsOf f.toNat 4 4
def fmtCF (f : Word) : Nat := bitsOf f.toNat 8 4
def fmtASM (f : Word) : Nat := bitsOf f.toNat 12 2
def fmtBSM (f : Word) : Nat := bitsOf f.toNat 14 2
def fmtRnd (f : Word) : Round := rndOf (f.extractLsb' 16 2)
def fmtSatOf (f : Word) : Bool := f.getLsbD 18
def fmtTN (f : Word) : Bool := f.getLsbD 19
def fmtQF (f : Word) : Nat := bitsOf f.toNat 20 4

/-- Element width of a format code. -/
def codeBits (c : Nat) : Nat :=
  match c with
  | 1 | 2 => 16
  | 3 | 4 | 6 => 8
  | 5 | 7 => 4
  | 9 => 1
  | _ => 32

/-- The element type of a format code. -/
def codeTy (c : Nat) : Ty :=
  match c with
  | 1 => .f16
  | 2 => .bf16
  | 3 => .e4m3
  | 4 => .e5m2
  | 5 => .e2m1
  | 6 => .s8
  | 7 => .s4
  | _ => .f32

def isFp8 (c : Nat) : Bool := c == 3 || c == 4
def plainScale (m : Nat) : Bool := m != 2

/-- The MMA rows of R273. -/
def mmaRow (f : Word) : Bool :=
  let a := fmtAF f
  let b := fmtBF f
  let sa := fmtASM f
  let sb := fmtBSM f
  let none := sa == 0 && sb == 0
  let both := sa == 2 && sb == 2
  let plain := plainScale sa && plainScale sb
  if fmtCF f = 0 then
    (isFp8 a && isFp8 b && (plain || both)) || (a == 5 && b == 5 && both) || (a == b && (a == 1 || a == 2) && none)
      || (a == 6 && b == 6 && plain)
  else if fmtCF f = 8 then a == b && (a == 6 || a == 7) && none
  else false

def mmasRow (f : Word) : Bool :=
  mmaRow f && (isFp8 (fmtAF f) || fmtAF f == 6) && plainScale (fmtASM f) && plainScale (fmtBSM f)

def mmavRow (f : Word) : Bool := mmaRow f && fmtASM f == 0
def mmabRow (f : Word) : Bool :=
  fmtAF f == 9 && fmtBF f == 9 && fmtCF f == 8 && fmtASM f == 0 && fmtBSM f == 0
def mtapRow (f : Word) : Bool :=
  (fmtAF f == 6 || fmtAF f == 7) && fmtBF f == 10 && fmtCF f == 0 && plainScale (fmtASM f) && fmtBSM f == 1

/-- RB of R275. -/
def rowBytes (code : Nat) : Nat := 16 * codeBits code

/-- Bytes of a scale section of A and of B (R276). -/
def sectionA (m : Nat) : Nat :=
  match m with
  | 1 | 2 => 512
  | 3 => 32
  | _ => 0

def sectionB (m : Nat) : Nat :=
  match m with
  | 1 | 3 => 32
  | 2 => 512
  | _ => 0

/-- Distance between the blocks of an A panel and of a B panel (R302). -/
def strideA (f : Word) : Nat := 128 * rowBytes (fmtAF f) + sectionA (fmtASM f)
def strideB (f : Word) (sparse : Bool) : Nat :=
  (if sparse then 10240 else 128 * rowBytes (fmtBF f)) + sectionB (fmtBSM f)

/-! ### Elements -/

/-- The elements of packed bytes (R80, R275). -/
def codesOf (bits : Nat) : List Byte → List Nat
  | [] => []
  | b :: bs =>
    if bits = 1 then (List.range 8).map (fun i => b.toNat / 2 ^ i % 2) ++ codesOf bits bs
    else if bits = 4 then b.toNat % 16 :: b.toNat / 16 :: codesOf bits bs
    else b.toNat :: codesOf bits bs

/-- Elements of 16 bits from bytes. -/
def pairs16 : List Nat → List Nat
  | a :: b :: r => (a + 256 * b) :: pairs16 r
  | _ => []

def elemsOf (code : Nat) (bs : List Byte) : List Nat :=
  if codeBits code = 16 then pairs16 (codesOf 8 bs) else codesOf (codeBits code) bs

/-- A sum of products, exact, in units of 2^-32, or a special value (R88, R280). -/
inductive Exact where
  | nan
  | inf (neg : Bool)
  | val (n : Int)
deriving DecidableEq, Repr

/-- An element in units of 2^-16: every 4-bit and 8-bit format is a whole number of them. -/
def exactElem (code c : Nat) : Exact :=
  if code = 6 ∨ code = 7 then .val (intOf (codeTy code) c * 65536)
  else
    match (fmtOf (codeTy code)).decode c with
    | .nan => .nan
    | .inf neg => .inf neg
    | .fin neg m e => .val (scaled neg m e (-16))

def Exact.mul : Exact → Exact → Exact
  | .nan, _ => .nan
  | _, .nan => .nan
  | .inf a, .inf b => .inf (a != b)
  | .inf a, .val n => if n = 0 then .nan else .inf (a != decide (n < 0))
  | .val n, .inf b => if n = 0 then .nan else .inf (b != decide (n < 0))
  | .val m, .val n => .val (m * n)

def Exact.add : Exact → Exact → Exact
  | .nan, _ => .nan
  | _, .nan => .nan
  | .inf a, .inf b => if a = b then .inf a else .nan
  | .inf a, .val _ => .inf a
  | .val _, .inf b => .inf b
  | .val m, .val n => .val (m + n)

def Exact.value : Exact → FVal
  | .nan => .nan
  | .inf neg => .inf neg
  | .val n => .fin (decide (n < 0)) n.natAbs (-32)

/-- ExactSum over the positions that both sides have; a position that B does not keep adds an exact zero (R88, R273). -/
def exactSum (fa fb : Nat) : List Nat → List (Option Nat) → Exact
  | a :: as, some b :: bs => ((exactElem fa a).mul (exactElem fb b)).add (exactSum fa fb as bs)
  | _ :: as, none :: bs => exactSum fa fb as bs
  | _, _ => .val 0

def rne32 (v : FVal) : Nat := fp32.round .rne false v
def val32 (bits : Nat) : FVal := fp32.decode bits

/-- Promote for CF FP32 (R281). -/
def promote (w : Exact) (aScale bScale acc : Nat) : Nat :=
  let p := val32 (rne32 w.value)
  let s := val32 (rne32 ((val32 aScale).mul (val32 bScale)))
  rne32 ((p.mul s).add .rne (val32 acc))

/-- One level of PairTree (R87). -/
def pairNodes : List FVal → List FVal
  | a :: b :: r => val32 (rne32 (a.add .rne b)) :: pairNodes r
  | l => l

def fixedTree (xs : List FVal) : FVal :=
  (pairNodes (pairNodes (pairNodes (pairNodes (pairNodes xs))))).headD (.fin false 0 0)

/-- Chunks of 32 positions. -/
def chunks32 {α : Type} : Nat → List α → List (List α)
  | 0, _ => []
  | n + 1, xs => if xs.isEmpty then [] else xs.take 32 :: chunks32 n (xs.drop 32)

def zip2 (as : List Nat) (bs : List (Option Nat)) : List (Nat × Nat) := (as.zip bs).filterMap fun x => x.2.map fun b => (x.1, b)

/-- A K-block of a BF16 or FP16 cell (R89). -/
def treeCell (fa fb : Nat) (row : List Nat) (col : List (Option Nat)) (acc : Nat) : Nat :=
  (chunks32 4 (zip2 row col)).foldl (fun c ch =>
    let ps := ch.map fun x => ((fmtOf (codeTy fa)).decode x.1).mul ((fmtOf (codeTy fb)).decode x.2)
    rne32 ((val32 c).add .rne (fixedTree ps))) acc

/-- The chunks of an MX32 cell with their scale codes (R90). -/
def mxGo (fa fb : Nat) : List (List (Nat × Nat)) → List (Nat × Nat) → Nat → Nat
  | ch :: cs, (xa, xb) :: ss, c =>
    let q := exactSum fa fb (ch.map (·.1)) (ch.map fun x => some x.2)
    let k : Int := (xa : Int) + xb - 254
    let c := if xa = 255 ∨ xb = 255 then fp32.nan
      else rne32 ((val32 c).add .rne (q.value.mul (.fin false 1 k)))
    mxGo fa fb cs ss c
  | _, _, c => c

def mxCell (fa fb : Nat) (row : List Nat) (col : List (Option Nat)) (scales : List (Nat × Nat)) (acc : Nat) : Nat :=
  mxGo fa fb (chunks32 4 (zip2 row col)) scales acc

/-- A K-block with an INT32 accumulator: the sum is an integer and wraps (R78, R88, R281). -/
def wrapAcc (w : Exact) (acc : Nat) : Nat :=
  match w with
  | .val n => (((acc : Int) + n / 2 ^ 32) % 2 ^ 32).toNat
  | _ => acc

/-- The population count of a binary cell (R79). -/
def binaryCell (andOp : Bool) (row : List Nat) (col : List (Option Nat)) (acc : Nat) : Nat :=
  ((zip2 row col).foldl (fun n x => n + if andOp then x.1 &&& x.2 else x.1 ^^^ x.2) acc) % 2 ^ 32

/-! ### Tapered records (R283 to R286) -/

/-- A decoded tapered group: kept positions in sorted order, the anchor, and the differences d(1) to d(n - 1). -/
structure Taper where
  perm   : List Nat
  anchor : Int
  d      : List Nat
deriving DecidableEq, Repr

def keptOf (tn : Bool) : Nat := if tn then 8 else 16

/-- Bytes of a record, and of a tapered tile (R287). -/
def recordBytes (tn : Bool) : Nat := if tn then 12 else 20
def tileBytes (tn : Bool) : Nat := 32 + 1024 * recordBytes tn

/-- Weights in ascending order from the anchor down (R285): ws(n - 1) first. -/
def weightsDown (w : Int) : List Nat → List Int
  | [] => [w]
  | d :: ds => w :: weightsDown (w - d) ds

/-- ws(0) to ws(n - 1). -/
def Taper.ws (t : Taper) : List Int := (weightsDown t.anchor t.d.reverse).reverse

/-- w[0] to w[15] of a group. -/
def Taper.weights (t : Taper) : List Int :=
  let ps := t.perm.zip t.ws
  (List.range 16).map fun k => ((ps.find? fun p => p.1 == k).map (·.2)).getD 0

def distinct (xs : List Nat) : Bool := xs.eraseDups.length == xs.length

/-- Insert a position by (weight, position). -/
def insertKept (x : Nat × Int) : List (Nat × Int) → List (Nat × Int)
  | [] => [x]
  | y :: ys => if x.2 < y.2 ∨ (x.2 = y.2 ∧ x.1 < y.1) then x :: y :: ys else y :: insertKept x ys

/-- Differences of neighbours. -/
def diffs : List Int → List Nat
  | a :: b :: r => (b - a).toNat :: diffs (b :: r)
  | _ => []

/-- Steps 2 and 3 of R286 on kept positions, with every difference whole. -/
def taperOf (kept : List (Nat × Int)) : Taper :=
  let xs := kept.foldr insertKept []
  ⟨xs.map (·.1), (xs.map (·.2)).getLastD 0, diffs (xs.map (·.2))⟩

/-- Signed byte at bit `lo`. -/
def sbyte (raw lo : Nat) : Int := (BitVec.ofNat 8 (bitsOf raw lo 8)).toInt

/-- A compressed record: its slots, differences of nibbles with escapes, and the checks of R285. -/
def compressed (n : Nat) (raw anchorAt diffAt : Nat) (escapes : List (Nat × Nat)) : Option Taper :=
  let perm := (List.range n).map fun s => bitsOf raw (4 * s) 4
  let nib (s : Nat) := bitsOf raw (diffAt + 4 * s) 4
  let d := (List.range (n - 1)).map fun s =>
    match escapes.find? fun e => e.1 == s + 1 with
    | some e => e.2
    | none => nib (s + 1)
  let t : Taper := ⟨perm, sbyte raw anchorAt, d⟩
  let ok := distinct perm && (escapes.all fun e => e.1 != 0 || e.2 == 0)
    && distinct ((escapes.map (·.1)).filter (· != 0)) && (escapes.all fun e => e.1 == 0 || nib e.1 == 0)
    && t.ws.all fun w => decide (-128 ≤ w)
  if ok then some t else none

/-- A TG16 or TG8 record; none when it is malformed (R283 to R285, R288). -/
def readTaper (tn : Bool) (raw : Nat) : Option Taper :=
  if tn then
    if bitsOf raw 95 1 = 1 then
      let mask := (List.range 16).filter fun q => bitsOf raw (64 + q) 1 == 1
      if bitsOf raw 80 15 = 0 ∧ mask.length = 8 then
        some (taperOf (mask.mapIdx fun i q => (q, sbyte raw (8 * i))))
      else none
    else if bitsOf raw 79 16 ≠ 0 then none
    else compressed 8 raw 32 36 [(bitsOf raw 68 3, bitsOf raw 71 8)]
  else if bitsOf raw 159 1 = 1 then
    if bitsOf raw 128 31 = 0 then some (taperOf ((List.range 16).map fun q => (q, sbyte raw (8 * q)))) else none
  else if bitsOf raw 156 3 ≠ 0 then none
  else compressed 16 raw 64 68 [(bitsOf raw 132 4, bitsOf raw 136 8), (bitsOf raw 144 4, bitsOf raw 148 8)]

/-- Fields placed one after another: value x 2^place summed. -/
def packBits (xs : List (Nat × Nat)) : Nat := xs.foldl (fun r x => r + x.2 * 2 ^ x.1) 0

/-- A byte of a signed value. -/
def byteOf (w : Int) : Nat := (w % 256).toNat

/-- Positions that R286 keeps; none when the group is unrepresentable. -/
def keptPositions (tn : Bool) (w : List Int) : Option (List (Nat × Int)) :=
  let all := w.mapIdx fun k x => (k, x)
  if !tn then some all
  else
    let nz := all.filter fun x => x.2 != 0
    let zs := (all.filter fun x => x.2 == 0).take (8 - nz.length)
    if 8 < nz.length then none else some (all.filter fun x => nz.contains x || zs.contains x)

/-- The canonical record of a group (R286). -/
def canonicalRecord (tn : Bool) (w : List Int) : Option Nat :=
  (keptPositions tn w).map fun kept =>
    let t := taperOf kept
    let big := (t.d.mapIdx fun i x => (i + 1, x)).filter fun e => decide (15 < e.2)
    let nib := (t.d.mapIdx fun i x => (i + 1, x)).filter fun e => decide (e.2 ≤ 15)
    let perm := packBits (t.perm.mapIdx fun s p => (4 * s, p))
    let e (i : Nat) : Nat × Nat := (big[i]?).getD (0, 0)
    if tn then
      if 1 < big.length then
        packBits ((kept.mapIdx fun i x => (8 * i, byteOf x.2)) ++ kept.map (fun x => (64 + x.1, 1)) ++ [(95, 1)])
      else
        perm + packBits ((nib.map fun x => (4 * x.1 + 36, x.2)) ++ [(32, byteOf t.anchor), (68, (e 0).1), (71, (e 0).2)])
    else if 2 < big.length then packBits ((w.mapIdx fun i x => (8 * i, byteOf x)) ++ [(159, 1)])
    else
      perm + packBits ((nib.map fun x => (4 * x.1 + 68, x.2)) ++
        [(64, byteOf t.anchor), (132, (e 0).1), (136, (e 0).2), (144, (e 1).1), (148, (e 1).2)])

/-! ### Tapered tile registers (R288, R289) -/

/-- An entry of 24 bytes. -/
def Taper.entry (t : Taper) : Nat :=
  packBits ((t.perm.mapIdx fun s p => (4 * s, p)) ++ (t.d.mapIdx fun k x => (64 + 8 * k, x)) ++ [(184, byteOf t.anchor)])

/-- The entry of a register, with `n` slots. -/
def entryTaper (n raw : Nat) : Taper :=
  ⟨(List.range n).map fun s => bitsOf raw (4 * s) 4, sbyte raw 184,
   (List.range (n - 1)).map fun k => bitsOf raw (64 + 8 * k) 8⟩

/-- The scan of one group (R289): `run` and the accumulated differences. -/
def scanSlots (row : Nat → Int) : List Nat → List Nat → Int → Int → Int × Int
  | p :: ps, d :: ds, run, acc => scanSlots row ps ds (run + row p) (acc + d * run)
  | _, _, run, acc => (run, acc)

/-- The sum of one group: ANCHOR x run - acc. -/
def taperSum (t : Taper) (row : Nat → Int) : Int :=
  let r := scanSlots row t.perm (0 :: t.d) 0 0
  t.anchor * r.1 - r.2

/-- TaperedBlock for a row of A and the eight entries of a column. -/
def taperCell (ts : List Taper) (row : List Int) : Int :=
  (ts.mapIdx fun g t => taperSum t fun q => (row[16 * g + q]?).getD 0).foldl (· + ·) 0

end Sys2Proof.Machine
end

