-- ==== Sys2Proof/Machine/MatrixCmd.lean ====
section
/-! DEFINITION. Class 6: the matrix and epilogue commands as a group issues them (R291, R297 to R311). -/

namespace Sys2Proof.Machine

/-! ### Operands (R298) -/

/-- AOFF, BOFF and KB of the 128-bit form. -/
def extA (c : Ctl) : Nat := bitsOf c.lit.toNat 0 21
def extB (c : Ctl) : Nat := bitsOf c.lit.toNat 21 21
def extKb (c : Ctl) : Nat := bitsOf c.lit.toNat 42 8

/-- An operand, or the field of EXT that stands for it. -/
def Group.offOr (g : Group) (c : Ctl) (o : Option Operand) (ext : Nat) : Nat :=
  match o with
  | some o => g.off32 c o
  | none => ext

/-- The bytes of C tile t (R278). -/
def tileRange (t : Nat) (write : Bool) : Range := ⟨.c, 65536 * t, 65536, write⟩

/-- Make a command of class 6: the checks of R299 in order, each with its sub-cause; they belong to order 9 of R50 and so
do not depend on COND (R51). Then the command, when COND holds (R300). -/
def State.matrixIssue (s : State) (cond : Cond) (checks : List (Bool × BitVec 8)) (r : CmdReq) : State :=
  if s.g.flushing then s
  else
    match checks.find? fun k => !k.1 with
    | some k => s.boundary (.trap (s.g.illegal k.2 r.instr))
    | none => if cond.holds s.g.sc then s.issueCmd r else s.advance r.c

def words (xs : List Nat) : List Word64 := xs.map fun x => BitVec.ofNat 64 x

/-! ### Block commands (R301 to R304) -/

/-- MMA, MMAS and MMAB. -/
def State.blockCmd (s : State) (i : Instr) (x : MmaArgs) (row : Word → Bool) (sparse : Bool) : State :=
  let g := s.g
  let f := g.fmt.get 0
  let a := g.offOr x.c x.a (extA x.c)
  let b := g.offOr x.c x.b (extB x.c)
  let kb := g.offOr x.c x.kb (extKb x.c)
  s.matrixIssue x.cond
    [(row f, 10), (a % 32 == 0 && b % 32 == 0, 10), (decide (1 ≤ kb ∧ kb ≤ 255), 10)]
    { c := x.c, eng := .matrix, instr := i, ext := words [a, b, kb], cap := [], d := some x.d, sh := x.sh,
      holds := [⟨.a, a, kb * strideA f, false⟩, ⟨.w, b, kb * strideB f sparse, false⟩, tileRange x.ct.val true],
      limit := some 16 }

def execMma (x : MmaArgs) (s : State) : Host.Outcome State Fault Refusal :=
  .next (s.blockCmd (.mma x) x mmaRow false)
def execMmas (x : MmaArgs) (s : State) : Host.Outcome State Fault Refusal :=
  .next (s.blockCmd (.mmas x) x mmasRow true)
def execMmab (x : MmabArgs) (s : State) : Host.Outcome State Fault Refusal :=
  .next (s.blockCmd (.mmab x) x.m mmabRow false)

/-- Registers that MMAV reads: 32es for each full block and 8es x d for the last (R303). -/
def mmavRegs (code kb d : Nat) : Nat := 4 * codeBits code * (kb - 1) + codeBits code * d

/-- MMAV captures its rows at issue; the lanes that it computes follow as a mask (R303). -/
def execMmav (x : MmavArgs) (s : State) : Host.Outcome State Fault Refusal :=
  .next (
    let g := s.g
    let f := g.fmt.get 0
    let b := g.offOr x.c x.b (extB x.c)
    let kb := g.offOr x.c x.kb (extKb x.c)
    let n := mmavRegs (fmtAF f) kb (x.kdm.val + 1)
    let m : LaneMask := if x.mz then g.exec else BitVec.allOnes 32
    let rows : List Word := (List.finRange 32).flatMap fun i => (List.range (min n 128)).map fun j =>
      if m.getLsbD i.val then g.readV (Fin.ofNat 128 (x.a.val + j)) i else 0
    s.matrixIssue x.cond
      [(mmavRow f, 10), (b % 32 == 0, 10), (decide (1 ≤ kb ∧ kb ≤ 255), 10), (decide (x.a.val + n ≤ g.valloc), 8)]
      { c := x.c, eng := .matrix, instr := .mmav x, ext := words [0, b, kb, m.toNat], cap := rows, d := some x.d,
        sh := x.sh, holds := [⟨.w, b, kb * strideB f false, false⟩, tileRange x.ct.val true], limit := some 16 })

def execMtap (x : MtapArgs) (s : State) : Host.Outcome State Fault Refusal :=
  .next (
    let g := s.g
    let f := g.fmt.get 0
    let a := g.offOr x.c x.a (extA x.c)
    let kb := g.offOr x.c x.kb (extKb x.c)
    let n := if x.pr then 2 else 1
    s.matrixIssue x.cond
      [(mtapRow f, 10), (a % 32 == 0, 10),
       (if x.pr then kb == 1 && decide (x.ct.val ≤ 6) else decide (1 ≤ kb ∧ kb ≤ 2), 10)]
      { c := x.c, eng := .matrix, instr := .mtap x, ext := words [a, 0, kb], cap := [], d := some x.d, sh := x.sh,
        holds := [⟨.a, a, kb * strideA f, false⟩, ⟨.c, 65536 * x.ct.val, 65536 * n, true⟩], limit := some 16 })

/-! ### Tapered tiles, tiles and state (R305 to R308) -/

def execMldt (x : MldtArgs) (s : State) : Host.Outcome State Fault Refusal :=
  .next (
    let a := s.g.off32 x.c x.a
    s.matrixIssue x.cond [(a % 32 == 0, 10)]
      { c := x.c, eng := .matrix, instr := .mldt x, ext := words [a], cap := [], d := some x.d, sh := x.sh,
        holds := [⟨.w, a, tileBytes (fmtTN (s.g.fmt.get 0)), false⟩], limit := some 16 })

/-- Bytes of MSORT's source (R306). -/
def rawTileBytes : Nat := 16416

def execMsort (x : MsortArgs) (s : State) : Host.Outcome State Fault Refusal :=
  .next (
    let a := s.g.off32 x.c x.a
    let b := s.g.off32 x.c x.b
    let n := tileBytes (fmtTN (s.g.fmt.get 0))
    s.matrixIssue x.cond
      [(a % 32 == 0 && b % 32 == 0, 10), (!decide (a < b + n ∧ b < a + rawTileBytes), 10)]
      { c := x.c, eng := .matrix, instr := .msort x, ext := words [a, b], cap := [], d := some x.d, sh := x.sh,
        holds := [⟨.w, b, n, true⟩], limit := some 16 })

def execMzero (x : MzeroArgs) (s : State) : Host.Outcome State Fault Refusal :=
  .next (s.matrixIssue x.cond []
    { c := x.c, eng := .matrix, instr := .mzero x, ext := [], cap := [], d := some x.d, sh := x.sh,
      holds := [tileRange x.ct.val true], limit := some 16 })

/-- q of MSTAT.RSF; 0 for the other forms. -/
def Group.statQ (g : Group) (x : MstatArgs) : Nat :=
  match x.sel with
  | .rsf q => g.off32 x.c q
  | _ => 0

/-- Bytes that MSTAT writes (R308). -/
def statBytes : StatSel → Nat
  | .rsf _ => 16384
  | _ => 24608

def execMstat (x : MstatArgs) (s : State) : Host.Outcome State Fault Refusal :=
  .next (
    let a := s.g.off32 x.c x.a
    let q := s.g.statQ x
    s.matrixIssue x.cond [(a % 32 == 0, 10), (decide (q ≤ 15), 10)]
      { c := x.c, eng := .matrix, instr := .mstat x, ext := words [a, q], cap := [], d := some x.d, sh := x.sh,
        holds := [⟨.l, a, statBytes x.sel, true⟩], limit := some 16 })

/-! ### EPI (R291, R309) -/

def execEpi (x : EpiArgs) (s : State) : Host.Outcome State Fault Refusal :=
  .next (
    let a := s.g.off32 x.c x.a
    s.matrixIssue x.cond [(a % 32 == 0, 10)]
      { c := x.c, eng := .epilogue, instr := .epi x, ext := words [a], cap := [], d := some x.d, sh := x.sh,
        holds := [tileRange x.ct.val false, ⟨.l, 0, s.windowSize .l, false⟩, ⟨.l, 0, s.windowSize .l, false⟩,
                  ⟨.a, 0, s.windowSize .a, true⟩,
                  ⟨.l, a, 256, true⟩],
        limit := some 8 })

end Sys2Proof.Machine
end

