-- ==== Sys2Proof/Machine/Errors.lean ====
section
/-! DEFINITION. Errors that the checks of R192 find, what they leave behind, and the registers that an instruction reads at
issue, where an uncorrectable one is a machine check (R192, R282, R375, R453; notes/assumptions/109). -/

namespace Sys2Proof.Machine

/-! ### The registers that an instruction reads at issue -/

/-- Lanes of a V register, with its odd partner when `wide`. -/
def vNames (wide : Bool) (ls : List Lane) (n : Fin 128) : List RegName :=
  ls.map (.v n ·) ++ if wide then ls.map (.v (pairHi n) ·) else []

/-- What an operand names, read on the lanes `ls`. -/
def Group.names (g : Group) (wide : Bool) (ls : List Lane) (o : Operand) : List RegName :=
  match o with
  | .v n => vNames wide ls n
  | .s n => [.s n]
  | .k n => [.k n]
  | .h n => [.h n]
  | .exec => [.special 2]
  | .sc => [.special 1]
  | .fmt => [.special (4 + BitVec.ofNat 8 g.bank.val)]
  | _ => []

/-- The operands of a once-per-group instruction: SC for a condition, the rest only while the condition holds. -/
def Group.onceNames (g : Group) (c : Cond) (os : List Operand) (more : List RegName := []) : List RegName :=
  (if c = .al then [] else [.special 1]) ++
    if c.holds g.sc then os.flatMap (g.names false []) ++ more else []

/-- EXEC and the guard, then what each executing lane reads. -/
def Group.laneNames (g : Group) (gd : Guard) (f : List Lane → List RegName) : List RegName :=
  .special 2 :: .k gd.k :: f (lanesOf (g.executing gd))

def Group.laneOps (g : Group) (gd : Guard) (os : List Operand) (wide : Bool := false) : List RegName :=
  g.laneNames gd fun ls => os.flatMap (g.names wide ls)

/-- FMT of the issuing plane, where the rounding mode or the saturation is read from it (R81, R82). -/
def Group.fmtName (g : Group) : List RegName := [.special (4 + BitVec.ofNat 8 g.bank.val)]
def Group.rmNames (g : Group) (rm : Rm) (sat : Bool := true) : List RegName :=
  if rm = .dyn || !sat then g.fmtName else []

/-- A start condition, and FMT.0, which a command captures (R240, R300). -/
def startNames (sh : Option (Fin 16)) : List RegName := .special 4 :: sh.toList.map .h

def toOps (os : List (Option Operand)) : List Operand := os.filterMap id

/-- Addresses and data of a lane access (R217, R218): pairs for addresses of global memory and for 8-byte data. The scalar
form reads neither EXEC nor a guard (R221). -/
def Group.accessNames (g : Group) (sp : Space) (scalar : Bool) (gd : Guard) (a b : Operand) (ty : Ty) (data : List Operand) :
    List RegName :=
  let f (ls : List Lane) := g.names (sp == .glob) ls a ++ g.names false ls b ++ data.flatMap (g.names (ty.bytes == 8) ls)
  if scalar then f [] else g.laneNames gd f

/-- The registers that an instruction reads at issue. -/
def Group.sources (g : Group) (i : Instr) : List RegName :=
  let bin (x : VBinary) := g.laneOps x.g [x.a, x.b]
  let un (x : VUnary) := g.laneOps x.g [x.a]
  let fun1 (x : VFUnary) := g.laneOps x.g [x.a] ++ g.rmNames x.rm
  let fbin (x : VFBinary) := g.laneOps x.g [x.a, x.b] ++ g.rmNames x.rm
  let ftern (x : VFTernary) := g.laneOps x.g [x.a, x.b, x.cc] ++ g.rmNames x.rm
  let cross (x : Permute) (src : Lane → Lane) :=
    g.laneNames x.g fun ls => ls.map (fun j => .v x.a (src j)) ++ g.names false ls x.b
  let load (sp : Space) (x : VLoad) := g.accessNames sp (!x.d.isV) x.g x.a x.b x.ty []
  let store (sp : Space) (x : VStore) :=
    g.accessNames sp (sp == .l && x.g.isNone && !x.a.isV && !x.b.isV && !x.data.isV) x.g x.a x.b x.ty [x.data]
  let vatom (sp : Space) (x : VAtomic) := g.accessNames sp false x.g x.a x.b x.ty
    (x.data :: if x.aop = .cas then (x.d.map Operand.v).toList else [])
  let range (ls : List Lane) (n k : Nat) := (List.range k).flatMap fun j => vNames false ls (Fin.ofNat 128 (n + j))
  let mma (x : MmaArgs) := g.onceNames x.cond (toOps [x.a, x.b, x.kb]) (startNames x.sh)
  let copy (x : CopyArgs) := g.onceNames x.cond [.s x.la, .s x.ba, x.off] (startNames x.sh)
  let mask (x : MaskOp) := g.onceNames x.cond [x.m, .exec]
  match i with
  | .sbfi x => g.onceNames x.cond [x.a, x.b, .s x.d]
  | .sadd x | .ssub x | .smul x | .smulh x | .smulhn x | .sdiv x | .sdivn x | .srem x | .sremn x | .sand x | .sor x
  | .sxor x | .sandn x | .sshl x | .sshr x | .ssra x | .srot x | .smin x | .smax x | .sminn x | .smaxn x
  | .sbfx x => g.onceNames x.cond [x.a, x.b]
  | .scmp x => g.onceNames x.cond [x.a, x.b]
  | .ssel x => g.onceNames x.cond [x.a, x.b, .sc]
  | .smov x | .spopc x | .sclz x | .sctz x | .sbrev x => g.onceNames x.cond [x.a]
  | .sli x => g.onceNames x.cond [x.a, .s x.d]
  | .brmz x | .brma x => g.onceNames x.cond [x.r, .exec]
  | .brc x | .brz x | .brnz x => g.onceNames x.cond [x.r]
  | .br x | .call x => g.onceNames x.cond []
  | .calli x | .ret x | .jmpi x | .sleep x => g.onceNames x.cond [x.a]
  | .mand x | .mor x | .mandn x | .mxor x => mask x
  | .mset x => if x.d = .k 0 ∨ x.d = .s 0 then g.onceNames x.cond [x.m] else mask x
  | .mpop x | .mffs x => g.onceNames x.cond [x.m]
  | .mget x => g.onceNames x.cond [.exec]
  | .fmtset x => g.onceNames x.cond [x.a]
  | .fmtget x => g.onceNames x.cond [.fmt]
  | .getsr x => g.onceNames x.cond [] [.special x.srn]
  | .setsr x => g.onceNames x.cond [x.a]
  | .trap x => g.onceNames x.cond x.a.toList
  | .tret x => g.onceNames x.cond [] [.special 0, .special 0x0A]
  | .bkpt x | .nop x | .yield x | .exit x => g.onceNames x.cond []
  | .vmov x | .vfabs x | .vfneg x => g.laneOps x.g [x.a] (x.ty.bytes == 8)
  | .vpopc x | .vclz x | .vfclass x => un x
  | .vabs x => g.laneOps x.g [x.a]
  | .vadd64 x => g.laneOps x.g [x.a, x.b] true
  | .vbfi x => g.laneOps x.g [x.a, x.b, .v x.d]
  | .vadd x | .vsub x | .vmul x | .vmulh x | .vmulhn x | .vand x | .vor x | .vxor x | .vandn x | .vshl x | .vshr x
  | .vsra x | .vmin x | .vmax x | .vminn x | .vmaxn x | .vaddsat x | .vsubsat x | .vbfx x | .vmulw x | .vamax x => bin x
  | .vmad x => g.laneOps x.g [x.a, x.b, x.cc]
  | .vdot4 x => g.laneOps x.g [x.a, x.b, x.cc]
  | .vcmp x | .vfcmp x => g.laneOps x.g [x.a, x.b]
  | .vsel x => g.laneOps x.g [x.a, x.b, .k x.k]
  | .vfadd x | .vfsub x | .vfmul x | .vfdiv x | .vhadd x | .vhmul x => fbin x
  | .vfma x | .vhfma x | .vfdot2 x => ftern x
  | .vfmin x | .vfmax x => g.laneOps x.g [x.a, x.b]
  | .vfsqrt x | .vfrnd x => fun1 x
  | .vfrcp x | .vfrsq x | .vfexp2 x | .vflog2 x | .vfsin x | .vfcos x | .vftanh x => g.laneOps x.g [x.a]
  | .vcvt x => g.laneOps x.g [x.a] ++ g.rmNames x.rm x.sat
  | .vqnt x => g.laneOps x.g (x.a :: x.b.toList) ++ g.rmNames x.rm x.sat
  | .vdqnt x => g.laneOps x.g (x.a :: x.b.toList) ++ g.rmNames x.rm
  | .vpack x => g.laneOps x.g [x.a, x.b, .v x.d] ++ g.rmNames x.rm x.sat
  | .vunpk x => g.laneOps x.g [x.a, x.b] ++ g.rmNames x.rm x.sat
  | .vlane x => g.laneNames x.g fun ls =>
      ls.map (fun j => .v x.a (laneMoveSrc x.mode (g.uni x.c x.b) j)) ++ g.names false ls x.b
  | .vbcast x => cross x fun _ => laneMod (g.uni x.c x.b)
  | .vshuf x => cross x fun j => laneMod (g.lane32 x.c x.b j).toNat
  | .vswz x => cross x fun j => laneMod (4 * (j.val / 4) + bitsOf (g.uni x.c x.b) (2 * (j.val % 4)) 2)
  | .vscan x | .vred x => g.laneOps x.g [x.a] ++ g.rmNames x.rm
  | .vballot x => g.laneOps x.g [x.a]
  | .vvote x => g.laneOps x.g [x.a]
  | .vrdlane x => .special 2 :: .k x.g.k :: .v x.a (laneMod (g.uni x.c x.b)) :: g.names false [] x.b
  | .vwrlane x => g.laneOps x.g [x.a, x.b]
  | .kop x => g.onceNames x.cond [x.a, x.b]
  | .kmov x => g.onceNames x.cond [x.a]
  | .pset x => g.laneOps x.g [x.a]
  | .pselk x => g.laneOps x.g [.k x.a, .k x.b]
  | .pget x => g.laneOps x.g []
  | .lds x => g.onceNames x.cond [.s x.a, x.b]
  | .sts x => g.onceNames x.cond [.s x.a, x.b, x.data]
  | .ldv x | .ldro x => load .glob x
  | .ldl x => load .l x
  | .lda x => load .a x
  | .ldc x => load .c x
  | .stv x => store .glob x
  | .stl x => store .l x
  | .sta x => store .a x
  | .stc x => store .c x
  | .prf x => g.onceNames x.cond [.s x.a, x.b]
  | .atoms x => g.onceNames x.cond ([.s x.a, x.b, x.data] ++ if x.aop = .cas then (x.d.map Operand.s).toList else [])
  | .atomv x => vatom .glob x
  | .atoml x => vatom .l x
  | .fence x => g.onceNames x.cond []
  | .cflush x => g.onceNames x.cond []
  | .cinv x => g.onceNames x.cond []
  | .sealPages x | .unseal x => g.onceNames x.cond [x.a, x.b]
  | .mma x | .mmas x => mma x
  | .mmab x => mma x.m
  | .mmav x => g.onceNames x.cond (toOps [x.b, x.kb]) (startNames x.sh ++ (if x.mz then [.special 2] else []) ++
      range (if x.mz then lanesOf g.exec else List.finRange 32) x.a.val
        (min 128 (mmavRegs (fmtAF (g.fmt.get 0)) (g.offOr x.c x.kb (extKb x.c)) (x.kdm.val + 1))))
  | .mtap x => g.onceNames x.cond (toOps [x.a, x.kb]) (startNames x.sh)
  | .mldt x => g.onceNames x.cond [x.a] (startNames x.sh)
  | .msort x => g.onceNames x.cond [x.a, x.b] (startNames x.sh)
  | .mzero x => g.onceNames x.cond [] (startNames x.sh)
  | .mstat x => g.onceNames x.cond (x.a :: match x.sel with
      | .rsf q => [q]
      | _ => []) (startNames x.sh)
  | .epi x => g.onceNames x.cond [x.a] (startNames x.sh)
  | .copyIn x | .copyOut x => copy x
  | .copyXs x => g.onceNames x.cond [x.so, x.bytes, x.doff] (startNames x.sh)
  | .canh x => g.onceNames x.cond [.h x.h]
  | .bseal x => g.onceNames x.cond []
  | .waith x => g.onceNames x.cond [.h x.h]
  | .testh x => g.onceNames x.cond [.h x.h]
  | .movh x => g.onceNames x.cond (x.a.toList.map Operand.h)
  | .qput x => g.onceNames x.cond [x.ch, x.off]
  | .qget x => g.onceNames x.cond [x.ch]
  | .waitv x => g.onceNames x.cond [x.ch, x.n]
  | .waitw x => g.onceNames x.cond x.n.toList
  | .bar x | .barc x | .barg x => g.onceNames x.cond x.count.toList
  | .spawn x => g.laneNames x.g fun ls => range ls x.a.val 14 ++ g.names false ls x.b
  | .lexit x => g.laneOps x.g []
  | .trace x => g.laneNames x.g fun ls =>
      range ls x.a.val 10 ++ g.names false [] x.base ++ (x.table.map RegName.s).toList ++ x.sh.toList.map .h
  | .trres x => g.laneNames x.g fun ls =>
      (toOps [x.t, x.uv]).flatMap (g.names false ls) ++ g.names false [] x.base ++ x.sh.toList.map .h
  | .trstat x => g.laneOps x.g [.h x.h]
  | _ => []

/-! ### The machine check of a register (R375) -/

/-- SUB and XINFO of an erroneous register. -/
def RegName.report : RegName → Byte × Word64
  | .s n => (1, BitVec.ofNat 64 n.val)
  | .v n i => (2, BitVec.ofNat 64 (n.val + 256 * i.val))
  | .k n => (3, BitVec.ofNat 64 n.val)
  | .h n => (4, BitVec.ofNat 64 n.val)
  | .special n => (5, n.setWidth 64)

/-- The trap of an instruction that reads a register with an uncorrectable error. Where it reads several, which one is
reported is open (notes/assumptions/110). -/
def Group.machineCheck (g : Group) (i : Instr) : Option TrapReq :=
  if g.errs.isEmpty then none
  else
    let bad := (g.sources i).filter g.errs.contains
    match bad[Config.reportedError g.pc bad.length % bad.length]? with
    | none => none
    | some n => some (g.trapHere 0x0F n.report.1 n.report.2)

/-! ### Errors arise (R192, R453) -/

/-- A special register of the group takes a value as it stands; none for a number that names no register kept by the
group. -/
def Group.upsetSpecial (g : Group) (n : BitVec 8) (x : Word64) : Option Group :=
  let w := x.extractLsb' 0 32
  match n.toNat with
  | 0x00 => some { g with status := mkStatus (w.extractLsb' 12 4) (w.getLsbD 2) (w.getLsbD 1) (w.getLsbD 0) }
  | 0x01 => some { g with sc := w.extractLsb' 0 4 }
  | 0x02 => some { g with exec := w &&& ~~~g.exitm }
  | 0x04 => some { g with fmt := g.fmt.set 0 w }
  | 0x05 => some { g with fmt := g.fmt.set 1 w }
  | 0x06 => some { g with fmt := g.fmt.set 2 w }
  | 0x07 => some { g with fmt := g.fmt.set 3 w }
  | 0x08 => some { g with wdog := w }
  | 0x09 => some { g with trapbase := x }
  | 0x0A => some { g with xpc := x }
  | 0x0B => some { g with xcause := x }
  | 0x0C => some { g with xinfo := x }
  | 0x0D => some { g with xscratch := x }
  | 0x10 => some { g with groupid := w }
  | 0x11 => some { g with teamid := w }
  | 0x12 => some { g with clusterid := w }
  | 0x15 => some { g with cbase := x }
  | 0x16 => some { g with csize := w }
  | _ => none

/-- A register of the group keeps an erroneous value; S0 and K0 are constants (R6, R39). -/
def Group.upset (g : Group) (n : RegName) (x : Word64) : Option Group :=
  let w := x.extractLsb' 0 32
  let g? := match n with
    | .s k => if k = 0 then none else some { g with s := g.s.set k x }
    | .v k i => some (g.putV k (1#32 <<< i.val) fun _ => w)
    | .k k => if k = 0 then none else some { g with k := g.k.set k w }
    | .h k => some { g with h := g.h.set k { g.h.get k with tag := w } }
    | .special k => g.upsetSpecial k x
  g?.map fun h => { h with errs := n :: h.errs.filter (· != n) }

/-- A byte of a typed-store window keeps an erroneous value. -/
def Team.upset (t : Team) (sp : Space) (a : Nat) (b : Byte) : Team :=
  if a < t.size sp then { t.put sp a [b] with errs := (sp, a) :: t.errs.filter (· != (sp, a)) } else t

/-- A byte of the RSF or of a TT register keeps an erroneous value. -/
def Matrix.upset (m : Matrix) (n : MxName) (a : Nat) (b : Byte) : Matrix :=
  let m := { m with errs := n :: m.errs.filter (· != n) }
  match n with
  | .rsf row => { m with rsf := m.rsf.write (2048 * row.val + a % 2048) b }
  | .tt i => if i = 0 then { m with tt0 := m.tt0.write (a % 24608) b } else { m with tt1 := m.tt1.write (a % 24608) b }

/-- A check of R192 finds an error; each is counted (R453). -/
def State.upset (s : State) (u : Upset) : State :=
  match u with
  | .corrected p => s.countError p 1 0
  | .register r n x =>
    match (s.groups.find? fun g => g.ref == r && g.active).bind fun g => g.upset n x with
    | some _ => (s.atGroup r fun s => { s with g := (s.g.upset n x).getD s.g }).countError .files 0 1
    | none => s
  | .store team sp a b => (s.modTeam team fun t => t.upset sp a b).countError .files 0 1
  | .matrix c n a b => (s.modCore c fun k => { k with mx := k.mx.upset n a b }).countError .files 0 1
  | .l1 c line => (s.modCore c fun k => { k with l1 := k.l1.filter (·.line != line), ro := k.ro.filter (·.line != line) }).countError
      .l1 1 0
  | .line l =>
    let r := s.row (128 * l)
    if r = .host ∨ r = .nothing ∨ s.dirty.any (·.1 == l) ∨ s.poison.contains l then s
    else (s.poisonLines [l]).countError .line 0 1

end Sys2Proof.Machine
end

