-- ==== Sys2Proof/Machine/Fetch.lean ====
section
/-! DEFINITION. Fetch and the issue choice at one offset: fetch blocks (R14 to R16), safe points (R25, R108), plane
regions (R100 to R108), and the order of the checks of R50. -/

namespace Sys2Proof.Machine

/-- What reading code comes to. -/
inductive Code where
  /-- Bits [63:0] and [127:64] at the offset, zero beyond the fetch block. -/
  | word (w hi : Word64) (s : State)
  | wait (s : State)
  | trap (t : TrapReq) (s : State)

/-- SUB of cause 0x03 (R372). -/
def fetchSub (status : Byte) : Byte :=
  match status.toNat with
  | 3 => 1
  | 4 => 2
  | _ => 3

/-- A store to a fetch block is on its way: it stands in a write path, or part of it in a store FIFO, whosever and by whatever
address: an alias agrees in the address within a page of 4 KiB. -/
def State.storing (s : State) (pa : Nat) : Bool :=
  (s.cores.toList.any fun d => d.toList.any fun k => k.path.any fun e => decide (e.pa < pa + 32 ∧ pa < e.pa + e.bytes.length))
    || s.groups.any fun h => h.active && h.fifo.any fun e =>
      e.sp == .glob && e.lanes.any fun a =>
        decide (a.addr % 4096 < pa % 4096 + 32 ∧ pa % 4096 < a.addr % 4096 + e.width)

/-- Memory as fetch may see it: as it stood at launch, or as it stands (R14). -/
def State.codeMem (s : State) (old : Bool) : Mem :=
  if old then
    match s.launch? s.g.launch with
    | some l => l.code
    | none => s.mem
  else s.mem

/-- Read the word at an offset from CBASE, and what follows it in its fetch block; the access is the block's (R15, R16, R389;
notes/assumptions/53). While a store to the block is on its way the block is as it stood at launch, so that it never mixes
old and new bytes (R14; notes/assumptions/112). -/
def State.fetchAt (s : State) (old : Bool) (off : Nat) : Code :=
  let va := s.g.cbase.toNat + off
  let block := va / 32 * 32
  match s.translate s.g.coreRef (.fetch s.g.ref block) s.g.ctx block .fetch false with
  | .wait t => .wait t
  | .bad st _ t => .trap (t.g.trapHere 3 (fetchSub st) (BitVec.ofNat 64 va)) t
  | .ok pa s =>
    if s.poisoned pa 32 then .trap (s.g.trapHere 3 3 (BitVec.ofNat 64 va)) s
    else
      let bs := (s.codeMem (old || s.storing pa)).bytes (pa + va % 32) (min 16 (32 - off % 32))
      .word (BitVec.ofNat 64 (leNat (bs.take 8))) (BitVec.ofNat 64 (leNat (bs.drop 8))) s

/-- Length code 0b11 (R52). -/
def isSkip (w : Word64) : Bool := w.extractLsb' 0 2 == 3#2

/-- Bytes of the form that a length code other than 0b11 names (R15). -/
def wordBytes (w : Word64) : Nat := 8 + 4 * (w.extractLsb' 0 2).toNat

def opOf (w : Word64) : Nat := (w.extractLsb' 6 8).toNat

/-- PIDLE (R72); a skip code is none, whatever its other bits hold (R52). -/
def isPidle (w : Word64) : Bool := opOf w == 0x3A && !isSkip w

/-- A LIVE word: fetch that reaches it takes it for a no-op, whatever plane it stands in (R25; notes/assumptions/113). -/
def isLive (w : Word64) : Bool := opOf w == 0x3F && w.extractLsb' 0 4 == 0#4

/-- Uniform-class words (R107). A LIVE word that fetch reaches is a no-op to which no check of placement applies (R25;
notes/assumptions/113). -/
def isUniform (w : Word64) : Bool :=
  let op := opOf w
  if op < 0x40 then !([0x1F, 0x32, 0x33, 0x3A, 0x3D, 0x3E, 0x3F].contains op)
  else decide (0xC0 ≤ op ∧ op ≤ 0xC9) || decide (0xE0 ≤ op ∧ op ≤ 0xF2)

/-- OncePerGroup of R103: by the class table of R44; an unassigned opcode counts as lane-executed. -/
def isOncePerGroup (w : Word64) : Bool :=
  let op := opOf w
  if op < 0x40 then op != 0x1F && op != 0x3D && op != 0x3E
  else if op < 0xA0 then op == 0x90 || op == 0x91
  else if op < 0xC0 then [0xA0, 0xA1, 0xAB, 0xAC, 0xAF, 0xB0, 0xB1, 0xB2, 0xB3].contains op
  else decide (op ≤ 0xC9) || (decide (0xE0 ≤ op ∧ op ≤ 0xEE) && op != 0xED)

/-- The word marks a safe point; in a LIVE word bit [5] is none (R25). -/
def isSafePoint (w : Word64) : Bool := w.getLsbD 5 && opOf w != 0x3F

/-- The LIVE word of the safe-point word at an offset, when it stands where R25 wants it. -/
def liveAfter (off : Nat) (w next : Word64) : Option LiveWord :=
  let ok := decide (off % 32 + wordBytes w + 8 ≤ 32) && next.extractLsb' 0 2 == 0#2 && opOf next == 0x3F
    && !next.getLsbD 5 && !next.getLsbD 4
  if ok then some (LiveWord.ofBits next) else none

/-- The 64 bits that follow a word in its fetch block. -/
def State.afterWord (s : State) (old : Bool) (off : Nat) (w : Word64) : Word64 :=
  match s.fetchAt old (off + wordBytes w) with
  | .word x _ _ => x
  | _ => 0

/-- A plane of a region with members of its own (R96). -/
def Group.occupied (g : Group) (p : Nat) : Bool := if h : p < 4 then g.memberOf ⟨p, h⟩ != 0 else false

/-- PLERR is set while an active lane's PLN lies beyond the region's planes, where the planes of the offset have their turns
(R103, R104; notes/assumptions/134). -/
def Group.checkPln (g : Group) (npl : Nat) : Group :=
  if (maskOf fun i => g.exec.getLsbD i.val && decide (npl ≤ (g.pln.get i).toNat)) = 0 then g else g.setPlerr true

/-- What an issue step comes to. -/
inductive Issue where
  /-- Nothing issues. -/
  | none (s : State)
  /-- A plane of the offset that does not go is passed over (R103). -/
  | pass (s : State)
  | run (i : Instr) (s : State)

/-- The outcome of a scan over planes 1 to NPL - 1; `bad` for a word that may not stand there. -/
inductive Scan where
  | ok (s : State)
  | wait (s : State)
  | trap (t : TrapReq) (s : State)
  | bad (p : Nat) (w hi : Word64) (s : State)

/-- Look at the words of the occupied planes `p` to `p + n - 1` of the offset. -/
def State.scanPlanes (s : State) (old : Bool) (r : Region) (good : Word64 → Bool) (p : Nat) : Nat → Scan
  | 0 => .ok s
  | n + 1 =>
    if s.g.occupied p then
      match s.fetchAt old (s.g.pc.toNat + p * r.stride) with
      | .wait t => .wait t
      | .trap t s => .trap t s
      | .word w hi s => if good w then s.scanPlanes old r good (p + 1) n else .bad p w hi s
    else s.scanPlanes old r good (p + 1) n

/-- A trap that resumes at plane `p`'s word of the offset. -/
def Group.trapAt (g : Group) (p : Nat) (r : Region) (code sub : Byte) (info : Word64) : TrapReq :=
  { code, sub, info, rbase := BitVec.ofNat 32 r.base, off := g.pc + BitVec.ofNat 32 (p * r.stride) }

/-- A word that issues: the checks of R50 from order 2 to 8, the machine check of R375 first among them once the word is an
instruction, then the placement of R107 at order 9: `place` is a trap that the offset has for the word, and a plane other
than 0 holds no uniform-class word and no safe point. -/
def State.examine (s : State) (w hi : Word64) (live : Option LiveWord) (place : Option TrapReq) : Issue :=
  match decode s.g.valloc w hi with
  | .error r => .run (.illegalInstruction r.sub w) s
  | .ok i =>
    if let some t := s.g.machineCheck i then .none (s.boundary (.trap t))
    else if isSafePoint w && live.isNone then .run (.illegalInstruction 5 w) s
    else if let some t := place then .none (s.boundary (.trap t))
    else if s.g.region.isSome && s.g.plane != 0 && (isUniform w || isSafePoint w) then
      .none (s.boundary (.trap (s.g.trapHere 4 1 w)))
    else .run i s

/-- The word of plane `p`, which goes, has another length code than plane 0's: sub-cause 2, after the checks of R50 on the
word itself (R103, R107; notes/assumptions/129). -/
def State.misfit (s : State) (old : Bool) (r : Region) (p : Nat) (w hi : Word64) : Issue :=
  let s := { s with g := { s.g with plane := Fin.ofNat 4 p } }
  let off := s.g.pc.toNat + p * r.stride
  let t := s.g.trapHere 4 2 w
  if isSkip w then .none (s.boundary (.trap t)) else s.examine w hi (liveAfter off w (s.afterWord old off w)) (some t)

/-- A plane of the offset that does not go is passed over, with the length of plane 0's word (R103). -/
def State.passOver (s : State) (w : Word64) : Issue :=
  .pass (s.advance { Ctl.plain with len := match wordBytes w with
    | 8 => .l64
    | 12 => .l96
    | _ => .l128 })

/-- The turn of plane `s.g.plane` at an offset of a region (R103); `place` is a trap of plane 0's word (R107). -/
def State.planeTurn (s : State) (old : Bool) (r : Region) (w hi : Word64) (live : Option LiveWord)
    (place : Option TrapReq) : Issue :=
  let s := { s with g := { s.g.checkPln r.npl with fresh := false, span := wordBytes w } }
  let p := s.g.plane.val
  if p = 0 then if s.g.occupied 0 || isOncePerGroup w then s.examine w hi live place else s.passOver w
  else if !s.g.occupied p then s.passOver w
  else
    let off := s.g.pc.toNat + p * r.stride
    match s.fetchAt old off with
    | .wait t => .none t
    | .trap t s => .none (s.boundary (.trap t))
    | .word x xhi s =>
      if x.extractLsb' 0 2 != w.extractLsb' 0 2 && !isLive x then s.misfit old r p x xhi
      else s.examine x xhi (liveAfter off x (s.afterWord old off x)) none

/-- On reaching an offset of a region where plane 0 holds a word: what R103 and R108 want of the other planes and of a safe
point before anything issues there. Where plane 0 goes, its own word is decoded before the trap of its placement (R50,
R107, R373). -/
def State.arriveRegion (s : State) (old : Bool) (r : Region) (w hi : Word64) (live : Option LiveWord) : Issue :=
  let go (s : State) (place : Option TrapReq) : Issue :=
    let trap (t : TrapReq) : Issue := .none (s.boundary (.trap t))
    if s.g.plane = 0 ∧ (s.g.occupied 0 || isOncePerGroup w) then s.planeTurn old r w hi live place
    else if isSafePoint w && live.isNone then trap (s.g.trapAt 0 r 1 5 w)
    else
      match place with
      | some t => trap t
      | none => s.planeTurn old r w hi live none
  match if isUniform w then s.scanPlanes old r isPidle 1 (r.npl - 1) else .ok s with
  | .ok s => go s none
  | .bad p _ _ s => go s (some (s.g.trapAt 0 r 4 4 (BitVec.ofNat 64 (s.g.pc.toNat + p * r.stride))))
  | .wait s => .none s
  | .trap t s => .none (s.boundary (.trap t))

/-- A skip code in plane 0 of a region wants one in every plane that goes (R103); a LIVE word there is a no-op (R25). -/
def State.skipRegion (s : State) (old : Bool) (r : Region) (w : Word64) : Issue :=
  match s.scanPlanes old r (fun x => isSkip x || isLive x) 1 (r.npl - 1) with
  | .ok s => .run (.skipCode (w.extractLsb' 2 30)) s
  | .bad p x hi s => s.misfit old r p x hi
  | .wait s => .none s
  | .trap t s => .none (s.boundary (.trap t))

/-- The word at PC has been read: the fetch conditions of R16, of which the end past CSIZE has the higher priority (R373), then
the offset's issue (R50, R103). -/
def State.issueWord (s : State) (old : Bool) (w hi : Word64) : Issue :=
  let g := s.g
  let pc := g.pc.toNat
  if isSkip w then
    match g.region with
    | none => .run (.skipCode (w.extractLsb' 2 30)) s
    | some r => s.skipRegion old r w
  else if g.csize.toNat < pc + wordBytes w then .none (s.boundary (.trap (g.trapHere 2 0 (g.pc.setWidth 64))))
  else if 32 < pc % 32 + wordBytes w then .run (.illegalInstruction 4 w) s
  else
    let live := if isSafePoint w then liveAfter pc w (s.afterWord old pc w) else none
    match g.region with
    | none => { s with g := { g with live := live, fresh := false } }.examine w hi live none
    | some r =>
      if g.fresh then { s with g := { g with live := live } }.arriveRegion old r w hi live
      else s.planeTurn old r w hi live none

/-- The focused group's next issue, from its code as it stood at launch when `old` (R14). A PC at or past CSIZE is a trap
before any fetch (notes/assumptions/56). A group that SPAWN holds issues nothing and is at no run boundary (R159). -/
def State.issueNext (s : State) (old : Bool) : Issue :=
  if s.g.run ≠ .ready ∨ !s.g.spawnq.isEmpty ∨ (s.core s.g.coreRef).gated then .none s
  else if s.g.csize.toNat ≤ s.g.pc.toNat then .none (s.boundary (.trap (s.g.trapHere 2 0 (s.g.pc.setWidth 64))))
  else
    match s.fetchAt old s.g.pc.toNat with
    | .wait t => .none t
    | .trap t s => .none (s.boundary (.trap t))
    | .word w hi s => s.issueWord old w hi

end Sys2Proof.Machine
end

