-- ==== Sys2Proof/Machine/MemEv.lean ====
section
/-! DEFINITION. The steps that follow a group's memory instructions: results and stores performed, atomics served,
walks, the pager, and the care of L2 (R20, R29, R73, R184, R192, R194, R200, R201, R228, R383, R388, R389). -/

namespace Sys2Proof.Machine

/-! ### Results (R20, R200, R377) -/

/-- Perform what can be performed of an outstanding result. -/
def State.perform (s : State) (p : Pend) : State × Pend :=
  match p.kind with
  | .load .glob ro => s.performGlobal p ro
  | .load sp _ => s.performTyped p sp
  | .seal clear vpn npg => s.performSeal p clear vpn npg
  | _ => (s, p)

/-- An access of the read-only path, which stands in no order (R13, R209). -/
def Pend.isRo (p : Pend) : Bool :=
  match p.kind with
  | .load _ ro => ro
  | _ => false

/-- An unperformed load or seal holds back every later load (R200, R203, R230). An atomic does so as an acquire, from the
store FIFO. -/
def Pend.blocks (p : Pend) : Bool :=
  match p.kind with
  | .load _ _ => true
  | .seal _ _ _ => true
  | _ => false

def Group.setPend (g : Group) (p : Pend) : Group := { g with log := g.log.map fun q => if q.seq = p.seq then p else q }

/-- Perform one outstanding result, as far as it goes; whether it is performed now. -/
def State.tryPend (s : State) (p : Pend) : State × Bool :=
  let r := s.perform p
  ({ r.1 with g := r.1.g.setPend r.2 }, r.2.performed)

/-- Perform loads in program order, as far as the order lets them (R200 to R204); those of the read-only path never wait
(R13). `held` tells that an earlier access holds the rest back. -/
def State.performUpTo (s : State) (held : Bool) : List Pend → State
  | [] => s
  | p :: ps =>
    if p.performed then s.performUpTo held ps
    else if p.isRo then (s.tryPend p).1.performUpTo held ps
    else if held || s.g.acquireAhead p.seq then s.performUpTo true ps
    else
      match s.passFences p.seq false s.g.fences with
      | none => s.performUpTo true ps
      | some s => let r := s.tryPend p; r.1.performUpTo (p.blocks && !r.2) ps

/-- The value of a lane of a performed result. -/
def Pend.value (p : Pend) (i : Lane) : Word64 := ((p.lanes.find? fun a => a.lane == i).bind LaneAcc.val).getD 0

/-- Write a performed result to the registers whose last write in program order it is (R20, R377). -/
def Group.deliver (g : Group) (p : Pend) : Group :=
  let lo (i : Lane) : Word := (p.value i).extractLsb' 0 32
  let g := { g with log := g.log.filter (·.seq != p.seq) }
  let g := match p.dst with
    | .none => g
    | .s n => if p.due.getLsbD 0 then (g.putS n (p.value 0)).cut p.seq (.s n) p.due else g
    | .v n => (g.putV n p.due lo).cut p.seq (.v n) p.due
    | .vpair n =>
      let g := (g.putV n p.due lo).cut p.seq (.v n) p.due
      (g.putV (pairHi n) p.dueHi fun i => (p.value i).extractLsb' 32 32).cut p.seq (.v (pairHi n)) p.dueHi
  match p.kind, p.dueSc with
  | .computed (some sc), true => { g.clean (.special 1) with sc := sc }.cut p.seq .sc 0
  | _, _ => g

/-- A park ends once nothing is outstanding (R20). -/
def State.endPark (s : State) : State :=
  match s.g.run with
  | .parked b => if s.g.log.isEmpty then s.settle b else s
  | _ => s

/-- Result `i` of the group's log is written, when it can be performed (R20). -/
def execVariableLatencyResult (r : GroupRef) (i : Nat) (s : State) : Host.Outcome State Fault Refusal :=
  .next (s.atGroup r fun s =>
    match s.g.log[i]? with
    | none => s
    | some p =>
      let s := s.performUpTo false (s.g.log.take (i + 1))
      match s.g.log.find? (·.seq == p.seq) with
      | some q => if q.performed then { s with g := s.g.deliver q }.endPark else s
      | none => s)

/-! ### Watchdog and sleep (R28, R29, R73) -/

/-- The group counts watchdog cycles (R28). -/
def Group.resident (g : Group) : Bool :=
  match g.run with
  | .ready | .parked _ | .waiting _ _ | .exiting => true
  | _ => false

/-- The end of a cycle for a group: what it issues in the cycle comes before, so that a SETSR to WDOG takes precedence over
an expiry (R70). -/
def State.spent (s : State) : State :=
  (s.openCycle s.g.coreRef).modCore s.g.coreRef fun k => { k with issue := { k.issue with spent := s.g.slot :: k.issue.spent } }

/-- The place of a barrier that is issued again without arriving (R157). -/
def Group.oweAt (g : Group) : Group :=
  if g.tm then { g with owesH := some g.planeAddr } else { g with owes := some g.planeAddr }

/-- The count has reached zero: WDX and the trap at the next run boundary, at once for a waiting group, or the abort of
the launch (R29, R73, R174); a sleep ends whether or not a trap follows (R73). -/
def execWatchdogExpiry (r : GroupRef) (s : State) : Host.Outcome State Fault Refusal :=
  .next (s.atGroup r fun s =>
    let g := s.g
    if g.wdog = 0 ∨ g.wcnt ≠ 0 ∨ !g.resident then s
    else if g.wdx then s.abortLaunch g.launch (s.report 3 0x0A 0 0 (g.xpc.extractLsb' 32 32) g.planeAddr)
    else
      let g := { g.setWdx true with wcnt := g.wdog.toNat * 1024, wdue := g.wdue || !g.tm }
      let s := State.spent { s with g := g }
      match g.run with
      | .waiting _ (.sleep _) =>
        let s := { s with g := { g with run := .ready } }
        if g.tm then s else s.boundary .wait
      | .waiting _ (.barrier _ _ true _) => if g.tm then s else { s with g := { g.oweAt with run := .ready } }.boundary .wait
      | .waiting _ _ => if g.tm then s else { s with g := { g with run := .ready } }.boundary .wait
      | _ => s)

/-- A sleep ends (R73). -/
def execSleepExpiry (r : GroupRef) (s : State) : Host.Outcome State Fault Refusal :=
  .next (s.atGroup r fun s =>
    match s.g.run with
    | .waiting _ (.sleep 0) => { s with g := { s.g with run := .ready } }
    | _ => s)

/-! ### Atomic operations (R224) -/

/-- What an atomic writes, from the old element, the data and the compare element; none where it writes nothing. -/
def aopNew (op : Aop) (ty : Ty) (old v cmp : Nat) : Option Nat :=
  let w := 8 * ty.bytes
  let le := if ty.isSigned then decide ((BitVec.ofNat w old).toInt ≤ (BitVec.ofNat w v).toInt) else decide (old ≤ v)
  match op with
  | .xchg => some v
  | .cas => if old = cmp then some v else none
  | .add => some ((old + v) % 2 ^ w)
  | .min => some (if le then old else v)
  | .max => some (if le then v else old)
  | .and => some (old &&& v)
  | .or => some (old ||| v)
  | .xor => some (old ^^^ v)
  | .fadd => some ((fmtOf ty).round .rne false (((fmtOf ty).decode old).add .rne ((fmtOf ty).decode v)))
  | .fmin => some (fp32.minMax false false old v)
  | .fmax => some (fp32.minMax true false old v)
  | .famax => some (amaxCanon (BitVec.ofNat 32 old) (BitVec.ofNat 32 v)).toNat

/-- The low bytes of an element. -/
def lowBytes (ty : Ty) (x : Word64) : Nat := x.toNat % 2 ^ (8 * ty.bytes)

/-- The old value of an atomic's lane reaches the log (R225). -/
def Group.atomValue (g : Group) (seq : Nat) (i : Lane) (val : Word64) : Group :=
  { g with log := g.log.map fun p =>
      if p.seq = seq ∧ p.kind = .atomic then
        { p with lanes := p.lanes.map fun a => if a.lane = i then { a with val := some val } else a }
      else p }

/-- A lane of an atomic is lost to a fault: its destination keeps its value (R234). -/
def Group.atomLost (g : Group) (seq : Nat) (i : Lane) : Group :=
  { g with log := g.log.map fun p => if p.seq = seq then p.withLanes (p.lanes.filter (·.lane != i)) else p }

/-! ### Stores leave the FIFO (R138, R200, R226) -/

/-- An element of the head entry is done; the entry leaves with its last one. -/
def Group.laneLeft (g : Group) (seq : Nat) (i : Lane) : Group :=
  let f := g.fifo.map fun e => if e.seq = seq then { e with lanes := e.lanes.filter (·.lane != i) } else e
  { g with fifo := f.filter fun e => !(e.seq == seq && e.lanes.isEmpty) }

/-- An element of the head entry meets a fault that cannot be replayed (R234): nothing of it or of what follows is
written. A lane of an atomic is a separate access: the others go on. -/
def State.laneFault (s : State) (e : FifoEntry) (a : LaneAcc) (st : Byte) : State :=
  let s := s.deferWrite ⟨e.seq, a.lane.val, faultCode st, e.accessKind, accessInfo e.scalar a.lane a.addr, true⟩
  match e.kind with
  | .atomic _ => { s with g := (s.g.laneLeft e.seq a.lane).atomLost e.seq a.lane }
  | _ => { s with g := { s.g with fifo := s.g.fifo.filter (·.seq != e.seq), log := s.g.log.filter (·.seq != e.seq) } }

/-- A store to global memory becomes visible to the core: it enters the core's write path and updates a line that L1
holds (R181, R200). -/
def State.storeOut (s : State) (e : FifoEntry) (pa : Nat) (bs : List Byte) : State :=
  s.modCore s.g.coreRef fun k =>
    { k with
      path := k.path ++ [⟨k.pathN, s.g.ctx, pa, bs, if e.ord.releases && e.sco.wide then some (e.sco, s.party) else none⟩]
      pathN := k.pathN + 1
      l1 := k.l1.map fun x => if x.line = lineOf pa then { x with data := x.data.writes pa bs } else x }

/-- The first element of a store (R137, R190). -/
def State.leaveStore (s : State) (e : FifoEntry) (a : LaneAcc) : State :=
  let bs := leBytes e.width a.data.toNat
  if e.sp = .glob then
    match s.translate s.g.coreRef (.store s.g.ref e.seq a.lane) s.g.ctx a.addr .write false with
    | .wait t => t
    | .bad st _ t => t.laneFault e a st
    | .ok pa s =>
      if s.sealedAt s.g.die s.g.ctx a.addr then s.laneFault e a 5
      else
        let s := s.storeOut e pa bs
        { s with g := s.g.laneLeft e.seq a.lane }
  else if s.heldByEngine e.sp e.seq a.addr e.width true then s
  else
    let s := s.modTeam s.g.team fun t => t.put e.sp a.addr bs
    { s with g := s.g.laneLeft e.seq a.lane }

/-- The first element of an ATOML, at the L-store (R226); one that reads an erroneous byte has a machine check (R375). -/
def State.leaveAtoml (s : State) (e : FifoEntry) (op : Aop) (a : LaneAcc) : State :=
  if s.heldByEngine e.sp e.seq a.addr e.width true then s
  else
    match s.badByte s.g.team e.sp a.addr e.width fun _ => true with
    | some b =>
      let s := s.deferWrite (checkByte e.seq a.lane.val e.sp b true)
      { s with g := (s.g.laneLeft e.seq a.lane).atomLost e.seq a.lane }
    | none =>
      let old := (s.windowMem e.sp).nat a.addr e.width
      let s := match aopNew op e.ty old (lowBytes e.ty a.data) (lowBytes e.ty a.cmp) with
        | some v => s.modTeam s.g.team fun t => t.put e.sp a.addr (leBytes e.width v)
        | none => s
      { s with g := (s.g.laneLeft e.seq a.lane).atomValue e.seq a.lane (extendLoad e.ty (BitVec.ofNat 64 old)) }

/-- A release that may reach L2 ahead of stores on its core's path is told to those that synchronise with it (R199). -/
def State.publishAhead (s : State) (c : CoreRef) (pa len : Nat) (sco : Scope) (by' : Party) (before : List PathEntry) : State :=
  if before.isEmpty then s else { s with ahead := s.ahead ++ [⟨c, pa, len, sco, by', before.map PathEntry.n⟩] }

/-- A store of a core has reached L2: releases no longer wait for it. -/
def State.caughtUp (s : State) (c : CoreRef) (n : Nat) : State :=
  let drop (x : Ahead) : Ahead := if x.core = c then { x with waits := x.waits.erase n } else x
  { s with ahead := (s.ahead.map drop).filter fun x => !x.waits.isEmpty }

/-- A store on a core's path goes to the same slice of the other die as an address: what a core sends there arrives in the order
in which it was sent (R409). -/
def State.crossesTo (s : State) (c : CoreRef) (p : PathEntry) (pa : Nat) : Bool :=
  s.homeDie pa != c.die && s.sameSlice (lineOf p.pa) (lineOf pa)

/-- Send every element of an atomic to its slice, once all are translated and no store of the core to the same bytes is
still on its way (R182, R200, R226). -/
def State.sendAtomic (s : State) (e : FifoEntry) (op : Aop) : State :=
  let r := s.translateAll (fun i => .store s.g.ref e.seq i) .write true e.lanes
  let s := (r.2.filter fun x => match x.2 with | .bad _ => true | _ => false).foldl
    (fun s x => match x.2 with | .bad st => s.laneFault e x.1 st | _ => s) r.1
  let oks := r.2.filterMap fun x => match x.2 with | .ok pa => some (x.1, pa) | _ => none
  let c := s.g.coreRef
  if r.2.any (fun x => x.2 == .wait)
      || (oks.any fun x => (s.core c).path.any fun p => p.touches x.2 e.width || s.crossesTo c p x.2) then s
  else
    let s := oks.foldl (fun s x => s.dropL1Line c (lineOf x.2)) s
    let s := if e.ord.releases && e.sco.wide then
        oks.foldl (fun s x => s.publishAhead c x.2 e.width e.sco s.party (s.core c).path) s
      else s
    let s := oks.foldl (fun s x =>
      let d := s.homeDie x.2
      let q : AtomReq := { port := portOf s.g.die d (some s.g.core) (hash7 x.2), slice := hash7 x.2, who := s.g.ref, seq := e.seq,
                           lane := x.1.lane, ctx := s.g.ctx, va := x.1.addr, pa := x.2, op, ty := e.ty,
                           data := x.1.data, cmp := x.1.cmp }
      s.modDie d fun y => { y with atom := y.atom ++ [q] }) s
    { s with g := { s.g with fifo := s.g.fifo.map fun f => if f.seq = e.seq then { f with sent := true } else f } }

/-- A QPUT at the head: its index is reserved, then its entry is written once the ring has room (R255, R269). What it reads and
writes at L2 leaves the core's L1, so that no later load of the group reads an older value (R196). -/
def State.leaveQput (s : State) (e : FifoEntry) (ch : BitVec 12) (img : List Byte) (idx : Option Nat) : State :=
  let g := s.g
  let ccb := s.ccbVa g.die g.ctx ch
  let via : Via := fun s va cls atomic =>
    match viaGroup e.seq s va cls atomic with
    | .ok pa t => .ok pa (t.dropL1Line g.coreRef (lineOf pa))
    | t => t
  let fault (s : State) (st : Byte) (va : Nat) := s.laneFault e (elemAt 0 va) st
  let result (s : State) (v : Nat) : State :=
    let h := s.g.laneLeft e.seq 0
    { s with g := { h with log := h.log.map fun p =>
        if p.seq = e.seq then { p with lanes := p.lanes.map fun a => { a with val := some (BitVec.ofNat 64 v) } } else p } }
  let put (s : State) (i : Nat) : State :=
    let s := { s with g := { s.g with fifo := s.g.fifo.map fun f =>
      if f.seq = e.seq then { f with kind := .qput ch img (some i) } else f } }
    match putEntry via g.die g.ctx s ccb i img with
    | .ok .full s => s
    | .ok .written s => result s (i + 1)
    | .wait s => s
    | .bad st f s => fault s st f.va
  match idx with
  | some i => put s i
  | none =>
    match reserve via g.coreRef g.ctx s ccb with
    | .ok none s => result s 0
    | .ok (some i) s => put s i
    | .wait s => s
    | .bad st f s => fault s st f.va

/-- The head of the focused group's store FIFO is performed, one element at a time, once every earlier read has its
value and every fence before it is met (R197, R200, R204). -/
def State.fifoLeave (s : State) : State :=
  match s.g.fifo with
  | [] => s
  | e :: _ =>
    if !s.g.readsBefore e.seq then s
    else
      match s.passFences e.seq true s.g.fences with
      | none => s
      | some s =>
        match e.kind, e.lanes with
        | _, [] => { s with g := { s.g with fifo := s.g.fifo.filter (·.seq != e.seq) } }
        | .store, a :: _ => s.leaveStore e a
        | .atomic op, a :: _ =>
          if e.sp = .glob then
            if e.sent then s else s.sendAtomic e op
          else s.leaveAtoml e op a
        | .qput ch img idx, _ => if s.pathClear then s.leaveQput e ch img idx else s

/-- The head moves on; a park that waited only for results that a fault discards ends with it (R234, R374). -/
def execStoreFifoLeave (r : GroupRef) (s : State) : Host.Outcome State Fault Refusal :=
  .next (s.atGroup r fun s => s.fifoLeave.endPark)

/-- A QPUT that waited for ring space goes on as it left (R255). -/
def execQputRingWaitEnd (r : GroupRef) (s : State) : Host.Outcome State Fault Refusal :=
  .next (s.atGroup r fun s =>
    match s.g.fifo with
    | e :: _ =>
      match e.kind with
      | .qput _ _ (some _) => s.fifoLeave.endPark
      | _ => s
    | [] => s)

/-- A store reaches its slice: none earlier on the path touches its bytes or goes to the same slice of the other die (R201,
R409). A release may come there ahead of what it publishes: only who synchronises with it then waits for that (R199, R202). -/
def execStoreReachL2 (c : CoreRef) (i : Nat) (s : State) : Host.Outcome State Fault Refusal :=
  .next (
    let path := (s.core c).path
    match path[i]? with
    | none => s
    | some e =>
      let before := path.take i
      if before.any fun p => p.touches e.pa e.bytes.length || s.crossesTo c p e.pa then s
      else
        let go (s : State) :=
          ((s.modCore c fun k => { k with path := path.eraseIdx i }).writeL2 e.ctx e.pa e.bytes).caughtUp c e.n
        match e.rel with
        | none => go s
        | some (sco, by') => go (s.publishAhead c e.pa e.bytes.length sco by' before))

/-! ### Atomic engines (R184, R206) -/

/-- The request that a slice serves next: the oldest of the port whose turn it is (R184). -/
def Die.nextAtom (d : Die) (slice : Fin 128) : Option AtomReq :=
  let qs := d.atom.filter (·.slice == slice)
  (nextPort (d.served.get slice) fun p => qs.any fun q => q.port == p).bind fun p => qs.find? fun q => q.port == p

/-- The request is an acquire that waits for what the release it reads publishes (R203). -/
def State.acquireWaits (s : State) (q : AtomReq) : Bool :=
  match s.focus q.who with
  | none => false
  | some t => t.g.fifo.any fun e =>
      e.seq == q.seq && e.ord.acquires && e.sco.wide && t.aheadOf e.sco fun x => x.touches q.pa q.ty.bytes

/-- The last element of an acquire at .clu or wider is served, or lost to a fault: the core's L1 lines are dropped before any
later access (R203). -/
def State.atomAcquired (s : State) (e : FifoEntry) : State :=
  if e.ord.acquires && e.sco.wide && !(s.g.fifo.any (·.seq == e.seq)) then s.dropL1 s.g.coreRef else s

/-- An element is performed: seal, poison, then read and write in one step, for a group of either die (R188, R193, R206, R207,
R410); `put` is how the value is written. -/
def State.serveAtom (s : State) (q : AtomReq) (put : State → BitVec 12 → Nat → List Byte → State) : State :=
  let w := q.ty.bytes
  s.atGroup q.who fun s =>
    let a := elemAt q.lane q.va
    match s.g.fifo.find? (·.seq == q.seq) with
    | none => s
    | some e =>
      if s.sealedAt s.g.die q.ctx q.va then ((s.laneFault e a 5).atomAcquired e).endPark
      else if s.poisoned q.pa w then ((s.laneFault e a 7).atomAcquired e).endPark
      else
        let old := s.mem.nat q.pa w
        let s := match aopNew q.op q.ty old (lowBytes q.ty q.data) (lowBytes q.ty q.cmp) with
          | some v => put s q.ctx q.pa (leBytes w v)
          | none => s
        let s := s.dropL1Line s.g.coreRef (lineOf q.pa)
        State.atomAcquired
          { s with g := (s.g.laneLeft q.seq q.lane).atomValue q.seq q.lane (extendLoad q.ty (BitVec.ofNat 64 old)) } e

def execAtomicEngineService (die : Fin 2) (slice : Fin 128) (s : State) : Host.Outcome State Fault Refusal :=
  .next (
    match (s.die die).nextAtom slice with
    | none => s
    | some q =>
      if s.acquireWaits q then s
      else
        let s := s.served die slice q.port true (lineOf q.pa)
        (s.modDie die fun d => { d with atom := d.atom.erase q }).serveAtom q State.writeL2)

/-- Operations and types that the host performs natively (R415). -/
def hostNative (op : Aop) (ty : Ty) : Bool :=
  match op with
  | .fadd | .fmin | .fmax | .famax => false
  | _ => !ty.isFloat

/-- The host performs the next atomic of a slice on a line of host memory that the slice does not hold (R415). A line that is
not dirty may be held or not. -/
def State.hostAtom (s : State) (die : Fin 2) (slice : Fin 128) : State :=
  match (s.die die).nextAtom slice with
  | none => s
  | some q =>
    let l := lineOf q.pa
    if s.row q.pa ≠ .host ∨ !hostNative q.op q.ty ∨ (s.dirty.any fun d => d.1 == l) ∨ s.acquireWaits q then s
    else
      (((s.served die slice q.port false l).modDie die fun d => { d with atom := d.atom.erase q }).serveAtom q
        fun s c pa bs => (s.writeL2 c pa bs).cleanLine l)

/-! ### Flush and the care of L2 (R185, R192, R194, R228) -/

/-- The stores that a CFLUSH covers have reached its point; at .sys every dirty line is written back
(notes/assumptions/18). -/
def execCflushComplete (r : GroupRef) (s : State) : Host.Outcome State Fault Refusal :=
  .next (s.atGroup r fun s =>
    match s.g.cflush with
    | none => s
    | some (seq, sco) =>
      if !s.g.storesBefore seq || (sco.wide && !s.pathClear) then s
      else
        let s := if sco = .sys then s.dirty.foldl (fun s l => s.cleanLine l.1) s else s
        { s with g := { s.g with cflush := none } })

/-- A dirty line is written back; when an uncorrectable error is found its stores are lost, the line is poisoned, and
its owner's event ring takes a record (R194, R380). -/
def execL2Writeback (line : Nat) (bad : Bool) (s : State) : Host.Outcome State Fault Refusal :=
  .next (
    match s.dirty.find? (·.1 == line) with
    | none => s
    | some l =>
      if bad then
        let s := { s with dirty := s.dirty.filter (·.1 != line), mem := s.mem.copyFrom s.gddr (line * 128) 128 }
        ((s.poisonLines [line]).countError .l2 0 1).appendEvent (s.homeDie (line * 128)) l.2 1 (line * 128)
      else s.cleanLine line)

/-- The scrub of a slice: single-bit errors are corrected, lines with uncorrectable ones are poisoned (R192). -/
def execL2Scrub (die : Fin 2) (slice : Fin 128) (corrected bad : List Nat) (s : State) :
    Host.Outcome State Fault Refusal :=
  let here (l : Nat) := s.homeDie (l * 128) == die && hash7 (l * 128) == slice
  .next ((s.poisonLines (bad.filter here)).countError .l2 (corrected.filter here).length (bad.filter here).length)

/-- A failure of the link is fatal to the module: the die bridge, or a host link (R453). -/
def Link.fatal : Link → Bool
  | .bridge | .host _ => true
  | _ => false

/-- A link transfer is retried, which succeeds, or it has failed 16 times: then the link is reported and marked down, a bridge or a
host link as fatal to the module, and the lines that the transfer carried to this device's memory, which `failed` names, are poisoned
(R192, R453). -/
def execLinkRetry (l : Link) (failed : Option (List Nat)) (s : State) : Host.Outcome State Fault Refusal :=
  .next (
    match failed with
    | none => s.countError (.link l) 1 0
    | some lines =>
      let s := (s.poisonLines lines).countError (.link l) 0 1
      { s with
        down := if s.down.contains l then s.down else l :: s.down
        plat := if Link.fatal l && !s.plat.fatal.contains l then { s.plat with fatal := l :: s.plat.fatal } else s.plat })

/-! ### Walker and pager (R383, R386, R388, R389) -/

/-- One of the walks in flight, at most the first 128 that wait, completes. -/
def execPageWalk (die : Fin 2) (i : Nat) (s : State) : Host.Outcome State Fault Refusal :=
  .next (
    match (s.die die).walks[i]? with
    | none => s
    | some w =>
      if 128 ≤ i then s
      else ((s.useCtx die w.ctx).modDie die fun d => { d with walks := d.walks.eraseIdx i }).walkEnd die w)

/-- The ring of fault records: its length in records, 0 when off (R416). -/
def Die.ring (d : Die) : Nat := if d.pgrs = 0 then 0 else 2 ^ (d.pgrs.extractLsb' 0 5).toNat

def AccClass.code : AccClass → Nat
  | .read => 0 | .write => 1 | .fetch => 2

/-- A fault record (R388). -/
def FaultSlot.record (t : FaultSlot) (ph : Nat) : Nat :=
  ph + t.slot.val * 2 ^ 32 + t.reason.val * 2 ^ 48 + t.cls.code * 2 ^ 50 + t.ctx.toNat * 2 ^ 52 + t.seq.toNat * 2 ^ 64
    + t.clk.toNat * 2 ^ 128 + t.va * 2 ^ 192

/-- The open slot whose record is written next: the lowest number not yet written. -/
def Die.nextRecord (d : Die) : Option FaultSlot :=
  (d.slots.filter fun t => !t.written).foldl (fun b t => match b with
    | none => some t
    | some u => if t.seq.toNat < u.seq.toNat then some t else some u) none

/-- A fault record is written while the ring has room; a write that meets a physical-address fault or poison is
reported and tried again after a write to PGRA or PGRS (R388, R416). -/
def execFaultRecordWrite (die : Fin 2) (s : State) : Host.Outcome State Fault Refusal :=
  .next (
    let d := s.die die
    match d.nextRecord with
    | none => s
    | some t =>
      if d.pgfail || d.ring = 0 || decide (d.ring ≤ (d.pgwr - d.pgrd).toNat) then s
      else
        let n := d.pgwr.toNat
        let pa := d.pgra.toNat + 32 * (n % d.ring)
        if s.row pa = .nothing || s.poisoned pa 32 then
          (s.setDie die { d with pgfail := true }).countError .record 0 1
        else
          let s := s.writeL2 t.ctx pa (leBytes 32 (t.record (1 - n / d.ring % 2)))
          (s.modDie die fun d => { d with
            pgwr := d.pgwr + 1
            slots := d.slots.map fun u => if u.slot = t.slot then { u with written := true } else u }).notify die 0)

/-- The slot that an answer names by SLOT and SEQ (R389, R416). -/
def Die.answered (d : Die) (ans : BitVec 64) : Option FaultSlot :=
  if ans.extractLsb' 12 4 != 0#4 || ans.getLsbD 10 then none
  else d.slots.find? fun t => t.slot.val == (ans.extractLsb' 0 10).toNat
    && t.seq.extractLsb' 0 48 == ans.extractLsb' 16 48

/-- RETRY: every access in the slot walks again (R389). -/
def State.pagerRetry (s : State) (die : Fin 2) (ans : BitVec 64) : State :=
  let d := s.die die
  match d.answered ans with
  | none => s
  | some t =>
    if ans.getLsbD 11 then s
    else s.setDie die ({ d with slots := d.slots.filter (·.slot != t.slot), walks := d.walks ++ t.members }).admitWaiting

def execPagerRetry (die : Fin 2) (ans : BitVec 64) (s : State) : Host.Outcome State Fault Refusal :=
  .next (s.pagerRetry die ans)

/-- DECLINE: every access in the slot becomes a fault that cannot be replayed (R389). -/
def State.pagerDecline (s : State) (die : Fin 2) (ans : BitVec 64) : State :=
  let d := s.die die
  match d.answered ans with
  | none => s
  | some t =>
    if !ans.getLsbD 11 then s
    else s.setDie die ({ d with
      slots := d.slots.filter (·.slot != t.slot)
      refused := d.refused ++ t.members.map fun (w : Walk) => (w.who, w.cls, w.va, 3, w.va) }).admitWaiting

def execPagerDecline (die : Fin 2) (ans : BitVec 64) (s : State) : Host.Outcome State Fault Refusal :=
  .next (s.pagerDecline die ans)

end Sys2Proof.Machine
end

