-- ==== Sys2Proof/Machine/Copy.lean ====
section
/-! DEFINITION. The copy engine: layout and box records (R243, R244), the start of a command (R246, R247, R261, R263), the
pieces of its work and its end (R237, R241, R245). -/

namespace Sys2Proof.Machine

/-! ### Records (R243, R244) -/

/-- One dimension of a copy: extent and first coordinate of the box, size and byte stride of the tensor. -/
structure Dim where
  ext    : Nat
  start  : Int
  size   : Nat
  stride : Nat
deriving DecidableEq, Repr

/-- A copy that is not malformed: a 4-bit layout stands as bytes. -/
structure CopyPlan where
  base : Nat
  es   : Nat
  dims : List Dim
  fill : Nat
  ty   : Ty
deriving DecidableEq, Repr

/-- Bytes that one element moves: a pair of 4-bit elements moves as one byte. -/
def moveBytes (ty : Ty) : Nat := max 1 (ty.bits / 8)

/-- A 32-bit two's complement field. -/
def signed32 (n : Nat) : Int := (BitVec.ofNat 32 n).toInt

/-- Dimension k of the records, halved along dimension 0 for 4-bit types. -/
def planDim (ty : Ty) (lay box : Nat) (k : Nat) : Dim :=
  let half := if ty.bits = 4 ∧ k = 0 then 2 else 1
  { ext := bitsOf box (16 * k + 160) 16 / half
    start := signed32 (bitsOf box (32 * k) 32) / half
    size := bitsOf lay (32 * k + 256) 32 / half
    stride := if k = 0 then moveBytes ty else bitsOf lay (64 * (k - 1)) 64 }

/-- The fields of dimension k are as R243 and R244 want them. -/
def dimOk (ty : Ty) (rank lay box : Nat) (k : Nat) : Bool :=
  let size := bitsOf lay (32 * k + 256) 32
  let stride := if k = 0 then 0 else bitsOf lay (64 * (k - 1)) 64
  let ext := bitsOf box (16 * k + 160) 16
  let start := bitsOf box (32 * k) 32
  if k < rank then
    size != 0 && ext != 0 && stride % moveBytes ty == 0
      && !(ty.bits == 4 && k == 0 && (size % 2 != 0 || ext % 2 != 0 || start % 2 != 0))
  else size == 0 && stride == 0 && ext == 0 && start == 0

/-- The plan of a layout and a box record; none when one is malformed. -/
def copyPlan (lay box : Nat) : Option CopyPlan :=
  match (if bitsOf lay 440 8 < 19 then Ty.ofCode (BitVec.ofNat 5 (bitsOf lay 440 8)) else none) with
  | none => none
  | some ty =>
    let rank := bitsOf lay 432 8
    let base := bitsOf lay 448 64
    let ok := ty != .b1 && bitsOf lay 418 14 == 0 && decide (bitsOf lay 416 2 ≤ 1) && decide (1 ≤ rank ∧ rank ≤ 5)
      && decide (base < 2 ^ 56) && base % moveBytes ty == 0 && bitsOf box 242 14 == 0 && bitsOf box 240 2 != 3
      && (List.range 5).all (dimOk ty rank lay box)
    if ok then
      some { base, es := moveBytes ty, dims := (List.range rank).map (planDim ty lay box), fill := bitsOf box 240 2, ty }
    else none

/-- Elements of the box. -/
def CopyPlan.count (p : CopyPlan) : Nat := p.dims.foldl (fun n d => n * d.ext) 1

/-- Bytes of the dense range. -/
def CopyPlan.bytes (p : CopyPlan) : Nat := p.count * p.es

/-- Whether the element with a dense index lies in the tensor, and its distance from BASE (R245). -/
def locate : Nat → List Dim → Bool × Int
  | _, [] => (true, 0)
  | e, d :: ds =>
    let c := d.start + (e % d.ext : Nat)
    let r := locate (e / d.ext) ds
    (decide (0 ≤ c ∧ c < d.size) && r.1, c * d.stride + r.2)

/-- The address of an element, modulo 2^64; none outside the tensor (R245). -/
def CopyPlan.addr (p : CopyPlan) (e : Nat) : Option Nat :=
  let r := locate e p.dims
  if r.1 then some (((p.base : Int) + r.2) % 2 ^ 64).toNat else none

/-- The canonical NaN of a type as the bytes that one element moves, or zero for a type that is no float (R76, R244). -/
def fillNan (ty : Ty) : Nat := if ty = .e8m0 then 0xFF else if ty.isFloat then (fmtOf ty).nan else 0

/-- FillValue; none leaves the destination element unchanged. -/
def CopyPlan.fillBytes (p : CopyPlan) : Option (List Byte) :=
  match p.fill with
  | 0 => some (leBytes p.es 0)
  | 1 => some (leBytes p.es (fillNan p.ty))
  | _ => none

/-! ### The parts of a command -/

/-- What a copy command is: its kind with the typed-store sides, and the offset of its memory form (R260). -/
inductive CopyKind where
  | toStore (sp : Space) (off : Nat)
  | toMem (sp : Space) (off : Nat)
  | between (src dst : Space) (so n d : Nat)
deriving DecidableEq, Repr

def Cmd.copyKind (x : Cmd) : Option CopyKind :=
  let e (i : Nat) := ((x.ext[i]?).getD 0).toNat
  match x.instr with
  | .copyIn a => some (.toStore (spaceOf a.st) (e 2))
  | .copyOut a => some (.toMem (spaceOf a.st) (e 2))
  | .copyXs a => some (.between (spaceOf a.src) (spaceOf a.dst) (e 0) (e 1) (e 2))
  | _ => none

/-- The plan of a command whose records have been read. -/
def Cmd.plan (x : Cmd) : Option CopyPlan :=
  match x.recs with
  | [lay, box] => copyPlan lay box
  | _ => none

/-- Translation for a copy: through its die's walker (R379). -/
def viaCmd (c : CoreRef) (x : Cmd) : Via := fun s va cls atomic =>
  s.translateNow c.die (some c.core) (.command c x.tag 0) x.ctx va cls atomic

/-- What one piece of a copy comes to. -/
inductive Piece where
  | done (s : State)
  | wait (s : State)
  | bad (status : Byte) (s : State)

def State.putWindow (s : State) (team : Nat) (sp : Space) (a : Nat) (bs : List Byte) : State :=
  s.modTeam team fun t => t.put sp a bs

/-- An engine's read of a window meets no erroneous byte (R192). -/
def State.readable (s : State) (team : Nat) (sp : Space) (lo n : Nat) : Bool :=
  (s.badByte team sp lo n fun _ => true).isNone

def State.windowOf (s : State) (team : Nat) (sp : Space) : Mem := ((s.team? team).map (·.window sp)).getD []
def State.sizeOf (s : State) (team : Nat) (sp : Space) : Nat := ((s.team? team).map (·.size sp)).getD 0

/-- Elements `e` to `e + n - 1` of a copy into a store; `ws` holds what is to be written, which stands even where a
later element fails (R237). -/
def inGo (via : Via) (p : CopyPlan) (put : State → List (Nat × List Byte) → State) (off : Nat) (s : State)
    (ws : List (Nat × List Byte)) (e : Nat) : Nat → Piece
  | 0 => .done (put s ws)
  | n + 1 =>
    match p.addr e with
    | none =>
      let ws := match p.fillBytes with
        | some bs => (off + e * p.es, bs) :: ws
        | none => ws
      inGo via p put off s ws (e + 1) n
    | some va =>
      match readVia via s va p.es with
      | .ok bs s => inGo via p put off s ((off + e * p.es, bs) :: ws) (e + 1) n
      | .wait s => .wait s
      | .bad st _ s => .bad st (put s ws)

/-- One 32-byte sector of a copy into a store. -/
def State.copyInPiece (s : State) (via : Via) (x : Cmd) (p : CopyPlan) (sp : Space) (off k : Nat) : Piece :=
  let lo := (32 * k - off + p.es - 1) / p.es
  let hi := min p.count ((32 * (k + 1) - off + p.es - 1) / p.es)
  inGo via p (fun s ws => ws.reverse.foldl (fun s w => s.putWindow x.team sp w.1 w.2) s) off s [] lo (hi - lo)

/-- One 128-byte line of a copy out of a store: its elements inside the tensor in dense order; poisoned where the store
holds an error (R192). -/
def State.copyOutPiece (s : State) (via : Via) (d : Fin 2) (x : Cmd) (p : CopyPlan) (sp : Space) (off line : Nat) :
    Piece :=
  let es := (List.range p.count).filterMap fun e =>
    match p.addr e with
    | some va => if va / 128 = line then some (va, e) else none
    | none => none
  if es.any fun w => !s.readable x.team sp (off + w.2 * p.es) p.es then .bad 7 s else
  match writeVia via d x.ctx s (128 * line) 128 false with
  | .wait s => .wait s
  | .bad st _ s => .bad st s
  | .ok pa s =>
    let m := s.windowOf x.team sp
    let full := (List.range 128).all fun i => es.any fun w => decide (w.1 ≤ 128 * line + i ∧ 128 * line + i < w.1 + p.es)
    let bytes := es.foldl (fun l w => l.writes (pa + w.1 % 128) (m.bytes (off + w.2 * p.es) p.es)) (s.mem.slice pa 128)
    if full then .done (s.writeL2 x.ctx pa (bytes.bytes pa 128))
    else .done (es.foldl (fun s w => s.writeL2 x.ctx (pa + w.1 % 128) (m.bytes (off + w.2 * p.es) p.es)) s)

/-- Lines that a copy out writes, in the order in which dense order reaches them. -/
def CopyPlan.lines (p : CopyPlan) : List Nat :=
  ((List.range p.count).foldl (fun ls e =>
    match p.addr e with
    | some va => if ls.contains (va / 128) then ls else (va / 128) :: ls
    | none => ls) []).reverse

/-- The sectors that a range touches. -/
def sectors (lo n : Nat) : List Nat := if n = 0 then [] else (List.range ((lo + n - 1) / 32 - lo / 32 + 1)).map (lo / 32 + ·)

/-- The pieces of a command's work. -/
def Cmd.pieces (x : Cmd) : List Nat :=
  match x.copyKind, x.plan with
  | some (.toStore _ off), some p => sectors off p.bytes
  | some (.toMem _ _), some p => p.lines
  | some (.between _ _ _ n d), _ => sectors d n
  | _, _ => []

/-- Perform one piece. -/
def State.copyPiece (s : State) (c : CoreRef) (x : Cmd) (k : Nat) : Piece :=
  let via := viaCmd c x
  match x.copyKind, x.plan with
  | some (.toStore sp off), some p => s.copyInPiece via x p sp off k
  | some (.toMem sp off), some p => s.copyOutPiece via c.die x p sp off k
  | some (.between src dst so _ d), _ =>
    let a := so + (32 * k - d)
    if s.readable x.team src a 32 then .done (s.putWindow x.team dst (32 * k) ((s.windowOf x.team src).bytes a 32))
    else .bad 7 s
  | _, _ => .done s

/-- A piece performed out of turn, where nothing stands in its way. -/
def State.copyAhead (s : State) (c : CoreRef) (tag : Word) (k : Nat) : State :=
  match s.cmd? c tag with
  | none => s
  | some x =>
    if x.eng ≠ .copy ∨ x.phase ≠ .started ∨ x.recs.isEmpty ∨ x.done.contains k ∨ !x.pieces.contains k then s
    else
      match s.copyPiece c x k with
      | .done t => t.modCmd c tag fun y => { y with done := k :: y.done }
      | _ => s

/-! ### Start and end (R246, R247, R261, R263) -/

/-- Commands of the copy engine in progress. -/
def Core.copying (k : Core) : Nat := (k.cmds.filter fun x => x.eng == .copy && x.phase == .started).length

/-- The checks that follow the reading of the records; then the entry narrows to the dense range. -/
def State.beginCopy (s : State) (c : CoreRef) (x : Cmd) (sp : Space) (off lay box : Nat) : State :=
  match copyPlan lay box with
  | none => s.endCmd c x.tag 8
  | some p =>
    if off % p.es ≠ 0 then s.endCmd c x.tag 8
    else if s.sizeOf x.team sp < off + p.bytes then s.endCmd c x.tag 6
    else
      (s.modCmd c x.tag fun y => { y with recs := [lay, box] }).modCore c fun k =>
        { k with sb := k.sb.map fun h => if h.tag = x.tag then { h with lo := off, len := p.bytes } else h }

/-- Read the records of a started command (R246). -/
def State.readRecords (s : State) (c : CoreRef) (x : Cmd) : State :=
  let e (i : Nat) := ((x.ext[i]?).getD 0).toNat
  let go (sp : Space) (off : Nat) : State :=
    match (readVia (viaCmd c x) s (e 0) 64).bind fun lay s =>
        (readVia (viaCmd c x) s (e 1) 32).bind fun box s => Chk.ok (leNat lay, leNat box) s with
    | .ok r s => s.beginCopy c x sp off r.1 r.2
    | .wait s => s
    | .bad st _ s => s.endCmd c x.tag st
  match x.copyKind with
  | some (.toStore sp off) => go sp off
  | some (.toMem sp off) => go sp off
  | some (.between src dst so n d) =>
    if s.sizeOf x.team src < so + n ∨ s.sizeOf x.team dst < d + n then s.endCmd c x.tag 6
    else s.modCmd c x.tag fun y => { y with recs := [0] }
  | none => s

/-- The next ready command starts while fewer than four are in progress, and reads its records; one whose reads waited
for the pager goes on (R246, R247, R379). -/
def execCopyCommandStart (c : CoreRef) (tag : Word) (s : State) : Host.Outcome State Fault Refusal :=
  .next (
    match s.cmd? c tag with
    | none => s
    | some x =>
      let k := s.core c
      if x.eng ≠ .copy then s
      else if x.phase = .started then if x.recs.isEmpty then s.readRecords c x else s
      else if !s.cmdReady c x || !k.isNext .copy tag || decide (4 ≤ k.copying) then s
      else (s.modCmd c tag fun y => { y with phase := .started }).readRecords c x)

/-- The pieces that are left, in order: the first that fails ends the command with its status (R237). -/
def State.copyRest (s : State) (c : CoreRef) (x : Cmd) : List Nat → State
  | [] => s.endCmd c x.tag 0
  | k :: ks =>
    match s.copyPiece c x k with
    | .done s => (s.modCmd c x.tag fun y => { y with done := k :: y.done }).copyRest c x ks
    | .wait s => s
    | .bad st s => s.endCmd c x.tag st

/-- A copy performs what is left of it and ends (R245). -/
def execCopyCommandEnd (c : CoreRef) (tag : Word) (s : State) : Host.Outcome State Fault Refusal :=
  .next (
    match s.cmd? c tag with
    | none => s
    | some x =>
      if x.eng ≠ .copy ∨ x.phase ≠ .started ∨ x.recs.isEmpty then s
      else s.copyRest c x (x.pieces.filter fun k => !x.done.contains k))

/-- A cancelled copy stops: of the pieces that are left, those named are still performed (R241). -/
def State.cancelCopy (s : State) (c : CoreRef) (x : Cmd) (ks : List Nat) : State :=
  let s := if x.recs.isEmpty then s else
    (x.pieces.filter fun k => !x.done.contains k && ks.contains k).foldl (fun s k =>
      match s.copyPiece c x k with
      | .done t => t
      | _ => s) s
  s.endCmd c x.tag 1

end Sys2Proof.Machine
end

