-- ==== Sys2Proof/Machine/Geom.lean ====
section
/-! DEFINITION. Patches, instances and wide nodes as Trowel, Scraper and Lantern read and write them (R315 to R319, R326),
and the exact box and triangle tests (R342, R343). -/

namespace Sys2Proof.Machine

/-! ### Exact numbers -/

/-- A rational number, or one of the two infinities. -/
inductive Ext where
  | ninf
  | fin (q : Rat)
  | pinf
deriving DecidableEq, Repr

def Ext.le : Ext → Ext → Bool
  | .ninf, _ => true
  | _, .pinf => true
  | .fin a, .fin b => decide (a ≤ b)
  | _, _ => false

def Ext.max (a b : Ext) : Ext := if a.le b then b else a
def Ext.min (a b : Ext) : Ext := if a.le b then a else b

/-- m x 2^e as a rational. -/
def ratOf (neg : Bool) (m : Nat) (e : Int) : Rat :=
  let v : Rat := mkRat (m * pow2 e : Nat) (pow2 (-e))
  if neg then -v else v

/-- A finite value; 0 stands for what is none. -/
def FVal.rat : FVal → Rat
  | .fin neg m e => ratOf neg m e
  | _ => 0

def FVal.finite : FVal → Bool
  | .fin .. => true
  | _ => false

def FVal.ext : FVal → Ext
  | .fin neg m e => .fin (ratOf neg m e)
  | .inf neg => if neg then .ninf else .pinf
  | .nan => .fin 0

def f32Val (bits : Nat) : FVal := fp32.decode bits
def f32Rat (bits : Nat) : Rat := (f32Val bits).rat
def f32Finite (bits : Nat) : Bool := (f32Val bits).finite

/-- A rational rounded to a format. -/
def roundRatTo (f : Fmt) (r : Round) (q : Rat) : Nat := f.roundRat r false (decide (q < 0)) q.num.natAbs q.den 0

/-- RNE32 of a rational (R87). -/
def ratF32 (q : Rat) : Nat := roundRatTo fp32 .rne q

/-- 2^k. -/
def ratPow2 (k : Int) : Rat := ratOf false 1 k

abbrev Vec3 := List Rat

def vsub3 (a b : Vec3) : Vec3 := List.zipWith (· - ·) a b
def dot3 (a b : Vec3) : Rat := (List.zipWith (· * ·) a b).foldl (· + ·) 0
def cross3 (a b : Vec3) : Vec3 :=
  match a, b with
  | [ax, ay, az], [bx, by', bz] => [ay * bz - az * by', az * bx - ax * bz, ax * by' - ay * bx]
  | _, _ => [0, 0, 0]

/-- A box: three lower and three upper bounds, and which of the lower ones are −0. -/
structure Box where
  lo : List Ext
  hi : List Ext
  nz : List Bool
deriving DecidableEq, Repr

/-- The box of nothing. -/
def Box.empty : Box := ⟨[], [], []⟩

/-- The lesser lower bound and the greater upper one; of the zeros the lesser is −0 (R130; notes/assumptions/123). -/
def Box.union (a b : Box) : Box where
  lo := List.zipWith Ext.min a.lo b.lo
  hi := List.zipWith Ext.max a.hi b.hi
  nz := (List.range 3).map fun i =>
    let neg (x y : Box) : Bool := (x.nz[i]?).getD false && ((x.lo[i]?).getD (.fin 0)).le ((y.lo[i]?).getD (.fin 0))
    neg a b || neg b a

def unionAll : List Box → Option Box
  | [] => none
  | b :: bs => some (bs.foldl Box.union b)

def Ext.finite : Ext → Bool
  | .fin _ => true
  | _ => false

def Ext.rat : Ext → Rat
  | .fin q => q
  | _ => 0

/-! ### Patches (R315, R316) -/

structure Patch where
  pid   : Nat
  proc  : Bool
  /-- FP32 coordinates of each vertex. -/
  verts : List (List Nat)
  tris  : List (List Nat)
deriving DecidableEq, Repr

/-- FMA32(q, SCALE, ORG) (R87, R316). -/
def coord (q scale org : Nat) : Nat :=
  fp32.round .rne false (((FVal.ofInt q).mul (f32Val scale)).add .rne (f32Val org))

/-- A patch record of 1,024 bytes; none when it is malformed. -/
def readPatch (raw : Nat) : Option Patch :=
  let org (a : Nat) := bitsOf raw (32 * a) 32
  let scale (a : Nat) := bitsOf raw (96 + 32 * a) 32
  let nv := bitsOf raw 200 8
  let nt := bitsOf raw 208 8
  let verts := (List.range nv).map fun v => (List.range 3).map fun a =>
    coord (bitsOf raw (256 + 48 * v + 16 * a) 16) (scale a) (org a)
  let tris := (List.range nt).map fun t => (List.range 3).map fun i => bitsOf raw (256 + 48 * nv + 24 * t + 8 * i) 8
  let ok := decide (1 ≤ nt ∧ nt ≤ 64) && decide (1 ≤ nv ∧ nv ≤ 128) && bitsOf raw 192 8 == 0 && bitsOf raw 217 7 == 0
    && (tris.all fun t => t.all fun v => decide (v < nv))
    && ((List.range 3).all fun a => f32Finite (org a) && f32Finite (scale a))
    && verts.all fun v => v.all f32Finite
  if ok then some ⟨bitsOf raw 224 32, bitsOf raw 216 1 == 1, verts, tris⟩ else none

/-- The bytes of a patch that hold something: its head, then its vertices and triangles; the others are not read (R315, R366). -/
def patchLen (head : Nat) : Nat := 32 + 6 * min 128 (bitsOf head 200 8) + 3 * min 64 (bitsOf head 208 8)

/-- The FP32 coordinates of a vertex. -/
def Patch.coords (p : Patch) (v : Nat) : List Nat := (p.verts[v]?).getD []

def Patch.vertex (p : Patch) (v : Nat) : Vec3 := (p.coords v).map f32Rat

/-- The three vertices of a triangle. -/
def Patch.corners (p : Patch) (t : Nat) : List Vec3 := ((p.tris[t]?).getD []).map p.vertex

/-- The box of one point. -/
def pointBox (v : Vec3) : Box := ⟨v.map .fin, v.map .fin, []⟩

/-- The box of one point that is given in FP32. -/
def bitsBox (v : List Nat) : Box := { pointBox (v.map f32Rat) with nz := v.map (· == 0x80000000) }

/-- The box of a triangle's vertices (R342). -/
def Patch.triBox (p : Patch) (t : Nat) : Option Box := unionAll ((p.corners t).map pointBox)

/-- The patch's bounds: over the vertices that some triangle names (R316). -/
def Patch.bounds (p : Patch) : Option Box :=
  unionAll ((p.tris.flatMap id).map fun v => bitsBox (p.coords v))

/-! ### Wide nodes (R318, R319) -/

def nodeOrg (raw a : Nat) : Nat := bitsOf raw (32 * a) 32
def nodeScale (raw a : Nat) : Nat := bitsOf raw (848 + 8 * a) 8
def nodeValid (raw c : Nat) : Bool := bitsOf raw (872 + c) 1 == 1
def nodeInternal (raw c : Nat) : Bool := nodeValid raw c && bitsOf raw (880 + c) 1 == 1
def nodeFence (raw c : Nat) : Bool := bitsOf raw (888 + c) 1 == 1
def nodeCref (raw c : Nat) : Nat := bitsOf raw (96 + 32 * c) 32
def nodeGen (raw : Nat) : Nat := bitsOf raw 896 16
def nodeSeq (raw : Nat) : Nat := bitsOf raw 992 32

/-- A node is malformed when ORG is not finite or a scale code is 255. -/
def nodeOk (raw : Nat) : Bool := (List.range 3).all fun a => f32Finite (nodeOrg raw a) && nodeScale raw a != 255

/-- ORG on an axis as a number (notes/assumptions/139). -/
def orgRat (raw a : Nat) : Rat :=
  let x := nodeOrg raw a
  if f32Finite x then f32Rat x else Config.strayOrg x

/-- The decoded box of child c. A lower bound of zero is −0 but where ORG is +0: IEEE 754-2019 gives an exact zero sum that
sign toward −∞ (R319). -/
def childBox (raw c : Nat) : Box :=
  let bound (r : Round) (j a : Nat) : Ext :=
    let q : Rat := (bitsOf raw (48 * c + 384 + 8 * j) 8 : Nat)
    (f32Val (roundRatTo fp32 r (orgRat raw a + q * ratPow2 (nodeScale raw a - 127)))).ext
  let lo := (List.range 3).map fun a => bound .rdn a a
  ⟨lo, (List.range 3).map fun a => bound .rup (a + 3) a,
    lo.mapIdx fun a x => x == .fin 0 && nodeOrg raw a != 0⟩

def validChildren (raw : Nat) : List Nat := (List.range 8).filter (nodeValid raw)

/-- A node's decoded own box: the union of its children's. -/
def ownBox (raw : Nat) : Option Box := unionAll ((validChildren raw).map (childBox raw))

/-- The least scale code that fits. -/
def leastCode (fits : Rat → Bool) (org : Nat) : Nat :=
  ((List.range 255).find? fun (e : Nat) => fits (f32Rat org + 255 * ratPow2 ((e : Int) - 127))).getD 254

/-- The largest finite FP32 value. -/
def maxF32 : Rat := ratOf false (2 ^ 24 - 1) 104

/-- The least scale code that reaches the upper bound. None reaches an unbounded one: its code is any with which the
decoded bound is unbounded too (notes/assumptions/22). -/
def scaleCode (org : Nat) (hi : Ext) : Nat :=
  match hi with
  | .fin h => leastCode (fun x => decide (h ≤ x)) org
  | _ => max (Config.unboundedScale org).val (leastCode (fun x => decide (maxF32 < x)) org)

def clampQ (x : Int) : Nat := (max 0 (min 255 x)).toNat

/-- ORG, scale codes and child boxes from the exact boxes of the valid children: the bits of R318 that R319 gives. -/
def quantise (boxes : List (Nat × Box)) : Nat :=
  match unionAll (boxes.map (·.2)) with
  | none => 0
  | some own =>
    let org (a : Nat) : Nat :=
      if (own.nz[a]?).getD false then 0x80000000 else roundRatTo fp32 .rne ((own.lo[a]?).getD (.fin 0)).rat
    let e (a : Nat) : Nat := scaleCode (org a) ((own.hi[a]?).getD (.fin 0))
    let unit (a : Nat) : Rat := ratPow2 ((e a : Int) - 127)
    let qlo (b : Box) (a : Nat) : Nat := match (b.lo[a]?).getD (.fin 0) with
      | .fin q => clampQ ((q - f32Rat (org a)) / unit a).floor
      | .ninf => 0
      | .pinf => 255
    let qhi (b : Box) (a : Nat) : Nat := match (b.hi[a]?).getD (.fin 0) with
      | .fin q => clampQ ((q - f32Rat (org a)) / unit a).ceil
      | .ninf => 0
      | .pinf => 255
    let axes := List.range 3
    (axes.map fun a => org a * 2 ^ (32 * a) + e a * 2 ^ (848 + 8 * a)).foldl (· + ·) 0
      + (boxes.map fun x => (axes.map fun a =>
          qlo x.2 a * 2 ^ (48 * x.1 + 384 + 8 * a) + qhi x.2 a * 2 ^ (48 * x.1 + 384 + 8 * (a + 3))).foldl (· + ·) 0).foldl
          (· + ·) 0

/-! ### Quality (R326) -/

def Box.bounded (b : Box) : Bool := (b.lo ++ b.hi).all Ext.finite

/-- Surface area. -/
def Box.area (b : Box) : Rat :=
  match vsub3 (b.hi.map Ext.rat) (b.lo.map Ext.rat) with
  | [x, y, z] => 2 * (x * y + y * z + z * x)
  | _ => 0

/-- Q as FP16; for an unbounded own box the spec states none (notes/assumptions/22). -/
def quality (raw : Nat) : Nat :=
  match ownBox raw with
  | none => 0
  | some own =>
    if !own.bounded then (Config.unboundedQuality raw).toNat
    else if own.area = 0 then 0
    else
      let q := (((validChildren raw).map fun c => (childBox raw c).area).foldl (· + ·) 0) / own.area
      if 65504 < q then 0x7BFF else roundRatTo fp16 .rne q

/-- A node is stale when Q > tau x Q0; never when tau is zero, negative or not finite. The spec states no answer for a Q or Q0 that
is not finite (notes/assumptions/140). -/
def stale (tau q q0 : Nat) : Bool :=
  let t := fp16.decode tau
  let a := fp16.decode q
  let b := fp16.decode q0
  t.finite && decide (0 < t.rat) &&
    (if a.finite && b.finite then decide (t.rat * b.rat < a.rat) else Config.strayStale tau q q0)

/-! ### Instances (R317) -/

/-- Element (r, c) of XFORM and INV. -/
def xform (raw r c : Nat) : Nat := bitsOf raw (32 * (4 * r + c)) 32
def inverse (raw r c : Nat) : Nat := bitsOf raw (384 + 32 * (4 * r + c)) 32
def instDesc (raw : Nat) : Nat := bitsOf raw 768 64
def instIid (raw : Nat) : Nat := bitsOf raw 832 32
def instMask (raw : Nat) : Nat := bitsOf raw 864 8
def instOff (raw : Nat) : Bool := bitsOf raw 872 1 == 1

/-- Reserved bits are zero and DESC is aligned (notes/assumptions/137). -/
def instOk (raw : Nat) : Bool := bitsOf raw 880 144 == 0 && bitsOf raw 873 7 == 0 && instDesc raw % 128 == 0

/-- XFORM x (p, 1), exactly. -/
def place (raw : Nat) (p : Vec3) : Vec3 :=
  (List.range 3).map fun r =>
    dot3 ((List.range 3).map fun c => f32Rat (xform raw r c)) p + f32Rat (xform raw r 3)

/-- The eight corners of a box. -/
def cornersOf (b : Box) : List Vec3 :=
  (List.range 8).map fun i => (List.range 3).map fun a =>
    (((if i / 2 ^ a % 2 = 1 then b.hi else b.lo)[a]?).getD (.fin 0)).rat

/-- The bounds of an instance over the root box of its bottom structure; none when one is not finite. The spec gives no sign to a
lower bound that is exactly zero (notes/assumptions/138). -/
def instBounds (raw : Nat) (root : Box) : Option Box :=
  let ok := root.bounded && (List.range 12).all fun i => f32Finite (bitsOf raw (32 * i) 32)
  match unionAll ((cornersOf root).map fun p => pointBox (place raw p)) with
  | none => none
  | some b =>
    let lo := b.lo.map fun x => roundRatTo fp32 .rdn x.rat
    let hi := b.hi.map fun x => roundRatTo fp32 .rup x.rat
    if ok && lo.all f32Finite && hi.all f32Finite then
      some ⟨lo.map fun x => (f32Val x).ext, hi.map fun x => (f32Val x).ext,
        lo.mapIdx fun a x => f32Rat x == 0 && Config.zeroBoundNeg raw a⟩
    else none

/-- The object ray: INV x (o, 1) and INV x (d, 0), each component exact and rounded once; none when it is unusable
(R347). -/
def objectRay (raw : Nat) (o d : List Nat) : Option (List Nat) :=
  let row (r : Nat) := (List.range 3).map fun c => f32Rat (inverse raw r c)
  let o' := (List.range 3).map fun r => ratF32 (dot3 (row r) (o.map f32Rat) + f32Rat (inverse raw r 3))
  let d' := (List.range 3).map fun r => ratF32 (dot3 (row r) (d.map f32Rat))
  let ok := ((List.range 12).all fun i => f32Finite (bitsOf raw (384 + 32 * i) 32)) && o.all f32Finite && d.all f32Finite
    && o'.all f32Finite && d'.all f32Finite && d'.any fun x => f32Rat x != 0
  if ok then some (o' ++ d') else none

/-! ### Tests (R342, R343) -/

/-- (bound - o) / d. -/
def slabT (b : Ext) (o d : Rat) : Ext :=
  match b with
  | .fin q => .fin ((q - o) / d)
  | .ninf => if d < 0 then .pinf else .ninf
  | .pinf => if d < 0 then .ninf else .pinf

/-- One axis: entry, exit, and whether the ray is inside a slab that it does not cross. -/
def slab (o d : Rat) (lo hi : Ext) : Ext × Ext × Bool :=
  if d = 0 then (.ninf, .pinf, lo.le (.fin o) && (Ext.fin o).le hi)
  else
    let a := slabT lo o d
    let b := slabT hi o d
    (a.min b, a.max b, true)

/-- The box test: entry t, and whether the box is hit. -/
def boxTest (o d : Vec3) (tmin : Rat) (tmax : Ext) (b : Box) : Ext × Bool :=
  let axes := (List.range 3).map fun a =>
    slab ((o[a]?).getD 0) ((d[a]?).getD 0) ((b.lo[a]?).getD (.fin 0)) ((b.hi[a]?).getD (.fin 0))
  let entry := axes.foldl (fun e x => e.max x.1) (.fin tmin)
  let exit := axes.foldl (fun e x => e.min x.2.1) tmax
  (entry, (axes.all fun x => x.2.2) && entry.le exit)

/-- What the triangle test gives for a ray inside it: t, u, v and whether the back is met. -/
structure TriHit where
  t    : Rat
  u    : Rat
  v    : Rat
  back : Bool
deriving DecidableEq, Repr

def triTest (o d : Vec3) : List Vec3 → Option TriHit
  | [a, b, c] =>
    let ao := vsub3 a o
    let bo := vsub3 b o
    let co := vsub3 c o
    let e0 := dot3 (cross3 bo co) d
    let e1 := dot3 (cross3 co ao) d
    let e2 := dot3 (cross3 ao bo) d
    let det := e0 + e1 + e2
    let inside := det != 0 && ((decide (0 ≤ e0) && decide (0 ≤ e1) && decide (0 ≤ e2))
      || (decide (e0 ≤ 0) && decide (e1 ≤ 0) && decide (e2 ≤ 0)))
    if inside then
      some ⟨dot3 ao (cross3 (vsub3 b a) (vsub3 c a)) / det, e1 / det, e2 / det, decide (0 < det)⟩
    else none
  | _ => none

end Sys2Proof.Machine
end

