-- ==== Sys2Proof/Machine/Lantern.lean ====
section
/-! DEFINITION. Lantern: traversal state records (R339 to R341), the end and the suspension of a lane (R352 to R354), counts
(R331), fetches (R348 to R350) and the steps of the traversal (R342 to R351). -/

namespace Sys2Proof.Machine

/-! ### Traversal state records (R340, R341) -/

/-- `v` with bits [lo + n - 1 : lo] replaced. -/
def putBits (v lo n x : Nat) : Nat := v - bitsOf v lo n * 2 ^ lo + x % 2 ^ n * 2 ^ lo

def rayWord (r w : Nat) : Nat := bitsOf r (32 * w) 32
def setRayWord (r w x : Nat) : Nat := putBits r (32 * w) 32 x

/-- MASK, TERM, CULLB, CULLF and NOPROC of MF (R337). -/
def rayMask (r : Nat) : Nat := bitsOf r 256 8
def rayTerm (r : Nat) : Bool := bitsOf r 264 1 == 1
def rayCullBack (r : Nat) : Bool := bitsOf r 265 1 == 1
def rayCullFront (r : Nat) : Bool := bitsOf r 266 1 == 1
def rayNoProc (r : Nat) : Bool := bitsOf r 267 1 == 1

def recD (r : Nat) : Nat := bitsOf r 898 6
def setD (r x : Nat) : Nat := putBits r 898 6 x
def recSp (r : Nat) : Nat := bitsOf r 904 4
def setSp (r x : Nat) : Nat := putBits r 904 4 x
def recHf (r : Nat) : Bool := bitsOf r 908 1 == 1
def recOvf (r : Nat) : Bool := bitsOf r 911 1 == 1
def setOvf (r x : Nat) : Nat := putBits r 911 1 x
def recLvl (r : Nat) : Nat := bitsOf r 912 1
def recBroot (r : Nat) : Nat := bitsOf r 913 5
def recTri (r : Nat) : Nat := bitsOf r 918 6
def setTri (r x : Nat) : Nat := putBits r 918 6 x
def recState (r : Nat) : Nat := bitsOf r 924 4
def setState (r x : Nat) : Nat := putBits r 924 4 x
def recInst (r : Nat) : Nat := bitsOf r 864 32
def recTdesc (r : Nat) : Nat := bitsOf r 960 64

/-- PARKT and PARKB, by level. -/
def recPark (r lvl : Nat) : Nat := bitsOf r (944 + 8 * lvl) 8
def setPark (r lvl x : Nat) : Nat := putBits r (944 + 8 * lvl) 8 x

def recTrail (r d : Nat) : Nat := bitsOf r (736 + 3 * d) 3
def setTrail (r d x : Nat) : Nat := if d < 32 then putBits r (736 + 3 * d) 3 x else r

/-- A stack entry or CURN: node, slot, depth. -/
structure Entry where
  node  : Nat
  slot  : Nat
  depth : Nat
deriving DecidableEq, Repr

def entryOf (x : Nat) : Entry := ⟨bitsOf x 8 24, bitsOf x 5 3, bitsOf x 0 5⟩
def Entry.bits (e : Entry) : Nat := e.depth % 32 + e.slot % 8 * 32 + e.node % 2 ^ 24 * 256

def recCurn (r : Nat) : Entry := entryOf (bitsOf r 832 32)
def setCurn (r : Nat) (e : Entry) : Nat := putBits r 832 32 e.bits

def recEntry (r e : Nat) : Entry := entryOf (bitsOf r (480 + 32 * e) 32)
/-- Bit e of KINDM: a continue entry; of LVLM: an entry of the bottom level. -/
def recKind (r e : Nat) : Nat := bitsOf r (936 + e) 1
def recLevel (r e : Nat) : Nat := bitsOf r (928 + e) 1

/-- A full stack discards STK0 and sets OVF (R341). -/
def makeRoom (r : Nat) : Nat :=
  if recSp r < 8 then r
  else
    let r := putBits r 480 256 (bitsOf r 480 256 / 2 ^ 32)
    let r := putBits (putBits r 936 8 (bitsOf r 936 8 / 2)) 928 8 (bitsOf r 928 8 / 2)
    setSp (setOvf r 1) 7

def push (r kind lvl : Nat) (e : Entry) : Nat :=
  let r := makeRoom r
  let n := recSp r
  setSp (putBits (putBits (putBits r (480 + 32 * n) 32 e.bits) (936 + n) 1 kind) (928 + n) 1 lvl) (n + 1)

/-- The record stays in place with one entry fewer. -/
def pop (r : Nat) : Nat := setSp r (recSp r - 1)

/-- Record of a fresh lane: its ray, everything else zero. -/
def freshRec (ray : List Word) : Nat := leNat (ray.flatMap fun w => leBytes 4 w.toNat)

def LaneState.code : LaneState → Nat
  | .running => 1 | .suspended => 2 | .switched => 3 | .done => 4 | .cancelled => 5

/-! ### Lanes -/

def RayLane.is (tag : Word) (lane : Lane) (y : RayLane) : Bool := y.tag == tag && y.lane == lane

def State.ray? (s : State) (c : CoreRef) (tag : Word) (lane : Lane) : Option RayLane :=
  (s.core c).rays.find? (RayLane.is tag lane)

def State.modRay (s : State) (c : CoreRef) (y : RayLane) (f : RayLane → RayLane) : State :=
  s.modCore c fun k => { k with rays := k.rays.map fun x => if x.is y.tag y.lane then f x else x }

/-- The lane's new record and what it does next. -/
def State.putLane (s : State) (c : CoreRef) (y : RayLane) : State := s.modRay c y fun _ => y

/-- Translation for one lane (R350). -/
def viaLane (c : CoreRef) (y : RayLane) : Via := fun s va cls atomic =>
  s.translateNow c.die (some c.core) (.command c y.tag y.lane) y.ctx va cls atomic

/-- Write the lane's record to its place in the L-store (R340). -/
def State.saveLane (s : State) (y : RayLane) : State := s.putWindow y.team .l y.addr (leBytes 128 y.rec')

/-- Write the five hit registers of the lane, as one step; no boundary waits for it (R339, R360). -/
def State.putHit (s : State) (y : RayLane) (ws : List Nat) : State :=
  s.mapGroups fun g =>
    if g.ref = y.g ∧ g.launch = y.launch ∧ g.team = y.team ∧ g.active then
      ((List.range 5).zip ws).foldl (fun g w =>
        g.putV (Fin.ofNat 128 (y.hit.val + w.1)) (1#32 <<< y.lane.val) fun _ => BitVec.ofNat 32 w.2) g
    else g

/-- Hit registers of a lane without a hit (R339). -/
def missWords (status : Nat) : List Nat := [0x7F800000, 0xFFFFFFFF, 0xFFFFFFFF, 0, status]

/-- HPT, HIID, HUV and HST of a record, with its TMAX (R339, R340). -/
def hitWords (r : Nat) : List Nat := [rayWord r 7, bitsOf r 320 32, bitsOf r 352 32, bitsOf r 384 32, bitsOf r 448 32]

/-- The lane's counts are released, where no other lane of its TRACE holds them (R331). -/
def State.freeCounts (s : State) (c : CoreRef) (y : RayLane) (cs : List InflRelease) : State :=
  cs.foldl (fun s r => if (s.core c).holdsCount y.trace y.launch r.desc r.slot then s else s.releaseCount c r) s

/-- A lane ends with a state and a code: record written, counts released (R352 to R354). -/
def State.endLane (s : State) (c : CoreRef) (y : RayLane) (st : LaneState) (code : Byte) (hst : Nat) : State :=
  let y := { y with state := st, held := false, code, rec' := setState (putBits y.rec' 448 32 hst) st.code }
  let s := (s.putLane c { y with counts := [], top := none, bot := none, node := none }).dropRequests
    fun r => r == .command c y.tag y.lane
  (s.freeCounts c y y.owed).saveLane y

/-- A lane ends, and its hit registers tell how (R339, R360). -/
def State.closeLane (s : State) (c : CoreRef) (y : RayLane) (st : LaneState) (code : Byte) (hst : Nat) (ws : List Nat) :
    State := (s.endLane c y st code hst).putHit y ws

/-- Finish: the committed hit, or a miss (R345). -/
def State.finishLane (s : State) (c : CoreRef) (y : RayLane) : State :=
  if recHf y.rec' then s.closeLane c y .done 1 (bitsOf y.rec' 448 32) (hitWords y.rec')
  else s.closeLane c y .done 0 0 (missWords 0)

/-- A fault with a detail (R354). -/
def State.faultLane (s : State) (c : CoreRef) (y : RayLane) (detail : Nat) : State :=
  let w := 3 + detail % 256 * 256
  s.closeLane c y .done 3 w (missWords w)

/-- A cancelled lane (R353, R364). -/
def State.cancelLane (s : State) (c : CoreRef) (y : RayLane) : State := s.closeLane c y .cancelled 4 4 (missWords 4)

/-- ValidSuspended (R352). A visit entry of depth 32 has DEPTH 0. -/
def validSuspended (r : Nat) : Bool :=
  recState r == 2 && decide (recSp r ≤ 8) && decide (recD r ≤ 32) && decide ((recCurn r).depth ≤ recD r)
    && (List.range (recSp r)).all fun e => decide ((recEntry r e).depth ≤ recD r)

/-- A held lane ends as .END would end it, on its record as it stands in the L-store, without its hit registers (R340, R361,
R362). -/
def State.supersede (s : State) (c : CoreRef) (y : RayLane) : State :=
  let r := (s.windowOf y.team .l).nat y.addr 128
  let y := { y with rec' := r }
  let fault (detail : Nat) : State := s.endLane c y .done 3 (3 + detail * 256)
  if !s.readable y.team .l y.addr 128 then fault 7
  else if !validSuspended r then fault 38
  else if recHf r then s.endLane c y .done 1 (bitsOf r 448 32) else s.endLane c y .done 0 0

/-- Suspension at a procedural primitive (R352). -/
def State.suspendLane (s : State) (c : CoreRef) (y : RayLane) (ws : List Nat) : State :=
  let y := { y with state := .suspended, held := true, code := 2, node := none, cont := .loop,
                    rec' := setState y.rec' 2 }
  ((s.putLane c y).saveLane y).putHit y ws

/-! ### Counts and slots (R331, R320) -/

/-- The fields of a slot, from the 128 bytes of its descriptor. -/
def slotRef (desc raw : Nat) (slot : Fin 2) : StructRef :=
  let f (lo n : Nat) := bitsOf raw (512 + 256 * slot.val + lo) n
  { desc, slot, inst := bitsOf raw 1 1 == 1, nodea := f 192 64, prima := f 128 64, nnode := f 96 32, nprim := f 64 32,
    gen := f 16 16 }

/-- SST of a slot. -/
def slotState (raw : Nat) (slot : Fin 2) : Nat := bitsOf raw (512 + 256 * slot.val + 8) 8

def curSlot (raw : Nat) : Fin 2 := if bitsOf raw 0 1 = 1 then 1 else 0

/-- What a step that may end the lane comes to. -/
inductive Lan (α : Type) where
  | ok (a : α) (s : State)
  | wait (s : State)
  | fault (detail : Nat) (s : State)

def Lan.bind {α β : Type} (x : Lan α) (f : α → State → Lan β) : Lan β :=
  match x with
  | .ok a s => f a s
  | .wait s => .wait s
  | .fault d s => .fault d s

def Chk.lan {α : Type} (x : Chk α) : Lan α :=
  match x with
  | .ok a s => .ok a s
  | .wait s => .wait s
  | .bad st _ s => .fault st.toNat s

/-- The lane as a party of a scope: its team's (R198). -/
def State.laneParty (s : State) (c : CoreRef) (y : RayLane) : Party :=
  ⟨c.die, c.core, ((s.team? y.team).map Team.rootTeam).getD y.team⟩

/-- Read bytes as one little-endian value: each fetch is an acquire at .dev (R203, R348). -/
def readLane (c : CoreRef) (y : RayLane) (s : State) (va n : Nat) : Lan Nat :=
  (readVia ((viaLane c y).acquiring fun t pa k => t.aheadFor .dev (t.laneParty c y) pa k) s va n).lan.bind fun bs s => .ok (leNat bs) s

/-- Take the count of a descriptor's current slot: a CAS that needs SST = 2, made once for all lanes of a TRACE. With the
descriptor read in one step, SST other than 2 means that CUR reads the same again (R331, R354). -/
def takeCount (c : CoreRef) (y : RayLane) (s : State) (desc : Nat) : Lan StructRef :=
  (readLane c y s desc 128).bind fun raw s =>
    let slot := curSlot raw
    if slotState raw slot ≠ 2 then .fault 37 s
    else if (s.core c).holdsCount y.trace y.launch desc slot then .ok (slotRef desc raw slot) s
    else
      (turnVia (viaLane c y) c.die y.ctx (some c.core) s (stateWordAt desc slot) 8 true).lan.bind fun pa s =>
        let w := s.mem.nat pa 8
        let n := (bitsOf w 32 32 + 1) % 2 ^ 32
        .ok (slotRef desc raw slot) (s.writeL2 y.ctx pa (leBytes 8 (w % 2 ^ 32 + n * 2 ^ 32)))

/-! ### Rays and boxes (R342, R345) -/

/-- A coordinate of the ray as a number; a re-entered record may hold one that is none (notes/assumptions/24). -/
def rayRat (w : Nat) : Rat := if f32Finite w then f32Rat w else Config.unusableBound (BitVec.ofNat 32 w)

/-- TMAX, which may be infinite. -/
def rayExt (w : Nat) : Ext :=
  match f32Val w with
  | .nan => .fin (Config.unusableBound (BitVec.ofNat 32 w))
  | v => v.ext

/-- Origin and direction of the ray for a level: the world ray, or the object ray of the instance (R342, R347). -/
def RayLane.line (y : RayLane) (lvl : Nat) : Vec3 × Vec3 :=
  match lvl, y.obj with
  | 1, some (ws, _) => ((ws.take 3).map fun w => rayRat w.toNat, (ws.drop 3).map fun w => rayRat w.toNat)
  | _, _ => ([0, 1, 2].map fun i => rayRat (rayWord y.rec' i), [3, 4, 5].map fun i => rayRat (rayWord y.rec' i))

def RayLane.testBox (y : RayLane) (lvl : Nat) (b : Box) : Ext × Bool :=
  let l := y.line lvl
  boxTest l.1 l.2 (rayRat (rayWord y.rec' 6)) (rayExt (rayWord y.rec' 7)) b

/-- Keys (entry t, slot) in their order. -/
def keyLt (a b : Ext × Nat) : Bool := if a.1 = b.1 then decide (a.2 < b.2) else a.1.le b.1

def insertKey (x : Ext × Nat) : List (Ext × Nat) → List (Ext × Nat)
  | [] => [x]
  | y :: ys => if keyLt x y then x :: y :: ys else y :: insertKey x ys

def RayLane.key (y : RayLane) (lvl raw c : Nat) : Ext × Nat := ((y.testBox lvl (childBox raw c)).1, c)

/-- HitChildren: the valid children whose boxes are hit, by (entry t, slot). -/
def RayLane.hits (y : RayLane) (lvl raw : Nat) : List (Ext × Nat) :=
  (validChildren raw).foldl (fun l c =>
    let t := y.testBox lvl (childBox raw c)
    if t.2 then insertKey (t.1, c) l else l) []

/-- Leaves of the hits behind a key, with their primitives. -/
def leavesAfter (raw : Nat) (hs : List (Ext × Nat)) (after : Option (Ext × Nat)) : List (Nat × Nat) :=
  (hs.filter fun h => !nodeInternal raw h.2 && match after with
    | some a => keyLt a h
    | none => true).map fun h => (h.2, nodeCref raw h.2)

/-- Internal hits are pushed last to first at depth k; at a root a fenced one is parked (R345, R351). -/
def pushInternal (raw n k lvl : Nat) (hs : List (Ext × Nat)) (r : Nat) : Nat :=
  (hs.filter fun h => nodeInternal raw h.2).reverse.foldl (fun r h =>
    if n = 0 ∧ nodeFence raw h.2 then setPark r lvl (recPark r lvl ||| 2 ^ h.2)
    else push r 0 lvl ⟨nodeCref raw h.2, h.2, k⟩) r

/-! ### Fetches (R348 to R350) -/

/-- A node of a slot: index, sequence counter, generation and form; `none` when SEQ is odd and the node must be fetched
again. -/
def fetchNode (c : CoreRef) (y : RayLane) (s : State) (r : StructRef) (n : Nat) : Lan (Option Nat) :=
  if r.nnode ≤ n then .fault 35 s
  else
    (readLane c y s (r.nodea + 128 * n) 128).bind fun raw s =>
      if nodeSeq raw % 2 = 1 then .ok none s
      else if nodeGen raw ≠ r.gen then .fault 34 s
      else if !nodeOk raw then .fault 39 s
      else .ok (some raw) s

/-- An instance record. -/
def fetchInst (c : CoreRef) (y : RayLane) (s : State) (r : StructRef) (p : Nat) : Lan Nat :=
  if r.nprim ≤ p then .fault 35 s
  else (readLane c y s (r.prima + 128 * p) 128).bind fun raw s => if instOk raw then .ok raw s else .fault 36 s

/-- The next line of a patch; a patch whose lines in use have been read is judged as a whole (R315, R348, R349). -/
def fetchLine (c : CoreRef) (y : RayLane) (s : State) (r : StructRef) (p : Nat) : Lan (Option Nat × List Nat) :=
  if r.nprim ≤ p then .fault 35 s
  else
    (readLane c y s (r.prima + 1024 * p + 128 * y.part.length) 128).bind fun line s =>
      let part := y.part ++ [line]
      if 128 * part.length < patchLen (part.headD 0) then .ok (none, part) s
      else
        let raw := (part.mapIdx fun i x => x * 2 ^ (1024 * i)).sum
        if (readPatch raw).isSome then .ok (some raw, []) s else .fault 36 s

/-- PID of a patch: its first line is read. -/
def fetchPid (c : CoreRef) (y : RayLane) (s : State) (r : StructRef) (p : Nat) : Lan Nat :=
  if r.nprim ≤ p then .fault 35 s
  else (readLane c y s (r.prima + 1024 * p) 128).bind fun raw s => .ok (bitsOf raw 224 32) s

/-- The slot that a level walks. -/
def RayLane.ref (y : RayLane) (lvl : Nat) : Option StructRef := if lvl = 1 then y.bot else y.top

/-- Level of a depth during Restart: the bottom level starts at BROOT. -/
def levelAt (r d : Nat) : Nat := if recLvl r = 1 ∧ recBroot r ≤ d then 1 else 0

/-- The record that a lane awaits: level, and node or primitive. -/
inductive Await where
  | node (lvl n : Nat)
  | prim (lvl p : Nat)
deriving DecidableEq, Repr

def RayLane.awaits (y : RayLane) : Option Await :=
  match y.cont with
  | .visit n _ _ => some (.node (recLvl y.rec') n)
  | .again n _ _ => some (.node (recLvl y.rec') n)
  | .restart d p => some (.node (levelAt y.rec' d) p)
  | .leaf _ _ _ cref _ _ => some (.prim (recLvl y.rec') cref)
  | .resolve bottom => some (.node (if bottom then 1 else 0) 0)
  | _ => none

/-- Fetch what a lane awaits: a node, an instance, or the next line of a patch. A level that the lane has entered no slot of
cannot be read (notes/assumptions/24). -/
def State.fetchLane (s : State) (c : CoreRef) (y : RayLane) : State :=
  let go (lvl : Nat) (f : StructRef → Lan (Option Nat × List Nat)) : State :=
    match y.ref lvl with
    | none => s.faultLane c y 38
    | some r =>
      match f r with
      | .ok x s => s.putLane c { y with node := x.1, part := x.2 }
      | .wait s => s
      | .fault d s => s.faultLane c y d
  match y.awaits with
  | some (.node lvl n) => go lvl fun r => (fetchNode c y s r n).bind fun raw s => .ok (raw, []) s
  | some (.prim lvl p) => go lvl fun r =>
    if r.inst then (fetchInst c y s r p).bind fun raw s => .ok (some raw, []) s else fetchLine c y s r p
  | none => s

/-! ### Steps of the traversal (R343 to R347) -/

/-- RNE of a number to FP16. -/
def ratF16 (q : Rat) : Nat := roundRatTo fp16 .rne q

/-- The status word of a committed hit. -/
def hitStatus (back : Bool) : Nat := 1 + (if back then 2 ^ 16 else 0)

/-- Commit a candidate (R344). -/
def commit (r cref tri pid iid : Nat) (h : TriHit) : Nat :=
  let r := putBits (setRayWord r 7 (ratF32 h.t)) 908 1 1
  let r := putBits (putBits r 320 32 (cref * 64 + tri)) 352 32 iid
  putBits (putBits (putBits r 384 32 (ratF16 h.u + ratF16 h.v * 2 ^ 16)) 416 32 pid) 448 32 (hitStatus h.back)

/-- The IID that a hit reports (R339). -/
def RayLane.iid (y : RayLane) : Nat :=
  match y.obj with
  | some (_, i) => if recLvl y.rec' = 1 then i.toNat else 0xFFFFFFFF
  | none => 0xFFFFFFFF

/-- A triangle inside the ray is a candidate (R344). -/
def RayLane.candidate (y : RayLane) (h : TriHit) : Bool :=
  let t := rayExt (ratF32 h.t)
  let tmax := rayExt (rayWord y.rec' 7)
  !(if h.back then rayCullBack y.rec' else rayCullFront y.rec')
    && decide (rayRat (rayWord y.rec' 6) ≤ h.t)
    && (if recHf y.rec' then t.le tmax && t != tmax else t.le tmax)

/-- The lane turns to a leaf of a node, or to the loop when none is left (R345). -/
def RayLane.toLeaf (y : RayLane) (n k : Nat) : List (Nat × Nat) → RayLane
  | [] => { y with node := none, cont := .loop }
  | (sl, cref) :: rest =>
    { y with
      node := none
      cont := .leaf n k sl cref 0 rest
      rec' := setTri (setCurn (setD (setTrail y.rec' k sl) (k + 1)) ⟨n, sl, k⟩) 0 }

/-- One triangle of the patch at hand, or the next leaf (R345). -/
def State.stepPatch (s : State) (c : CoreRef) (y : RayLane) (n k sl cref tri : Nat) (rest : List (Nat × Nat))
    (p : Patch) : State :=
  let lvl := recLvl y.rec'
  let next (r : Nat) : RayLane := { y with rec' := setTri r (tri + 1), cont := .leaf n k sl cref (tri + 1) rest }
  if p.tris.length ≤ tri then s.putLane c (y.toLeaf n k rest)
  else if p.proc then
    let t := match p.triBox tri with
      | some b => y.testBox lvl b
      | none => (.ninf, false)
    if rayNoProc y.rec' ∨ t.2 = false then s.putLane c (next y.rec')
    else
      s.suspendLane c { y with rec' := setTri y.rec' (tri + 1) } [ratF32 t.1.rat, cref * 64 + tri, y.iid, 0, 2]
  else
    let l := y.line lvl
    match triTest l.1 l.2 (p.corners tri) with
    | none => s.putLane c (next y.rec')
    | some h =>
      if !y.candidate h then s.putLane c (next y.rec')
      else
        let r := commit y.rec' cref tri p.pid y.iid h
        if rayTerm r then s.finishLane c { y with rec' := r } else s.putLane c (next r)

/-- The object ray of an instance for the lane's world ray. -/
def RayLane.objRay (y : RayLane) (raw : Nat) : Option (List Word × Word) :=
  (objectRay raw ([0, 1, 2].map (rayWord y.rec')) ([3, 4, 5].map (rayWord y.rec'))).map fun ws =>
    (ws.map (BitVec.ofNat 32), BitVec.ofNat 32 (instIid raw))

/-- An instance whose bounds are not finite is malformed (R317, R349); a root with no child gives none. -/
def rootBounds (c : CoreRef) (y : RayLane) (s : State) (r : StructRef) (raw : Nat) : Lan Unit :=
  (readLane c y s r.nodea 128).bind fun root s =>
    if nodeSeq root % 2 = 1 then .wait s
    else
      match ownBox root with
      | none => .ok () s
      | some b => if nodeOk root && (instBounds raw b).isNone then .fault 36 s else .ok () s

/-- The lane goes on without the bottom count that it held, which is released where no other lane holds it (R331). -/
def State.dropBottom (s : State) (c : CoreRef) (y z : RayLane) : State :=
  (s.putLane c z).freeCounts c y (y.owed.drop 1)

/-- The slot of an instance's structure, with its count: the one that the lane holds already, which a stop may have left it
with, or the current one, taken now (R331, R353). -/
def takeBottom (c : CoreRef) (y : RayLane) (s : State) (desc : Nat) : Lan StructRef :=
  match y.bot with
  | some ref => .ok ref s
  | none => (readLane c y s desc 128).bind fun d s =>
    if bitsOf d 1 1 = 1 then .fault 37 s
    else
      match (y.counts.drop 1).find? (·.1 == desc) with
      | some h => .ok (slotRef desc d h.2) s
      | none => takeCount c y s desc

/-- EnterInstance (R347): the count is taken before the root is read, and once, also where the root is waited for. -/
def State.enterInstance (s : State) (c : CoreRef) (y : RayLane) (n k sl cref : Nat) (rest : List (Nat × Nat)) (raw : Nat) :
    State :=
  if instOff raw ∨ instMask raw &&& rayMask y.rec' = 0 then
    s.dropBottom c y { y.toLeaf n k rest with counts := y.counts.take 1, bot := none }
  else
    let desc := instDesc raw
    match takeBottom c y s desc with
    | .wait s => s
    | .fault d s => s.faultLane c y d
    | .ok ref s =>
      let z := { y with counts := y.counts.take 1 ++ [(desc, ref.slot)], bot := some ref }
      let s := s.dropBottom c y z
      let y := z
      match rootBounds c y s ref raw with
      | .wait s => s
      | .fault d s => s.faultLane c y d
      | .ok _ s =>
        match y.objRay raw with
        | none => s.faultLane c y 36
        | some o =>
          let r := putBits (putBits y.rec' 864 32 cref) 909 1 ref.slot.val
          let r := putBits (putBits r 912 1 1) 913 5 (k + 1)
          let r := push (push r 1 0 ⟨n, sl, k⟩) 0 1 ⟨0, sl, k + 1⟩
          s.putLane c { y with rec' := r, obj := some o, node := none, cont := .loop }

/-- Visit of a node that has been fetched (R345). -/
def RayLane.visited (y : RayLane) (n k raw : Nat) : RayLane :=
  let lvl := recLvl y.rec'
  let hs := y.hits lvl raw
  let y := { y with rec' := pushInternal raw n (k + 1) lvl hs (setD y.rec' k) }
  y.toLeaf n k (leavesAfter raw hs none)

/-- A continue entry's node has been fetched again (R345). -/
def RayLane.continued (y : RayLane) (n k sl raw : Nat) : RayLane :=
  let lvl := recLvl y.rec'
  let ls := leavesAfter raw (y.hits lvl raw) (some (y.key lvl raw sl))
  { y with rec' := setD y.rec' (k + 1) }.toLeaf n k ls

/-- Restart at depth d, its node fetched (R346). -/
def RayLane.restarted (y : RayLane) (d p raw : Nat) : RayLane :=
  let lvl := levelAt y.rec' d
  let hs := y.hits lvl raw
  let sl := recTrail y.rec' d
  let r := if nodeInternal raw sl then
      pushInternal raw p (d + 1) lvl (hs.filter fun h => keyLt (y.key lvl raw sl) h) y.rec'
    else push (pushInternal raw p (d + 1) lvl hs y.rec') 1 lvl ⟨p, sl, d⟩
  let next := if recLvl r = 1 ∧ d + 1 = recBroot r then 0 else nodeCref raw sl
  { y with rec' := r, node := none, cont := if d + 1 < recD r then .restart (d + 1) next else .loop }

/-- The children parked at a root whose fences have cleared are pushed, at depth 1 (R351). -/
def RayLane.resolved (y : RayLane) (lvl raw : Nat) : RayLane :=
  let cs := [7, 6, 5, 4, 3, 2, 1, 0].filter fun c =>
    recPark y.rec' lvl / 2 ^ c % 2 == 1 && nodeInternal raw c && (y.testBox lvl (childBox raw c)).2
  let r := cs.foldl (fun r c => push r 0 lvl ⟨nodeCref raw c, c, 1⟩) y.rec'
  { y with rec' := setPark r lvl 0, node := none, cont := .loop }

/-- LeaveBottom: the bottom count is released (R345). -/
def State.leaveBottom (s : State) (c : CoreRef) (y : RayLane) : State :=
  let r := putBits (putBits y.rec' 912 1 0) 913 5 0
  s.dropBottom c y { y with rec' := r, counts := y.counts.take 1, bot := none, obj := none }

/-- The lane parks: its record is written, and the root is fetched again every 512 cycles (R340, R351). -/
def State.parkLane (s : State) (c : CoreRef) (y : RayLane) (bottom : Bool) : State :=
  let y := { y with cont := .resolve bottom, node := none, poll := 0, rec' := setState y.rec' 1 }
  (s.putLane c y).saveLane y

/-- The head of the loop (R345). -/
def State.loopHead (s : State) (c : CoreRef) (y : RayLane) : State :=
  let r := y.rec'
  let sp := recSp r
  if sp = 0 ∧ recOvf r then
    let r := setOvf r 0
    s.putLane c { y with rec' := r, cont := if recD r = 0 then .loop else .restart 0 0 }
  else if recLvl r = 1 ∧ (sp = 0 ∨ recLevel r (sp - 1) = 0) then
    if recPark r 1 ≠ 0 then s.parkLane c y true else s.leaveBottom c y
  else if sp = 0 then
    if recPark r 0 ≠ 0 then s.parkLane c y false else s.finishLane c y
  else
    let e := recEntry r (sp - 1)
    let kind := recKind r (sp - 1)
    let depth := if kind = 0 ∧ e.depth = 0 then 32 else e.depth
    let r := setTrail (pop r) (depth + kind - 1) e.slot
    let y := { y with rec' := r, node := none }
    if kind = 1 then s.putLane c { y with cont := .again e.node e.depth e.slot }
    else if 31 < depth then s.faultLane c y 33
    else s.putLane c { y with cont := .visit e.node depth e.slot }

/-- One step of a lane whose awaited record is at hand, or of the loop. -/
def State.stepLane (s : State) (c : CoreRef) (y : RayLane) : State :=
  match y.cont, y.node with
  | .loop, _ => s.loopHead c y
  | .visit n k _, some raw => s.putLane c (y.visited n k raw)
  | .again n k sl, some raw => s.putLane c (y.continued n k sl raw)
  | .restart d p, some raw => s.putLane c (y.restarted d p raw)
  | .leaf n k sl cref tri rest, some raw =>
    match y.ref (recLvl y.rec') with
    | none => s
    | some ref =>
      if ref.inst then s.enterInstance c y n k sl cref rest raw
      else
        match readPatch raw with
        | some p => s.stepPatch c y n k sl cref tri rest p
        | none => s.faultLane c y 36
  | _, _ => s

end Sys2Proof.Machine
end

