-- ==== Sys2Proof/Machine/Barrier.lean ====
section
/-! DEFINITION. Barriers, leaving and retirement (R113, R156 to R158, R160, R161, R172, R173, R374). -/

namespace Sys2Proof.Machine

/-! ### Barriers (R156, R157, R173) -/

/-- The group has left by EXIT or by its last LEXIT (R157). -/
def Group.hasExited (g : Group) : Bool :=
  match g.run with
  | .exiting | .retired | .aborted => true
  | _ => false

/-- The barrier of a level and number that the focused group names. -/
def State.barRef (s : State) (level : Fin 3) (id : Fin 16) : BarRef :=
  match level with
  | 0 => .team s.g.coreRef s.g.team id
  | 1 =>
    let root := match s.team? s.g.team with
      | some t => (t.root, t.rootTeam)
      | none => (s.g.core, s.g.team)
    .cluster ⟨s.g.die, root.1⟩ root.2 (Fin.ofNat 4 id.val)
  | 2 => .grid s.g.launch

/-- BARC and BARG order memory at .clu and .dev, BAR at .core (R158). -/
def barWide (b : BarRef) : Bool :=
  match b with
  | .team _ _ _ => false
  | _ => true

/-- The groups that meet at a barrier. -/
def State.meets (s : State) (b : BarRef) : List Group :=
  s.groups.filter fun g =>
    match b with
    | .team _ t _ => g.team == t
    | .cluster _ t _ => match s.team? g.team with
      | some x => x.rootTeam == t
      | none => false
    | .grid l => g.launch == l

/-- A barrier as it stands; one that nobody has reached is at its first phase. -/
def State.bar (s : State) (b : BarRef) : Barrier := (s.bars.find? (·.ref == b)).getD ⟨b, 0, none, [], 0, 0, [], []⟩

def State.setBar (s : State) (x : Barrier) : State := { s with bars := x :: s.bars.filter (·.ref != x.ref) }

/-- A group as a barrier counts it. -/
def Group.seat (g : Group) : GroupRef × Nat := (g.ref, g.team)

/-- The phase has what completes it by the end of a cycle: its explicit count, or the arrival of every group that has not exited
by then; one that has exited behind an arrival still under way has not arrived yet (R157, R173, R208). -/
def Barrier.full (x : Barrier) (gs : List Group) (cycle : Nat) : Bool :=
  match x.count with
  | some n => decide (n ≤ x.here.length + x.past)
  | none => gs.all fun g =>
      x.here.contains g.seat || (g.hasExited && decide (g.leftAt ≤ cycle) && !x.sent.any fun a => a.g == g.ref)

/-- A phase completes and the next opens (R173). -/
def Barrier.next (x : Barrier) : Barrier := { x with phase := x.phase + 1, count := none, here := [], past := 0 }

def Barrier.close (x : Barrier) (gs : List Group) (cycle : Nat) : Barrier := if x.full gs cycle then x.next else x

/-- An explicit count that has been reached closes the phase before a further arrival, which belongs to the next one (R173). -/
def Barrier.closeCount (x : Barrier) : Barrier := if x.count.isSome && x.full [] 0 then x.next else x

/-- Arrivals of one cycle stand in the order of core, then slot (R173). -/
def Arrival.before (a b : Arrival) : Bool :=
  decide (a.cycle < b.cycle) || (a.cycle == b.cycle &&
    (decide (a.g.core.val < b.g.core.val) || (a.g.core == b.g.core && decide (a.g.slot.val < b.g.slot.val))))

def insertArrival (a : Arrival) : List Arrival → List Arrival
  | [] => [a]
  | b :: bs => if a.before b then a :: b :: bs else b :: insertArrival a bs

/-- The arrival of the focused group is sent to the root. -/
def State.arrive (s : State) (b : BarRef) (count : Option Nat) : State :=
  let x := s.bar b
  s.setBar { x with sent := insertArrival ⟨s.g.ref, s.g.seq, (s.die s.g.die).clock, count⟩ x.sent }

/-- An arrival is a release of every earlier access of its group at the barrier's scope, behind the group's fences (R158, R208):
the group's stores are on their way to L2, where those of other cores that meet it wait for them (notes/assumptions/118). -/
def State.released (s : State) (a : Arrival) : Bool :=
  (s.groups.all fun g => !(g.active && g.ref == a.g) || g.storesBefore a.seq) && s.fencesMet a.g a.seq

/-- The stores that arrivals from a core publish, with those published before that have not reached L2. -/
def State.publishes (s : State) (b : BarRef) (c : CoreRef) : List (CoreRef × Nat) :=
  if barWide b then
    ((s.bar b).owed.filter fun p => (s.core p.1).path.any (·.n == p.2)) ++ (s.core c).path.map fun e => (c, e.n)
  else []

/-- What arrivals from other cores publish has reached L2 (R158, R208). -/
def State.observes (s : State) (b : BarRef) : Bool :=
  (s.bar b).owed.all fun p => p.1 == s.g.coreRef || !(s.core p.1).path.any (·.n == p.2)

/-- The group that holds a place, as a barrier counts it. -/
def State.seatOf (s : State) (r : GroupRef) : GroupRef × Nat :=
  ((s.groups.find? fun g => g.active && g.ref == r).map Group.seat).getD (r, 0)

/-- The root counts one arrival: at most one of a group in a phase, the first fixing the count (R157, R173). -/
def State.countOne (s : State) (b : BarRef) (a : Arrival) : State :=
  let s := s.meetFences a.g a.seq
  let x := (s.bar b).closeCount
  let x := { x with sent := x.sent.erase a, owed := s.publishes b ⟨a.g.die, a.g.core⟩ }
  let m := s.seatOf a.g
  let y := if x.here.contains m then x
    else { x with here := x.here ++ [m], count := if x.here.isEmpty && x.past == 0 then a.count else x.count }
  let s := s.mapGroups fun g =>
    if g.active && g.ref == a.g then { g with arrived := (b, x.phase) :: g.arrived.filter (·.1 != b) } else g
  s.setBar y

/-- Completion is evaluated when everything that reached the root in a cycle has been counted (R173). -/
def State.closeBar (s : State) (b : BarRef) (cycle : Nat) : State :=
  if s.bars.any (·.ref == b) then s.setBar ((s.bar b).close (s.meets b) cycle) else s

/-- Arrivals are counted in their order, cycle by cycle, the exits of a cycle with its arrivals (R173). -/
def State.countAll (s : State) (b : BarRef) (cycle : Nat) : List Arrival → State
  | [] => s
  | a :: as =>
    if a.cycle = cycle then (s.countOne b a).countAll b cycle as
    else ((s.closeBar b (a.cycle - 1)).countOne b a).countAll b a.cycle as

/-- The phase that the focused group waits for has completed, and what its arrivals publish can be observed (R157, R208). -/
def State.phaseOver (s : State) (b : BarRef) (opened : Nat) : Bool :=
  let x := s.bar b
  s.observes b && !(x.sent.any fun a => a.g == s.g.ref) &&
    match s.g.arrived.find? (·.1 == b) with
    | some p => decide (p.2 < x.phase)
    | none => decide (opened < x.phase)

/-- The completion that a SYNC or WAIT sees is an acquire at the barrier's scope (R158, R203, R208). -/
def State.barAcquire (s : State) (b : BarRef) : State := if barWide b then s.dropL1 s.g.coreRef else s

/-- Wait at a barrier, or go on at once when the phase is over. -/
def State.awaitPhase (s : State) (c : Ctl) (b : BarRef) (sync : Bool) (count : Nat) : State :=
  let n := (s.bar b).phase
  if s.phaseOver b n then (s.barAcquire b).advance c
  else s.beginWait c (.barrier b n sync count)

/-- The group has arrived at the barrier at its place before a trap or a stop cut its wait short (R157, R392). -/
def Group.owed (g : Group) : Bool := (if g.tm then g.owesH else g.owes) == some g.planeAddr

def Group.paid (g : Group) : Group := if g.tm then { g with owesH := none } else { g with owes := none }

/-- The focused group's launch is cooperative (R162). -/
def State.cooperative (s : State) : Bool :=
  match s.launch? s.g.launch with
  | some l => l.record.coop
  | none => false

/-- BAR, BARC and BARG: the park, the check of the count, then the arrival and the wait (R22, R156, R157). A BARG in a launch that
is not cooperative and an inline count out of range trap whatever COND says (R50, R51); a count in a register is read only
where COND is true (notes/assumptions/111). -/
def State.barrier (s : State) (i : Instr) (x : BarArgs) (level : Fin 3) (max : Nat) : State :=
  if s.g.flushing then s
  else
    let count := x.count.map fun o => (s.g.src x.c .n64 o).toNat
    let badCount := match count with
      | some n => n == 0 || decide (max < n)
      | none => false
    let inline := match x.count with
      | some o => o.isInline
      | none => false
    if (level == 2 && !s.cooperative) || (inline && badCount) then s.boundary (.trap (s.g.illegal 10 i))
    else if !x.cond.holds s.g.sc then s.advance x.c
    else if s.g.unsettled then s.boundary .wait
    else if badCount then s.boundary (.trap (s.g.illegal 10 i))
    else
      let b := s.barRef level x.id
      let again := s.g.owed
      let s := { s with g := s.g.paid }
      match x.mode with
      | .arr => (s.arrive b count).advance x.c
      | .wait => s.awaitPhase x.c b false (count.getD 0)
      | .sync => (if again then s else s.arrive b count).awaitPhase x.c b true (count.getD 0)

def execBar (x : BarArgs) (s : State) : Host.Outcome State Fault Refusal := .next (s.barrier (.bar x) x 0 32)
def execBarc (x : BarArgs) (s : State) : Host.Outcome State Fault Refusal := .next (s.barrier (.barc x) x 1 384)
def execBarg (x : BarArgs) (s : State) : Host.Outcome State Fault Refusal := .next (s.barrier (.barg x) x 2 0)

/-- The root counts the arrivals of earlier cycles that have been released, in order, and the exits: what reaches it in one
cycle is counted before completion is evaluated (R173). -/
def execBarrierArrivalCount (b : BarRef) (s : State) : Host.Outcome State Fault Refusal :=
  .next (
    let ready := (s.bar b).sent.filter fun a => decide (a.cycle < (s.die a.g.die).clock) && s.released a
    match ready with
    | [] => s.closeBar b ((s.die 0).clock - 1)
    | a :: _ => (s.countAll b a.cycle ready).closeBar b ((s.die 0).clock - 1))

/-- The focused group leaves a barrier whose phase is over. -/
def State.leaveBar (s : State) (b : BarRef) : State :=
  match s.g.run with
  | .waiting _ (.barrier x n _ _) => if x = b && s.phaseOver b n then (s.barAcquire b).wake else s
  | _ => s

/-- The groups that wait for a completed phase are released (R173). -/
def execBarrierRelease (b : BarRef) (s : State) : Host.Outcome State Fault Refusal :=
  .next (((s.meets b).map Group.ref).foldl (fun s r => s.atGroup r fun s => s.leaveBar b) s)

/-! ### Leaving (R160, R161, R374) -/

/-- The group leaves: it has no run boundary left, so a fault of a store, atomic or QPUT that still waits for one aborts
the launch, and one of a load is discarded (R160, R374; notes/assumptions/19). -/
def State.leaveGroup (s : State) : State :=
  match earliest (s.g.deferred.filter Deferred.ofWrite) with
  | some d => s.abortLaunch s.g.launch (s.report 5 d.code d.sub d.info 0 0)
  | none => { s with g := { s.g with
      run := .exiting, deferred := [], wdue := false, settled := false, leftAt := (s.die s.g.die).clock } }

def execExit (x : Plain) (s : State) : Host.Outcome State Fault Refusal :=
  .next (if s.g.flushing then s else if x.cond.holds s.g.sc then s.leaveGroup else s.advance x.c)

/-- LEXIT: the member lanes leave, and with the last lane the group (R161). -/
def execLexit (x : LexitArgs) (s : State) : Host.Outcome State Fault Refusal :=
  .next (
    let m := s.g.executing x.g
    if s.g.flushing then s
    else
      let s := { s with g := { s.g with exec := s.g.exec &&& ~~~m, exitm := s.g.exitm ||| m } }
      if s.g.exitm = BitVec.allOnes 32 then s.leaveGroup else s.advance x.c)

/-! ### Retirement (R112, R113, R172) -/

/-- Records of a launch in the bins or the spill area of the dies, or set aside for a save (R172, R391). -/
def State.records (s : State) (l : Launch) : Bool :=
  (s.dies.toList.any fun d => (d.bins ++ d.formed).any (·.launch == l.key)) || (l.spill.toList.any fun p => p.1 != p.2)
    || !(l.pre.elim [] Preempt.bins).isEmpty

/-- A grid completes when its tickets are taken, its teams have retired and no record of it is left (R113, R172). -/
def State.gridEnd (s : State) (key : Nat) : State :=
  match s.launch? key with
  | none => s
  | some l =>
    if l.phase = .running ∧ l.t0.low = l.t0.high ∧ l.t1.low = l.t1.high ∧ !s.teams.any (·.launch == key) ∧ !s.records l
    then s.modLaunch key fun l => { l with phase := .ended 0 }
    else s

/-- Groups of a launch that the device forgets have exited for good: the grid barrier of a cooperative launch counts them still (R157,
R399). -/
def State.forgetExited (s : State) (launch n : Nat) : State :=
  match s.launch? launch with
  | some l =>
    if l.record.coop then
      let x := s.bar (.grid launch)
      s.setBar { x with gone := x.gone + n }
    else s
  | none => s

/-- The teams of a cluster retire together, once all their groups have (R112); lanes still suspended end (R364). -/
def State.retireTeams (s : State) (root : Nat) : State :=
  let keys := (s.teams.filter (·.rootTeam == root)).map Team.key
  if s.groups.any fun g => keys.contains g.team && g.active then s
  else
    let cores := ((s.teams.filter (·.rootTeam == root)).map fun t => (⟨t.die, t.core⟩ : CoreRef)).eraseDups
    let s := cores.foldl (fun s c => s.dropRays c fun y => keys.contains y.team) s
    let out := s.groups.filter fun g => keys.contains g.team
    let s := out.foldl (fun s g => s.forgetExited g.launch 1) s
    { s with
      teams := s.teams.filter fun t => !keys.contains t.key
      bars := s.bars.filter fun b => !BarRef.ofKeys keys s.key b.ref
      rest := s.rest.filter fun g => !keys.contains g.team }

/-- An arrival of the group is still under way to a barrier's root. -/
def State.arriving (s : State) (r : GroupRef) : Bool := s.bars.any fun b => b.sent.any fun a => a.g == r

/-- An exiting group retires once its stores are drained, its commands have ended and its arrivals have been counted (R113, R157,
R160). -/
def execGroupRetire (r : GroupRef) (s : State) : Host.Outcome State Fault Refusal :=
  .next (
    match s.focus r with
    | none => s
    | some t =>
      let g := t.g
      let k := t.core g.coreRef
      if g.run ≠ .exiting ∨ !g.fifo.isEmpty ∨ (k.cmds.any fun c => c.g == g.ref && c.launch == g.launch) ∨ t.arriving r then s
      else
        let t := (t.dropRequests (Requester.ofGroups [r])).modCore g.coreRef fun k =>
          { k with batches := k.batches.filter fun b => !(b.g == r) }
        let t := { t with g := { g with run := .retired, log := [], fences := [], cflush := none } }
        let t := match t.team? g.team with
          | some x => t.retireTeams x.rootTeam
          | none => t
        t.gridEnd g.launch)

end Sys2Proof.Machine
end

