-- ==== Sys2Proof/Machine/Launch.lean ====
section
/-! DEFINITION. Launches: the launch record and its checks (R98, R99, R162, R163), tickets and rectangles (R164, R165),
what a core can hold (R111, R165, R172), and groups and teams as they are placed (R27, R112, R166). -/

namespace Sys2Proof.Machine

/-! ### Records (R98, R99, R162, R163) -/

/-- The launch record, field by field (R162). -/
def launchRec (raw : Nat) : LaunchRec where
  rpta  := BitVec.ofNat 64 (bitsOf raw 640 64)
  lid   := BitVec.ofNat 32 (bitsOf raw 608 32)
  spln  := BitVec.ofNat 32 (bitsOf raw 576 32)
  spla  := BitVec.ofNat 64 (bitsOf raw 512 64)
  trb   := BitVec.ofNat 32 (bitsOf raw 480 32)
  wdog  := BitVec.ofNat 32 (bitsOf raw 448 32)
  slsz  := bitsOf raw 422 7
  sres  := bitsOf raw 416 6
  spt   := bitsOf raw 400 16
  stg   := bitsOf raw 384 16
  nostl := bitsOf raw 379 1 == 1
  coop  := bitsOf raw 378 1 == 1
  prio  := bitsOf raw 376 2
  ch    := bitsOf raw 372 4
  cw    := bitsOf raw 367 5
  csz   := bitsOf raw 363 4
  wsz   := bitsOf raw 357 6
  asz   := bitsOf raw 351 6
  lsz   := bitsOf raw 344 7
  val   := bitsOf raw 342 2
  gpt   := bitsOf raw 336 6
  split := bitsOf raw 304 32
  nteam := bitsOf raw 272 32
  prtn  := bitsOf raw 256 9
  prta  := BitVec.ofNat 64 (bitsOf raw 192 64)
  param := BitVec.ofNat 64 (bitsOf raw 128 64)
  entry := BitVec.ofNat 32 (bitsOf raw 96 32)
  csize := BitVec.ofNat 32 (bitsOf raw 64 32)
  cbase := BitVec.ofNat 64 (bitsOf raw 0 64)

/-- Cluster size z (R162). -/
def LaunchRec.z (r : LaunchRec) : Nat := if r.cw = 0 then 1 else r.cw * r.ch

/-- Columns and rows of a cluster's rectangle. -/
def LaunchRec.shape (r : LaunchRec) : Nat × Nat := if r.cw = 0 then (1, 1) else (r.cw, r.ch)

/-- V registers per group. -/
def LaunchRec.valloc (r : LaunchRec) : Nat := 32 * (r.val + 1)

/-- Groups of a team. -/
def LaunchRec.groups (r : LaunchRec) : Nat := r.gpt + 1

/-- One descriptor of a plane region table (R98). -/
def regionOf (raw : Nat) : Region := ⟨bitsOf raw 0 32, bitsOf raw 32 32, bitsOf raw 64 8⟩

/-- A descriptor within the limits of R98, ending within the code segment. -/
def regionOk (csize : Nat) (raw : Nat) : Bool :=
  let r := regionOf raw
  bitsOf raw 72 56 == 0 && (r.npl == 2 || r.npl == 4) && r.stride != 0 && r.stride % 32 == 0 && r.base != 0
    && r.base % 32 == 0 && decide (r.base + r.npl * r.stride ≤ csize)

/-- Regions in ascending order, none overlapping the next (R99). -/
def ascending : List Region → Bool
  | a :: b :: rs => decide (a.base + a.npl * a.stride ≤ b.base) && ascending (b :: rs)
  | _ => true

/-- The descriptors of a table of `n` entries. -/
def tableEntries (raw n : Nat) : List Nat := (List.range n).map fun i => bitsOf raw (128 * i) 128

/-- The table passes R99. -/
def tableOk (csize raw n : Nat) : Bool :=
  (tableEntries raw n).all (regionOk csize) && ascending ((tableEntries raw n).map regionOf)

/-- Bits [63:56] zero, and an alignment. -/
def addrOk (a : Word64) (align : Nat) : Bool := decide (a.toNat < 2 ^ 56) && a.toNat % align == 0

/-- What a team, or everything on a core, takes (R111, R162, R189): group slots, V registers, and windows in units of
the launch record. -/
structure Room where
  slots : Nat
  regs  : Nat
  l     : Nat
  a     : Nat
  w     : Nat
  c     : Nat
deriving DecidableEq, Repr

def Room.zero : Room := ⟨0, 0, 0, 0, 0, 0⟩
def Room.add (x y : Room) : Room :=
  ⟨x.slots + y.slots, x.regs + y.regs, x.l + y.l, x.a + y.a, x.w + y.w, x.c + y.c⟩
/-- A core has 32 slots, 2,048 V registers per lane, and its four stores (R111, R189). -/
def Room.fits (x : Room) : Bool :=
  decide (x.slots ≤ 32 ∧ x.regs ≤ 2048 ∧ x.l ≤ 64 ∧ x.a ≤ 32 ∧ x.w ≤ 32 ∧ x.c ≤ 8)

/-- One team of a launch. -/
def LaunchRec.need (r : LaunchRec) : Room :=
  ⟨r.groups, r.groups * r.valloc, r.lsz, r.asz, r.wsz, r.csz⟩

/-- One spawned group of a launch (R172). -/
def LaunchRec.spawnNeed (r : LaunchRec) : Room := ⟨1, r.valloc, r.slsz, 0, 0, 0⟩

/-- What a launch reserves on every core for spawned groups (R172). -/
def LaunchRec.reserve (r : LaunchRec) : Room := ⟨r.sres, r.sres * r.valloc, r.sres * r.slsz, 0, 0, 0⟩

/-- The most teams of a launch that one core holds beside its reservation. -/
def LaunchRec.perCore (r : LaunchRec) : Nat :=
  ((List.range 33).filter fun n =>
    ((List.range n).foldl (fun x _ => x.add r.need) r.reserve).fits).foldl max 0

/-- The cores of the rectangle with its top-left corner at a core, when it lies within the mesh (R165). -/
def rectangle (shape : Nat × Nat) (corner : Fin 128) : Option (List (Fin 128)) :=
  let x := corner.val % 16
  let y := corner.val / 16
  if x + shape.1 ≤ 16 ∧ y + shape.2 ≤ 8 then
    some ((List.range shape.2).flatMap fun j => (List.range shape.1).map fun i => Fin.ofNat 128 (16 * (y + j) + x + i))
  else none

/-- The first rectangle, row by row and column by column, whose cores all can hold a team (R165). -/
def firstRectangle (shape : Nat × Nat) (ok : Fin 128 → Bool) : Option (List (Fin 128)) :=
  (List.finRange 128).findSome? fun c =>
    match rectangle shape c with
    | some cs => if cs.all ok then some cs else none
    | none => none

/-- The most clusters of a launch that stand on an empty die at once: the scan of R165 fills its rectangles side by side,
each as often as a core holds a team. -/
def LaunchRec.perDie (r : LaunchRec) : Nat := r.perCore * ((16 / r.shape.1) * (8 / r.shape.2))

/-- Code 7 of R163: with NOSTL = 0 a die whose own range is exhausted steals from the other, so what does not fit on one die
may stand on the other (R164). -/
def LaunchRec.coopFits (r : LaunchRec) : Bool :=
  let a := r.split / r.z
  let b := (r.nteam - r.split) / r.z
  if a = 0 ∨ b = 0 ∨ r.nostl then decide (a ≤ r.perDie ∧ b ≤ r.perDie) else decide (a + b ≤ 2 * r.perDie)

/-- The CODE of the first failing check of R163; `table` is none when the plane region table cannot be read. -/
def launchCode (raw : Nat) (table : Option Nat) : Option Byte :=
  let r := launchRec raw
  let c1 := bitsOf raw 704 320 == 0 && bitsOf raw 429 19 == 0 && bitsOf raw 380 4 == 0 && bitsOf raw 265 7 == 0
    && addrOk r.rpta 64 && addrOk r.spla 128 && addrOk r.prta 16 && addrOk r.param 1 && addrOk r.cbase 256
  let c2 := decide (r.entry.toNat < r.csize.toNat ∧ r.cbase.toNat + r.csize.toNat ≤ 2 ^ 56)
  let c3 := decide (r.slsz ≤ 64 ∧ r.sres ≤ 16 ∧ r.ch ≤ 8 ∧ r.cw ≤ 16 ∧ r.cw * r.ch ≤ 12 ∧ r.csz ≤ 8 ∧ r.wsz ≤ 32
      ∧ r.asz ≤ 32 ∧ r.lsz ≤ 64 ∧ r.prtn ≤ 256 ∧ 1 ≤ r.nteam)
    && (r.cw == 0) == (r.ch == 0) && r.entry.toNat % 4 == 0 && r.csize != 0 && r.csize.toNat % 32 == 0
  let c4 := r.nteam % r.z == 0 && r.split % r.z == 0 && decide (r.split ≤ r.nteam)
  let c5 := decide (r.groups + r.sres ≤ 32 ∧ (r.groups + r.sres) * r.valloc ≤ 2048 ∧ r.lsz + r.sres * r.slsz ≤ 64)
  let c6 := match table with
    | some t => tableOk r.csize.toNat t r.prtn
    | none => false
  if !c1 then some 1
  else if !c2 then some 2
  else if !c3 then some 3
  else if !c4 then some 4
  else if !c5 then some 5
  else if !c6 then some 6
  else if r.coop && !r.coopFits then some 7
  else if r.spt == 0 && (r.sres != 0 || r.spln != 0) then some 8
  else none

/-! ### What a core holds (R165, R172) -/

/-- The launch has a non-empty range on a die (R172). -/
def LaunchRec.onDie (r : LaunchRec) (d : Fin 2) : Bool := if d = 0 then r.split != 0 else decide (r.split < r.nteam)

/-- The launch is accepted and its grid has not completed. -/
def Launch.live (l : Launch) : Bool :=
  match l.phase with
  | .running => true
  | _ => false

/-- The windows and registers of a team. -/
def State.teamRoom (s : State) (t : Team) : Room :=
  let v := match s.launch? t.launch with
    | some l => l.record.valloc
    | none => 0
  ⟨t.groups, t.groups * v, t.lsize / 4096, t.asize / 16384, t.wsize / 32768, t.csize / 65536⟩

/-- What the teams on a core hold. -/
def State.held (s : State) (c : CoreRef) : Room :=
  (s.teams.filter fun t => t.die == c.die && t.core == c.core).foldl (fun x t => x.add (s.teamRoom t)) Room.zero

/-- What stands on a core: its teams, each until its cluster has retired, and the reservations of every launch that has one there
(R112, R113; notes/assumptions/121). -/
def State.taken (s : State) (c : CoreRef) : Room :=
  let own := (s.teams.filter fun t => t.die == c.die && t.core == c.core && !t.reserved).foldl
    (fun x t => x.add (s.teamRoom t)) Room.zero
  (s.launches.filter fun l => l.live && l.record.onDie c.die).foldl (fun x l => x.add l.record.reserve) own

/-- The core can hold one more team of a launch (R165). -/
def State.canHold (s : State) (c : CoreRef) (r : LaunchRec) : Bool := ((s.taken c).add r.need).fits

/-- Slots of a core that no group holds, lowest first (the spec leaves the choice open; notes/assumptions/20). -/
def State.freeSlots (s : State) (c : CoreRef) : List (Fin 32) :=
  (List.finRange 32).filter fun n => !s.groups.any fun g => g.active && g.ref == ⟨c.die, c.core, n⟩

/-! ### Groups and teams placed (R27, R112, R166) -/

/-- Registers as a vector, with a value at some places. -/
def withRegs (xs : List (Fin 64 × Word64)) : Vector Word64 64 :=
  xs.foldl (fun v x => v.set x.1 x.2) (Vector.replicate 64 0)

/-- TRAPBASE from TRB; its reserved bits read zero (R30, R162). -/
def trapbaseOf (x : Word) : Word64 := 0#32 ++ x.extractLsb' 8 24 ++ 0#7 ++ x.extractLsb' 0 1

/-- A group at its start (R27): `team` and `cluster` are the indices that S2, S4 and the special registers show. -/
def Launch.group (l : Launch) (c : CoreRef) (slot : Fin 32) (teamKey : Nat) (grant : Nat) (regions : List Region)
    (team cluster index : Word) : Group :=
  let r := l.record
  { Group.blank with
    die := c.die, core := c.core, slot, launch := l.key, team := teamKey, ctx := l.ctx, run := .placed
    s := withRegs [(1, r.param), (2, team.setWidth 64), (3, index.setWidth 64), (4, cluster.setWidth 64),
                   (5, r.lid.setWidth 64)]
    valloc := r.valloc, pc := r.entry, wdog := r.wdog, wcnt := r.wdog.toNat * 1024, trapbase := trapbaseOf r.trb
    groupid := index, teamid := team, clusterid := cluster, cbase := r.cbase, csize := r.csize, regions, grant }

/-- The plane region table as a core of a die reads it when it places its first team of the launch (R99). -/
def State.readTable (s : State) (l : Launch) (c : CoreRef) : List Region :=
  match l.tables.find? (·.1 == c) with
  | some t => t.2
  | none =>
    if l.record.prtn = 0 then []
    else
      match s.peek c.die l.ctx l.record.prta.toNat (16 * l.record.prtn) with
      | some t => (tableEntries t l.record.prtn).map regionOf
      | none => l.regions

/-- Place one team: its windows read as zero, its groups stand in the lowest free slots, Placed (R112, R113, R190). -/
def State.placeTeam (s : State) (l : Launch) (c : CoreRef) (team cluster : Word) (root : Fin 128) (rootTeam : Nat) :
    State :=
  let r := l.record
  let key := s.key
  let table := s.readTable l c
  let t : Team := { key, launch := l.key, die := c.die, core := c.core, idx := team, cluster, root, rootTeam,
                    spawned := false, reserved := false, groups := r.groups, lsize := r.lsz * 4096,
                    asize := r.asz * 16384, wsize := r.wsz * 32768, csize := r.csz * 65536,
                    l := [], a := [], w := [], c := [] }
  let slots := (s.freeSlots c).take r.groups
  let gs := slots.mapIdx fun i n => l.group c n key (s.core c).grant table team cluster (BitVec.ofNat 32 i)
  let s := s.modLaunch l.key fun l => { l with tables := if l.tables.any (·.1 == c) then l.tables else (c, table) :: l.tables }
  { s with teams := s.teams ++ [t], rest := s.rest ++ gs, key := key + 1 }

/-- Place the teams of a cluster on the cores of its rectangle (R165, R166); the first is the root (R173). -/
def State.placeCluster (s : State) (l : Launch) (d : Fin 2) (cluster : Nat) (cs : List (Fin 128)) : State :=
  let z := l.record.z
  let root := cs.headD 0
  let first := s.key
  (cs.mapIdx fun i c => (i, c)).foldl (fun s x =>
    s.placeTeam l ⟨d, x.2⟩ (BitVec.ofNat 32 (cluster * z + x.1)) (BitVec.ofNat 32 cluster) root first) s

/-- The rectangle that a ticket asked for by a core goes to: the core itself, or for a cluster the first that fits
(R165). -/
def State.rectFor (s : State) (l : Launch) (c : CoreRef) : Option (List (Fin 128)) :=
  if l.record.cw = 0 then if s.canHold c l.record then some [c.core] else none
  else firstRectangle l.record.shape fun k => s.canHold ⟨c.die, k⟩ l.record

def Launch.range (l : Launch) (d : Fin 2) : Tickets := if d = 0 then l.t0 else l.t1
def Tickets.empty (t : Tickets) : Bool := decide (t.high ≤ t.low)
def Launch.setRange (l : Launch) (d : Fin 2) (t : Tickets) : Launch := if d = 0 then { l with t0 := t } else { l with t1 := t }

/-- The other die. -/
def otherDie (d : Fin 2) : Fin 2 := if d = 0 then 1 else 0

/-- Launches stand in the order of their keys, the order of acceptance; highest PRIO first (R165). -/
def Launch.prefer (a b : Launch) : Bool :=
  decide (b.record.prio < a.record.prio) || (a.record.prio == b.record.prio && decide (a.key < b.key))

/-- A die has a ticket of the launch left, its own or one to steal (R164), and it is not being preempted (R391). -/
def Launch.hasTicket (l : Launch) (d : Fin 2) : Bool :=
  l.live && l.pre.isNone && (!(l.range d).empty || (!l.record.nostl && !(l.range (otherDie d)).empty))

/-- A cooperative launch that is not placed whole (R167). -/
def Launch.placing (l : Launch) : Bool := l.live && l.pre.isNone && l.record.coop && !(l.t0.empty && l.t1.empty)

/-- Teams of a launch that a core can hold beside what stands on it. -/
def State.roomOn (s : State) (c : CoreRef) (r : LaunchRec) : Nat :=
  ((List.range 32).takeWhile fun n =>
    ((List.range n).foldl (fun (x : Room) _ => x.add r.need) ((s.taken c).add r.need)).fits).length

/-- Clusters, at most `n`, that stand side by side on a die whose cores hold so many teams, each taking the first rectangle that is
free (R165). -/
def clustersIn (shape : Nat × Nat) : Nat → (Fin 128 → Nat) → Nat
  | 0, _ => 0
  | n + 1, room =>
    match firstRectangle shape fun k => decide (0 < room k) with
    | none => 0
    | some cs => 1 + clustersIn shape n fun k => if cs.contains k then room k - 1 else room k

/-- Clusters of a launch, at most `n`, for which a die has room now. -/
def State.dieRoom (s : State) (d : Fin 2) (l : Launch) (n : Nat) : Nat :=
  let room := (List.finRange 128).map fun k => s.roomOn ⟨d, k⟩ l.record
  clustersIn l.record.shape n fun k => room.getD k.val 0

/-- It waits for room: not all that is left of it can be placed, on each die its own range, or with stealing on either die (R164,
R167). -/
def State.waitsForRoom (s : State) (l : Launch) : Bool :=
  let a := l.t0.high - l.t0.low
  let b := l.t1.high - l.t1.low
  l.placing &&
    if l.record.nostl then decide (s.dieRoom 0 l a < a ∨ s.dieRoom 1 l b < b)
    else decide (s.dieRoom 0 l (a + b) + s.dieRoom 1 l (a + b) < a + b)

/-- Of two cooperative launches the one already being placed is placed whole first, else the one that a core would ask first
(the spec gives no order; notes/assumptions/120). -/
def State.coopBefore (s : State) (m l : Launch) : Bool :=
  let begun (x : Launch) := s.teams.any fun t => t.launch == x.key
  (begun m && !begun l) || (begun m == begun l && m.prefer l)

/-- Another launch keeps a die from handing out tickets of a launch: a cooperative one that waits for room there, or one
that is to be placed before this cooperative one (R167). -/
def State.keepsOut (s : State) (m l : Launch) (d : Fin 2) : Bool :=
  m.key != l.key && ((m.record.onDie d && s.waitsForRoom m)
    || (l.record.coop && m.placing && s.coopBefore m l
        && (List.finRange 2).any fun e => m.record.onDie e && l.record.onDie e))

/-- A die hands out tickets of the launch (R164, R167). -/
def State.offers (s : State) (l : Launch) (d : Fin 2) : Bool :=
  l.hasTicket d && !s.launches.any fun m => s.keepsOut m l d

/-- The launch that a core asks a ticket of: one more team of it fits on the core, and its rectangle is free (R165). -/
def State.asksFor (s : State) (c : CoreRef) : Option Launch :=
  (s.launches.filter fun l => s.canHold c l.record && s.offers l c.die && (s.rectFor l c).isSome).foldl (fun b l =>
    match b with
    | none => some l
    | some m => if l.prefer m then some l else some m) none

/-- The groups of a cluster that stands Placed. -/
def placedGroup (launch : Nat) (d : Fin 2) (cluster : Nat) (g : Group) : Bool :=
  g.launch == launch && g.die == d && g.run == .placed && !g.spawned && g.clusterid.toNat == cluster

/-- Every team of a launch has been handed out. -/
def Launch.allTaken (l : Launch) : Bool := l.t0.empty && l.t1.empty

end Sys2Proof.Machine
end

