-- ==== Sys2Proof/Machine/Spawn.lean ====
section
/-! DEFINITION. SPAWN and the spawn gatherer (R159, R171, R172), tickets (R164, R165), and the start of teams (R166,
R167). -/

namespace Sys2Proof.Machine

/-! ### SPAWN (R159) -/

/-- The continuation record of a lane. -/
def Group.spawnRec (g : Group) (x : SpawnArgs) (i : Lane) : SpawnRec :=
  ⟨g.cbase + (g.lane32 x.c x.b i).setWidth 64,
   (List.range 14).map fun k => g.readV (Fin.ofNat 128 (x.a.val + k)) i⟩

/-- The trap of the lowest lane whose entry offset R159 refuses. -/
def Group.spawnTrap (g : Group) (x : SpawnArgs) (ls : List Lane) : Option TrapReq :=
  let off (i : Lane) := g.lane32 x.c x.b i
  let first (p : Lane → Bool) (code sub : Byte) := (ls.find? p).map fun i => g.trapHere code sub ((off i).setWidth 64)
  (first (fun i => (off i).toNat % 4 != 0 || decide (g.csize.toNat ≤ (off i).toNat)) 2 0).or
    (first (fun i => g.inOtherCopy (off i)) 4 3)

/-- The launch of the focused group spawns: its SPT is not 0 (R171). -/
def State.spawns (s : State) : Bool :=
  match s.launch? s.g.launch with
  | some l => l.record.spt != 0
  | none => false

/-- SPAWN holds the group, at its place, until the gatherer has taken every record (R159). -/
def execSpawn (x : SpawnArgs) (s : State) : Host.Outcome State Fault Refusal :=
  .next (
    let ls := lanesOf (s.g.executing x.g)
    if !s.g.spawnq.isEmpty || s.g.flushing then s
    else if !s.spawns then s.boundary (.trap (s.g.illegal 10 (.spawn x)))
    else
      match s.g.spawnTrap x ls with
      | some t => s.boundary (.trap t)
      | none =>
        if ls.isEmpty then s.advance x.c
        else { s with g := { s.g with spawnq := ls.map (s.g.spawnRec x), spawnc := x.c } })

/-! ### The gatherer (R171, R172) -/

/-- The 64 bytes of a continuation record (R159). -/
def SpawnRec.bytes (r : SpawnRec) : List Byte := leBytes 8 r.entry.toNat ++ r.payload.flatMap fun w => leBytes 4 w.toNat

def SpawnRec.ofNat (raw : Nat) : SpawnRec :=
  ⟨BitVec.ofNat 64 (bitsOf raw 0 64), (List.range 14).map fun k => BitVec.ofNat 32 (bitsOf raw (64 + 32 * k) 32)⟩

/-- The lowest bin in use neither as an open nor as a formed one. -/
def Die.freeBin (d : Die) : Option (Fin 256) :=
  (List.finRange 256).find? fun n => !(d.bins ++ d.formed).any fun b => b.num == n

/-- A bin is sealed and waits for the placement of its group (R172). -/
def Die.form (d : Die) (n : Fin 256) : Die :=
  { d with bins := d.bins.filter (·.num != n), formed := d.formed ++ d.bins.filter (·.num == n) }

/-- A record goes to the open bin of its key, or opens a free one; with its 32nd record the bin forms (R171, R172). -/
def Die.gather (d : Die) (launch : Nat) (r : SpawnRec) : Option Die :=
  match d.bins.find? fun b => b.launch == launch && b.entry == r.entry with
  | some b =>
    let d := { d with bins := d.bins.map fun y => if y.num = b.num then { y with recs := y.recs ++ [r] } else y }
    some (if 32 ≤ b.recs.length + 1 then d.form b.num else d)
  | none => d.freeBin.map fun n => { d with bins := d.bins ++ [⟨n, launch, r.entry, [r], 0⟩] }

/-- The place of the k-th record in a die's spill ring (R171). -/
def Launch.spillAt (l : Launch) (d : Fin 2) (k : Nat) : Nat :=
  l.record.spla.toNat + 64 * (l.record.spln.toNat * d.val + k % l.record.spln.toNat)

def Launch.setSpill (l : Launch) (d : Fin 2) (p : Nat × Nat) : Launch := { l with spill := l.spill.set d p }

/-- An access of the gatherer, which waits for the pager as an engine's does (R379). -/
def viaGatherer (d : Fin 2) (l : Launch) : Via := fun s va cls atomic =>
  s.translateNow d none (.gather d l.key) l.ctx va cls atomic

/-- Append a record to the spill area while it has room; a write that cannot be made leaves the record where it is
(notes/assumptions/21). -/
def State.spillRecord (s : State) (d : Fin 2) (l : Launch) (r : SpawnRec) : State × Bool :=
  let p := l.spill.get d
  if l.record.spln.toNat ≤ p.2 - p.1 then (s, false)
  else
    match writeVia (viaGatherer d l) d l.ctx s (l.spillAt d p.2) 64 false with
    | .ok pa s => ((s.writeL2 l.ctx pa r.bytes).modLaunch l.key fun l => l.setSpill d (p.1, p.2 + 1), true)
    | .wait s => (s, false)
    | .bad _ _ s => (s, false)

/-- Records leave a launch's spill area, in order, into bins (R171). -/
def State.unspill (s : State) (d : Fin 2) (key : Nat) : Nat → State
  | 0 => s
  | n + 1 =>
    match s.launch? key with
    | none => s
    | some l =>
      let p := l.spill.get d
      if p.2 ≤ p.1 then s
      else
        match readVia (viaGatherer d l) s (l.spillAt d p.1) 64 with
        | .ok bs s =>
          match (s.die d).gather key (SpawnRec.ofNat (leNat bs)) with
          | some x => ((s.setDie d x).modLaunch key fun l => l.setSpill d (p.1 + 1, p.2)).unspill d key n
          | none => s
        | .wait s => s
        | .bad _ _ s => s

/-- A launch's records go from its spill areas into bins, unless it is saved (R391). -/
def Launch.drains (l : Launch) : Bool := l.live && l.kept.isNone

/-- A bin has freed: spilled records come first, launches in the order of their acceptance (R171). -/
def State.drainSpill (s : State) (d : Fin 2) : State :=
  (s.launches.filter Launch.drains).foldl (fun s l => let p := l.spill.get d; s.unspill d l.key (p.2 - p.1)) s

/-- Spilled records stand before new ones wherever a bin is free. -/
def State.spilled (s : State) (d : Fin 2) : Bool :=
  s.launches.any fun l => l.drains && (let p := l.spill.get d; decide (p.1 < p.2))

/-- One record of the focused group is accepted, or waits (R171). -/
def State.acceptRecord (s : State) (l : Launch) (r : SpawnRec) : State × Bool :=
  let d := s.g.die
  match (s.die d).gather l.key r with
  | some x => (s.setDie d x, true)
  | none => s.spillRecord d l r

/-- The first record of the focused group's SPAWN arrives at the gatherer, unless it has (R171). -/
def State.spawnArrives (s : State) : State :=
  match s.g.spawnAt with
  | some _ => s
  | none =>
    { s.modDie s.g.die fun d => { d with spawnN := d.spawnN + 1 } with
      g := { s.g with spawnAt := some (s.die s.g.die).spawnN } }

/-- No record that arrived earlier at the gatherer of the focused group's die still waits there (R171). -/
def State.spawnTurn (s : State) : Bool :=
  s.groups.all fun h => !(h.active && h.die == s.g.die && !h.spawnq.isEmpty) ||
    match h.spawnAt, s.g.spawnAt with
    | some n, some m => decide (m ≤ n)
    | _, _ => true

/-- What a SPAWN whose records are all accepted does: it advances, and a stop that has waited for it follows (R159). -/
def State.spawnDone (s : State) : State :=
  let t := s.advance s.g.spawnc
  if s.forced s.g.launch then { t with g := t.g.forceStop } else t

/-- Every access before a SPAWN of the focused group has been released, with what its acquire fences have observed (R159, R202,
R204). -/
def State.spawnReleased (s : State) : Bool :=
  s.g.readsBefore s.g.seq && s.g.storesBefore s.g.seq && s.pathClear && s.fencesMet s.g.ref s.g.seq

/-- The gatherer accepts the next record of a SPAWN, whose earlier accesses have been released, in arrival order; what is
spilled comes before it wherever a bin is free (R159, R171). -/
def execSpawnRecordAccept (r : GroupRef) (s : State) : Host.Outcome State Fault Refusal :=
  .next (s.atGroup r fun s =>
    let g := s.g
    match g.spawnq, s.launch? g.launch with
    | x :: xs, some l =>
      if !s.spawnReleased then s
      else
        let s := (s.meetFences g.ref g.seq).spawnArrives
        if !s.spawnTurn then s
        else
          let s := if s.spilled g.die && (s.die g.die).freeBin.isSome then s.drainSpill g.die else s
          if s.spilled g.die && (s.die g.die).freeBin.isSome then s
          else
            let a := s.acceptRecord ((s.launch? g.launch).getD l) x
            if a.2 then
              let s := { a.1 with g := { a.1.g with spawnq := xs, spawnAt := none } }
              if xs.isEmpty then s.spawnDone else s
            else a.1
    | _, _ => s)

/-- The SPT of a bin's launch. -/
def State.binTime (s : State) (b : Bin) : Nat :=
  match s.launch? b.launch with
  | some l => l.record.spt
  | none => 0

/-- A bin whose timer has reached SPT forms (R172). -/
def execBinTimerExpiry (die : Fin 2) (bin : Fin 256) (s : State) : Host.Outcome State Fault Refusal :=
  .next (
    match (s.die die).bins.find? (·.num == bin) with
    | none => s
    | some b => if s.binTime b ≤ b.timer then s.modDie die fun d => d.form bin else s)

/-- Reserved slots of a launch that spawned groups hold on a core. -/
def State.reservedUsed (s : State) (c : CoreRef) (launch : Nat) : Nat :=
  (s.teams.filter fun t => t.die == c.die && t.core == c.core && t.launch == launch && t.reserved).length

/-- The core with the largest positive count, ties going to the lowest COREID. -/
def bestCore (f : Fin 128 → Nat) : Option (Fin 128) :=
  (List.finRange 128).foldl (fun b c =>
    match b with
    | none => if 0 < f c then some c else none
    | some x => if f x < f c then some c else some x) none

/-- The core that a formed group goes to, and whether into a reserved slot; a reserved slot is free only where what stands
on the core leaves it so (R172). -/
def State.spawnTarget (s : State) (d : Fin 2) (l : Launch) : Option (Fin 128 × Bool) :=
  let free (c : Fin 128) :=
    if l.record.onDie d && ((s.held ⟨d, c⟩).add l.record.spawnNeed).fits then
      l.record.sres - s.reservedUsed ⟨d, c⟩ l.key
    else 0
  let room (c : Fin 128) :=
    let x := s.taken ⟨d, c⟩
    if (x.add l.record.spawnNeed).fits then 32 - x.slots else 0
  match bestCore free with
  | some c => some (c, true)
  | none => (bestCore room).map fun c => (c, false)

/-- The team of one that a formed group makes (R172). -/
def Launch.spawnTeam (l : Launch) (c : CoreRef) (key : Nat) (reserved : Bool) : Team where
  key := key
  launch := l.key
  die := c.die
  core := c.core
  idx := 0xFFFFFFFF
  cluster := 0xFFFFFFFF
  root := c.core
  rootTeam := key
  spawned := true
  reserved := reserved
  groups := 1
  lsize := l.record.slsz * 4096
  asize := 0
  wsize := 0
  csize := 0
  l := []
  a := []
  w := []
  c := []

/-- A spawned group at its start (R172). -/
def Launch.spawnedGroup (l : Launch) (c : CoreRef) (slot : Fin 32) (key grant : Nat) (regions : List Region) (b : Bin)
    (num : Nat) : Group :=
  let n := b.recs.length
  let g := l.group c slot key grant regions 0xFFFFFFFF 0xFFFFFFFF 0
  let x : Word64 := BitVec.ofNat 64 num
  let vs (k : Nat) : LaneReg := Vector.ofFn fun i => ((b.recs[i.val]?).bind fun r => r.payload[k]?).getD 0
  { g with
    spawned := true
    s := (g.s.set 2 x).set 4 x
    v := (List.range 14).foldl (fun v k => v.set (Fin.ofNat 128 k) (vs k)) g.v
    exec := maskOf fun i => decide (i.val < n), exitm := maskOf fun i => decide (n ≤ i.val)
    pc := (b.entry - l.record.cbase).setWidth 32 }

/-- A team is resident: its groups have started (R112, R113). -/
def State.residentTeam (s : State) (t : Team) : Bool :=
  !s.groups.any fun g => g.team == t.key && (g.run == .placed || (g.run == .suspended && g.stop == 3))

/-- RSF, TT0 and TT1 are cleared when a team starts on a core where no other team is resident (R308). -/
def State.clearMatrix (s : State) (c : CoreRef) : State :=
  if s.teams.any fun t => t.die == c.die && t.core == c.core && s.residentTeam t then s
  else s.modCore c fun k => { k with mx := { k.mx with rsf := [], tt0 := [], tt1 := [], errs := [] } }

/-- A team of a launch starts on a core: the matrix state (R308), the lines of L1, so that its plain loads observe what its launch
or its SPAWN observed (R159, R422; notes/assumptions/142), and with the launch's first team there the lines that LDRO has
filled (R183). -/
def State.startOn (s : State) (key : Nat) (c : CoreRef) : State :=
  let s := (s.clearMatrix c).dropL1 c
  match s.launch? key with
  | none => s
  | some l =>
    if l.startedOn.contains c then s
    else
      (s.modCore c fun k => { k with ro := [] }).modLaunch key fun l => { l with startedOn := c :: l.startedOn }

/-- Place the group of a formed bin on a core, where it starts; its bin frees (R171, R172). -/
def State.placeSpawned (s : State) (d : Fin 2) (b : Bin) (l : Launch) (c : Fin 128) (reserved : Bool) : State :=
  let cr : CoreRef := ⟨d, c⟩
  let key := s.key
  let table := s.readTable l cr
  let num := l.spawnSeq.get d
  match s.freeSlots cr with
  | [] => s
  | n :: _ =>
    let t := l.spawnTeam cr key reserved
    let g := { l.spawnedGroup cr n key (s.core cr).grant table b num with run := .ready }
    let s := (s.startOn l.key cr).modLaunch l.key fun l =>
      { l with spawnSeq := l.spawnSeq.set d (num + 1)
               tables := if l.tables.any (·.1 == cr) then l.tables else (cr, table) :: l.tables }
    let s := s.modDie d fun x =>
      { x with formed := x.formed.filter (·.num != b.num), start := some x.clock }
    { s with teams := s.teams ++ [t], rest := s.rest ++ [g], key := key + 1 }.drainSpill d

/-- Where the group of a formed bin can be placed now. -/
def State.binTarget (s : State) (d : Fin 2) (b : Bin) : Option (Launch × Fin 128 × Bool) :=
  match s.launch? b.launch with
  | none => none
  | some l => if l.pre.isSome then none else (s.spawnTarget d l).map fun t => (l, t.1, t.2)

/-- The first formed bin whose group can be placed now; one that has no room does not hold back those behind it
(notes/assumptions/143). -/
def State.placeable (s : State) (d : Fin 2) : Option (Bin × Launch × Fin 128 × Bool) :=
  (s.die d).formed.findSome? fun b => (s.binTarget d b).map fun t => (b, t)

/-- The cores that formed groups go to, one after another (R172). -/
def State.spawnCores (s : State) (d : Fin 2) : List Bin → List (Fin 128)
  | [] => []
  | b :: bs =>
    match s.binTarget d b with
    | none => s.spawnCores d bs
    | some (l, c, r) => c :: State.spawnCores { s with teams := l.spawnTeam ⟨d, c⟩ s.key r :: s.teams, key := s.key + 1 } d bs

/-- A spawned group that a restore has placed starts (R401). -/
def State.startPlaced (s : State) (g : Group) : State :=
  ((s.startOn g.launch g.coreRef).atGroup g.ref fun s => { s with g := { s.g with run := .ready } }).modDie g.die fun d =>
    { d with start := some d.clock }

/-- A spawned group of a launch that runs stands Placed on a die. -/
def State.placedSpawned (s : State) (d : Fin 2) : Option Group :=
  s.groups.find? fun g => g.spawned && g.die == d && g.run == .placed && !s.preempting g.launch

/-- A formed group is placed and starts, unless its die has started another in this cycle; one that a restore has placed goes first
(R167, R172). -/
def execSpawnedGroupPlace (die : Fin 2) (s : State) : Host.Outcome State Fault Refusal :=
  .next (
    if (s.die die).start = some (s.die die).clock then s
    else
      match s.placedSpawned die, s.placeable die with
      | some g, _ => s.startPlaced g
      | none, some (b, l, c, r) => s.placeSpawned die b l c r
      | none, none => s)

/-! ### Tickets (R164, R165) -/

/-- A formed group goes to the core first (R172). -/
def State.spawnFirst (s : State) (c : CoreRef) : Bool := (s.spawnCores c.die (s.die c.die).formed).contains c.core

/-- A formed group goes first to some core of the rectangle that a request would be served with (R165, R172). -/
def State.spawnBefore (s : State) (l : Launch) (c : CoreRef) : Bool :=
  let cs := s.spawnCores c.die (s.die c.die).formed
  cs.contains c.core || (s.rectFor l c).any fun r => r.any cs.contains

/-- Requests stand in arrival order, those of one cycle in ascending COREID (R164). -/
def insertAsk (a : Ask) : List Ask → List Ask
  | [] => [a]
  | b :: bs =>
    if a.cycle < b.cycle ∨ (a.cycle = b.cycle ∧ a.core.core < b.core.core) then a :: b :: bs else b :: insertAsk a bs

/-- The core's request stands at a range. -/
def Launch.askedBy (l : Launch) (c : CoreRef) : Bool := (l.t0.asks ++ l.t1.asks).any fun a => a.core == c

/-- A core asks for a ticket: of its own die's range, or of the other die's once its own is exhausted (R164, R165). -/
def State.ask (s : State) (c : CoreRef) : State :=
  match s.asksFor c with
  | none => s
  | some l =>
    if s.spawnFirst c || s.launches.any fun m => m.askedBy c then s
    else
      let d := if (l.range c.die).empty then otherDie c.die else c.die
      s.modLaunch l.key fun l =>
        let r := l.range d
        l.setRange d { r with asks := insertAsk ⟨c, (s.die c.die).clock⟩ r.asks }

/-- The request whose turn it is at a die's range: the first own take, or the first steal (R164). -/
def State.nextAsk (s : State) (r : Tickets) (d : Fin 2) (own : Bool) : Option CoreRef :=
  ((r.asks.find? fun a => (a.core.die == d) == own).filter fun a => decide (a.cycle < (s.die a.core.die).clock)).map Ask.core

def Tickets.dropAsk (r : Tickets) (c : CoreRef) : Tickets := { r with asks := r.asks.filter fun a => a.core != c }

/-- The rectangle that a request is served with: the launch still hands out tickets to the core's die, the core can still hold
a team, and a rectangle is free (R165, R167). -/
def State.granted (s : State) (l : Launch) (c : CoreRef) : Option (List (Fin 128)) :=
  if s.offers l c.die && s.canHold c l.record then s.rectFor l c else none

/-- The request of a core at a die's range has its turn: it takes the cluster at low, or just below high for a steal. One
that cannot be served is refused (R164). -/
def State.serveAsk (s : State) (l : Launch) (d : Fin 2) (c : CoreRef) (own : Bool) : State :=
  let now := (s.die d).clock
  let r := (l.range d).dropAsk c
  match if r.empty || (!own && l.record.nostl) then none else s.granted l c with
  | none => s.modLaunch l.key fun l => l.setRange d r
  | some cs =>
    if own then
      (s.modLaunch l.key fun l => l.setRange d { r with low := r.low + 1, took := some now }).placeCluster l c.die r.low cs
    else
      (s.modLaunch l.key fun l => l.setRange d { r with high := r.high - 1, stole := some now }).placeCluster l c.die
        (r.high - 1) cs

/-- An own take, at low: the first of the own takes that wait, one in a cycle; a formed group that goes to the core is placed
first (R164, R172). -/
def execTicketTake (c : CoreRef) (launch : Nat) (s : State) : Host.Outcome State Fault Refusal :=
  .next (
    match s.launch? launch with
    | none => s
    | some l =>
      let r := l.range c.die
      if r.took == some (s.die c.die).clock || s.nextAsk r c.die true != some c || s.spawnBefore l c then s
      else s.serveAsk l c.die c true)

/-- A steal, just below the other die's high: the first of the steals that wait, one in a cycle, after the own take of the
cycle (R164). -/
def execTicketSteal (c : CoreRef) (launch : Nat) (s : State) : Host.Outcome State Fault Refusal :=
  .next (
    match s.launch? launch with
    | none => s
    | some l =>
      let o := otherDie c.die
      let r := l.range o
      let now := (s.die o).clock
      let ownFirst := r.took != some now && (s.nextAsk r o true).isSome
      if r.stole == some now || ownFirst || s.nextAsk r o false != some c || s.spawnBefore l c then s
      else s.serveAsk l o c false)

/-! ### Starts (R166, R167) -/

/-- The stagger of a launch since its previous start on a die has passed. -/
def Launch.staggered (l : Launch) (d : Fin 2) (now : Nat) : Bool :=
  match l.started.get d with
  | none => true
  | some t => decide (t + l.record.stg ≤ now)

/-- A placed team or cluster starts: its groups become Ready (R113, R167). -/
def execTeamStart (die : Fin 2) (launch cluster : Nat) (s : State) : Host.Outcome State Fault Refusal :=
  .next (
    let now := (s.die die).clock
    match s.launch? launch with
    | none => s
    | some l =>
      if !l.live || l.pre.isSome || (s.die die).start == some now || !l.staggered die now
        || (l.record.coop && !l.allTaken) || !s.groups.any (placedGroup launch die cluster) then s
      else
        let cores := (s.groups.filter (placedGroup launch die cluster)).map Group.coreRef
        let s := cores.foldl (State.startOn · launch) s
        let s := s.mapGroups fun g => if placedGroup launch die cluster g then { g with run := .ready } else g
        (s.modDie die fun d => { d with start := some now }).modLaunch launch fun l =>
          { l with started := l.started.set die (some now) })

end Sys2Proof.Machine
end

