-- ==== Sys2Proof/Machine/Records.lean ====
section
/-! DEFINITION. Engines and their chains: choosing the next record, halting, starting and publishing (R252 to R258, R379), and
the command processor's records (R419 to R423). -/

namespace Sys2Proof.Machine

/-! ### Records in progress -/

def State.rec? (s : State) (c : ChainRef) : Option ChainRec := s.recs.find? (·.c == c)

def State.modRec (s : State) (c : ChainRef) (f : ChainRec → ChainRec) : State :=
  { s with recs := s.recs.map fun r => if r.c = c then f r else r }

/-- A record is performed, with a status that is still to be published. -/
def State.endRec (s : State) (c : ChainRef) (st : Byte) : State := s.modRec c fun r => { r with status := some st }

/-- A field of the entry (R254). -/
def ChainRec.field (r : ChainRec) (lo n : Nat) : Nat := bitsOf r.raw lo n
def ChainRec.kind (r : ChainRec) : Nat := r.field 8 8

/-- A step of an engine that meets a replayable fault waits as a whole: of what it did, the fault table keeps its
request (R379; notes/assumptions/4). -/
def State.onlyWaits (s t : State) : State := { s with dies := t.dies }

/-- Perform what a record of an engine and KIND asks for; its status is then known. -/
def State.performRec (s : State) (c : ChainRef) (eng kind : Nat) (f : ChainRec → State → Chk Byte) : State :=
  match s.rec? c with
  | none => s
  | some r =>
    if r.eng ≠ eng ∨ r.kind ≠ kind ∨ r.status.isSome then s
    else
      match f r s with
      | .ok st s => s.endRec c st
      | .wait t => s.onlyWaits t
      | .bad st _ s => s.endRec c st

/-! ### The next record (R252 to R256) -/

/-- What an engine finds at a chain. -/
inductive NextRec where
  /-- Nothing to perform: not served, no valid entry, or WEN not met. -/
  | none
  | halt (code : Byte)
  | take (b : Ccb) (idx va raw : Nat)

/-- Instances of an engine on a die (R252). -/
def instances (eng : Nat) : Nat :=
  match eng with
  | 1 => 4
  | 3 => 8
  | _ => 1

/-- The block is one that its die serves (R252). -/
def Ccb.served (b : Ccb) (d : Fin 2) : Bool :=
  b.state == 1 && b.die == d.val && decide (b.eng ≤ 3) && decide (b.inst < instances b.eng) && b.nblk != 0

/-- KIND is one of the engine's commands (R334, R419, R432). -/
def knownKind (eng kind : Nat) : Bool :=
  match eng with
  | 0 => kind == 1 || kind == 2 || kind == 3
  | 1 => kind == 1 || kind == 2 || kind == 3
  | 2 => kind == 1
  | _ => kind == 1 || kind == 2 || kind == 3 || kind == 0x10 || kind == 0x11

/-- Reserved bits of a header are zero (R254). -/
def headerOk (raw : Nat) : Bool :=
  bitsOf raw 48 16 == 0 && bitsOf raw 24 11 == 0 && bitsOf raw 3 5 == 0 && bitsOf raw 1 1 == 0

/-- Follow a block to its next entry; `ccb` reads another chain's block for WEN, whose fault leaves the record waiting
(notes/assumptions/135). A KIND that is unknown halts the chain, and so does a reserved header bit, in the order of their
codes (R254 to R257). -/
def nextIn (via : Via) (s : State) (d : Fin 2) (ctx : BitVec 12) (b : Ccb) : Chk NextRec :=
  if !b.served d then .ok .none s
  else
    (entryAt via s b b.seq).bind fun e s =>
      match e with
      | none => .ok (.halt 1) s
      | some va =>
        (readVia via s va 64).bind fun bs s =>
          let raw := leNat bs
          if bitsOf raw 0 1 ≠ b.phase b.seq then .ok .none s
          else
            let take : NextRec :=
              if !knownKind b.eng (bitsOf raw 8 8) then .halt 2
              else if !headerOk raw then .halt 3 else .take b b.seq va raw
            if bitsOf raw 35 1 = 0 then .ok take s
            else
              match readCcb via s (s.ccbVa d ctx (BitVec.ofNat 12 (bitsOf raw 36 12))) with
              | .ok w s => .ok (if bitsOf raw 64 64 ≤ w.seq then take else .none) s
              | .wait s => .wait s
              | .bad _ _ s => .ok .none s

/-! ### Which chain an instance takes (R256) -/

/-- Chains of a context whose blocks read STATE 1. -/
def State.liveChains (s : State) (d : Fin 2) (ctx : BitVec 12) : List (BitVec 12) :=
  let base := (s.desc d ctx).chta.toNat
  (List.range 129).flatMap fun p =>
    let page := (base / 4096 + p) * 4096
    match s.peekAddr d ctx page with
    | none => []
    | some pa =>
      (s.mem.slice pa 4096).filterMap fun x =>
        let va := page + (x.1 - pa)
        if base ≤ va ∧ va < base + 2 ^ 19 ∧ (va - base) % 128 = 4 ∧ x.2 = 1 then
          some (BitVec.ofNat 12 ((va - base) / 128))
        else none

/-- The record that a chain offers to an instance of an engine, if any; a chain that waits for the pager lets the others pass
(R379), as does one whose halt is still to be written (R257). -/
def State.offer (s : State) (d : Fin 2) (eng inst : Nat) (ctx : BitVec 12) (ch : BitVec 12) : Option Nat :=
  let c : ChainRef := ⟨d, ctx, ch⟩
  if (s.rec? c).isSome ∨ s.unserved.contains (ctx, ch) ∨ s.halts.any (·.1 == c) ∨ (s.die d).awaitsPager (.chain c) then none
  else
    match readCcb (viaPeek d ctx) s (s.ccbVa d ctx ch) with
    | .ok b _ =>
      if b.eng ≠ eng ∨ b.inst ≠ inst then none
      else
        match nextIn (viaPeek d ctx) s d ctx b with
        | .ok (.take _ _ _ _) _ => some b.prio
        | _ => none
    | _ => none

/-- A chain as one number, for the round robin: between contexts their identifiers come first (notes/assumptions/136). -/
def chainNum (ctx ch : BitVec 12) : Nat := ctx.toNat * 4096 + ch.toNat

/-- Distance behind the chain served last: the chain that follows it comes first. -/
def turnOf (last : Option Nat) (n : Nat) : Nat :=
  match last with
  | some l => (n + 2 ^ 24 - l - 1) % 2 ^ 24
  | none => n

/-- The chain comes before another of its instance: higher PRIO, then its turn. -/
def State.firstAmong (s : State) (c : ChainRef) (b : Ccb) : Bool :=
  let d := s.die c.die
  let last := (d.lastServed.find? fun x => x.1 == b.eng && x.2.1 == b.inst).map (·.2.2)
  let mine := turnOf last (chainNum c.ctx c.ch)
  let ctxs := ((d.ctxs.map CtxDesc.ctx) ++ [c.ctx]).eraseDups
  !(ctxs.any fun ctx => (s.liveChains c.die ctx).any fun ch =>
    match s.offer c.die b.eng b.inst ctx ch with
    | some p => decide (b.prio < p) || (p == b.prio && decide (turnOf last (chainNum ctx ch) < mine))
    | none => false)

/-- A Trowel instance builds the other half of a BUILD that the other die serves (R412). -/
def ChainRec.helpedBy (r : ChainRec) (d : Fin 2) : Bool := r.c.die != d && r.todo.any fun x => decide (8 ≤ x.1) && !x.2.isEmpty

/-- Trowel and Scraper perform one record at a time; one that waits for the pager or is deferred lets others pass (R333,
R379). The other engines keep one record of each chain in progress (R420, R431). -/
def State.engineBusy (s : State) (d : Fin 2) (eng inst : Nat) : Bool :=
  (eng == 1 || eng == 2) && s.recs.any fun r =>
    r.eng == eng && r.inst == inst && ((r.c.die == d && !(eng == 2 && r.begun)) || (eng == 1 && r.helpedBy d))
      && !(s.die d).awaitsPager (.chain r.c)

/-! ### Halting (R257) -/

/-- The chain's block has failed: nothing is written to it, it is not served, and an event record tells the host. -/
def State.giveUp (s : State) (c : ChainRef) (f : FailAt) : State :=
  { s with unserved := (c.ctx, c.ch) :: s.unserved }.appendEvent c.die c.ctx 2 f.told

/-- HCODE, then STATE := 2, and the host is notified; a write that waits for the pager stays to be made. -/
def State.halt (s : State) (c : ChainRef) (code : Byte) : State :=
  let va := s.ccbVa c.die c.ctx c.ch
  let s := { s with halts := s.halts.filter (·.1 != c) }
  match writeVia (viaEngine c) c.die c.ctx s va 128 false with
  | .ok pa s => ((s.writeL2 c.ctx (pa + 5) [code]).writeL2 c.ctx (pa + 4) [2]).notify c.die 2
  | .wait t => { s.onlyWaits t with halts := s.halts ++ [(c, code)] }
  | .bad _ f s => s.giveUp c f

/-! ### Starting (R256) -/

/-- What a chain offers, read by its engine; a block that cannot be read is told apart from the rest (R257). -/
inductive Found where
  | next (n : NextRec) (s : State)
  | wait (s : State)
  | ccbBad (f : FailAt) (s : State)
  | entryBad (s : State)

def State.findNext (s : State) (c : ChainRef) : Found :=
  match readCcb (viaEngine c) s (s.ccbVa c.die c.ctx c.ch) with
  | .wait s => .wait s
  | .bad _ f s => .ccbBad f s
  | .ok b s =>
    match nextIn (viaEngine c) s c.die c.ctx b with
    | .ok n s => .next n s
    | .wait s => .wait s
    | .bad _ _ s => .entryBad s

/-- An engine takes the chain's next record, of the chains of its instance the first by PRIO and turn; one with DEP behind a
failure is not performed and has status 2. A halt that waits to be written comes first (R257). -/
def execChainRecordStart (c : ChainRef) (s : State) : Host.Outcome State Fault Refusal :=
  .next (
    match s.halts.find? (·.1 == c) with
    | some h => s.halt c h.2
    | none =>
    let s := s.useCtx c.die c.ctx
    if (s.rec? c).isSome ∨ s.unserved.contains (c.ctx, c.ch) then s
    else
      match s.findNext c with
      | .wait t => s.onlyWaits t
      | .ccbBad f s => s.giveUp c f
      | .entryBad s => s.halt c 5
      | .next .none s => s
      | .next (.halt code) s => s.halt c code
      | .next (.take b i va raw) s =>
        if s.engineBusy c.die b.eng b.inst ∨ !s.firstAmong c b then s
        else
          let dep := bitsOf raw 2 1 == 1 && s.failed.contains (c.ctx, c.ch)
          let r : ChainRec := { c, idx := i, raw, va, eng := b.eng, inst := b.inst, launch := none, begun := false,
                                status := if dep then some 2 else none, since := 0, next := 0, stage := 0,
                                acc := [], todo := [], writes := [], dead := false }
          { s with recs := s.recs ++ [r] }.modDie c.die fun d =>
            { d with lastServed := (b.eng, b.inst, chainNum c.ctx c.ch) ::
                d.lastServed.filter fun x => !(x.1 == b.eng && x.2.1 == b.inst) })

/-! ### Publishing (R256, R257) -/

/-- A refusal that the engine has not met lapses with the record that asked (R389). -/
def State.forgetRefused (s : State) (c : ChainRef) : State :=
  s.modDie c.die fun d => { d with refused := d.refused.filter fun r => r.1 != .chain c }

/-- The record leaves its engine. -/
def State.dropRec (s : State) (r : ChainRec) : State :=
  { s with recs := s.recs.filter (·.c != r.c)
           launches := s.launches.filter fun l => some l.key != r.launch }.forgetRefused r.c

/-- The record is the last completed one of its chain: the next may see that it failed (R256). -/
def State.noteFailed (s : State) (c : ChainRef) (st : Byte) : State :=
  let me := (c.ctx, c.ch)
  let rest := s.failed.filter (· != me)
  { s with failed := if st = 0 then rest else me :: rest }

/-- STATUS, then ERRSEQ for the first failure, then SEQ, while the chain still stands at this record (R212). A record whose
SEQ could not be written has not completed: it is performed again once the chain is served again (R257). -/
def State.publishRec (s : State) (r : ChainRec) (st : Byte) : State :=
  let c := r.c
  match writeVia (viaEngine c) c.die c.ctx s (r.va + 2) 1 false with
  | .wait t => s.onlyWaits t
  | .bad _ _ t => (t.dropRec r).halt c 5
  | .ok pa t =>
    let t := t.writeL2 c.ctx pa [st]
    let va := t.ccbVa c.die c.ctx c.ch
    let go := (readCcb (viaEngine c) t va).bind fun b t =>
      (writeVia (viaEngine c) c.die c.ctx t va 128 false).bind fun pa t =>
        if b.seq ≠ r.idx then .ok false t
        else
          let t := if st ≠ 0 ∧ b.errseq = 0 then t.writeL2 c.ctx (pa + 32) (leBytes 8 (r.idx + 1)) else t
          .ok true (t.writeL2 c.ctx (pa + 24) (leBytes 8 (r.idx + 1)))
    match go with
    | .ok done t => (if done then t.noteFailed c st else t).dropRec r
    | .wait t => s.onlyWaits t
    | .bad _ f t => (t.dropRec r).giveUp c f

/-- The status with which a LAUNCH completes: a report that waits is written first, and the completion of a grid comes
after every store of its groups has reached L2 (R421). -/
def State.launchStatus (s : State) (key : Nat) : Option Byte × State :=
  let s := s.publish key
  match s.launch? key with
  | none => (some 17, s)
  | some l =>
    match l.phase with
    | .ended st =>
      if st = 0 ∧ s.cores.toList.any (fun ks => ks.toList.any fun k => k.path.any fun e => e.ctx == l.ctx) then (none, s)
      else (some st, s)
    | _ => (none, s)

/-- A record that has been performed is published. -/
def execChainRecordComplete (c : ChainRef) (s : State) : Host.Outcome State Fault Refusal :=
  .next (
    match s.rec? c with
    | none => s
    | some r =>
      match r.status, r.launch with
      | some st, _ => if r.dead then ({ s with recs := s.recs.filter (·.c != c) }).halt c 4 else s.publishRec r st
      | none, some key =>
        let x := s.launchStatus key
        match x.1 with
        | some st => x.2.publishRec r st
        | none => x.2
      | none, none => s)

/-! ### LAUNCH (R162, R163, R420, R421) -/

/-- Read a range of at most 4 KiB that may cross a page. -/
def readRange (via : Via) (s : State) (va n : Nat) : Chk (List Byte) :=
  let k := inPage va n
  (readVia via s va k).bind fun x s =>
    if k < n then (readVia via s (va + k) (n - k)).bind fun y s => .ok (x ++ y) s else .ok x s

/-- The plane region table of a record; none when it cannot be read (R163). -/
def readRegions (via : Via) (s : State) (r : LaunchRec) : Chk (Option Nat) :=
  if r.prtn = 0 ∨ 256 < r.prtn then .ok (some 0) s
  else
    match readRange via s r.prta.toNat (16 * r.prtn) with
    | .ok bs s => .ok (some (leNat bs)) s
    | .wait s => .wait s
    | .bad _ _ s => .ok none s

/-- A launch as it is accepted or refused. -/
def newLaunch (s : State) (c : ChainRef) (idx lrec : Nat) (r : LaunchRec) (table : Nat) (phase : LaunchPhase) : Launch :=
  let cut := r.split / r.z
  { key := s.key, ctx := c.ctx, record := r, chain := c, index := idx,
    regions := (tableEntries table r.prtn).map regionOf, tables := [], phase
    t0 := ⟨0, cut, none, none, []⟩, t1 := ⟨cut, r.nteam / r.z, none, none, []⟩
    started := Vector.replicate 2 none, startedOn := [], spawnSeq := Vector.replicate 2 0, spill := Vector.replicate 2 (0, 0)
    code := s.mem, more := 0, reported := false, pre := none, lrec, kept := none }

/-- The report of a refusal (R174). -/
def State.refusal (s : State) (d : Fin 2) (code : Byte) : Report :=
  { kind := 1, code, sub := 0, info := 0, rbase := 0, off := 0, group := 0, team := 0, core := 0, die := 0,
    clk := s.clock d }

/-- Each die that has not read the context yet reads its seal table; whether both can (R187). -/
def sealsReadable (s : State) (ctx : BitVec 12) : Chk Bool :=
  match (s.firstRead 0 ctx).andThen fun s => s.firstRead 1 ctx with
  | .ok _ s => .ok true s
  | .wait s => .wait s
  | .bad _ _ s => .ok false s

/-- LAUNCH reads its record and accepts or refuses the launch, with CODE 1 where the context's descriptor is not valid or its
seal table cannot be read (R187, R381); at most 64 are in progress on a die. -/
def State.startLaunch (s : State) (c : ChainRef) (r : ChainRec) : State :=
  let lrec := r.field 128 64
  if r.field 192 320 ≠ 0 ∨ lrec % 128 ≠ 0 ∨ 2 ^ 56 ≤ lrec then s.endRec c 8
  else
    match readVia (viaEngine c) s lrec 128 with
    | .wait t => s.onlyWaits t
    | .bad st _ t => t.endRec c st
    | .ok bs s =>
      let raw := leNat bs
      let lr := launchRec raw
      match readRegions (viaEngine c) s lr with
      | .wait t => s.onlyWaits t
      | .bad st _ t => t.endRec c st
      | .ok table s =>
        let accept (s : State) (phase : LaunchPhase) : State :=
          { s with launches := s.launches ++ [newLaunch s c r.idx lrec lr (table.getD 0) phase], key := s.key + 1 }.modRec c
            fun x => { x with launch := some s.key }
        let refuse (s : State) (code : Byte) : State := (accept s (.reporting (s.refusal c.die code))).publish s.key
        if !(s.desc c.die c.ctx).valid then refuse s 1
        else
        match sealsReadable s c.ctx with
        | .wait t => s.onlyWaits t
        | .ok false s => refuse s 1
        | .ok true s =>
          match launchCode raw table with
          | some code => refuse s code
          | none => accept s .running
        | .bad st _ t => t.endRec c st

def execLaunch (c : ChainRef) (s : State) : Host.Outcome State Fault Refusal :=
  .next (
    match s.rec? c with
    | none => s
    | some r =>
      if r.eng ≠ 0 ∨ r.kind ≠ 1 ∨ r.status.isSome ∨ r.launch.isSome
        ∨ 64 ≤ (s.recs.filter fun x => x.c.die == c.die && x.launch.isSome).length then s
      else s.startLaunch c r)

/-! ### MWAIT and MSIGNAL (R419, R422, R423) -/

/-- (v AND MASK) CMP (VAL AND MASK) on `n` bits. -/
def waitHolds (cmp n : Nat) (v val : Nat) : Bool :=
  let a := BitVec.ofNat n v
  let b := BitVec.ofNat n val
  match cmp with
  | 0 => a == b
  | 1 => a != b
  | 2 => decide (b.toNat ≤ a.toNat)
  | 3 => decide (a.toNat < b.toNat)
  | 4 => decide (b.toInt ≤ a.toInt)
  | _ => decide (a.toInt < b.toInt)

/-- Bytes that SZ selects. -/
def sizeBytes (sz : Nat) : Nat := if sz = 0 then 4 else 8

/-- One read of an MWAIT, an acquire at .sys (R203, R422). -/
def mwaitRead (r : ChainRec) (s : State) : Chk Bool :=
  let n := sizeBytes (r.field 323 1)
  let mask := r.field 256 64
  let via := (viaEngine r.c).acquiring fun t pa k => t.aheadDie r.c.die pa k
  (readVia via s (r.field 128 64) n).bind fun bs s =>
    .ok (waitHolds (r.field 320 3) (8 * n) (leNat bs &&& mask) (r.field 192 64 &&& mask)) s

def mwaitOk (r : ChainRec) : Bool :=
  r.field 356 156 == 0 && decide (r.field 320 3 < 6) && r.field 128 64 % sizeBytes (r.field 323 1) == 0
    && decide (r.field 128 64 < 2 ^ 56)

/-- The time of an MWAIT is up: TMO counts every cycle since its start (R422). -/
def ChainRec.late (r : ChainRec) : Bool := r.field 324 32 != 0 && decide (1024 * r.field 324 32 ≤ r.since)

/-- A chain's requests leave the walkers and the fault tables (R389). -/
def State.dropChainRequests (s : State) (c : ChainRef) : State :=
  { s with dies := mapVec (fun (d : Die) => d.dropRequests (· == Requester.chain c)) s.dies }

/-- MWAIT: a read that satisfies it ends it; else the next comes 256 cycles later, or the time is up; a poll that must wait is
tried again a cycle later. -/
def State.mwaitStep (s : State) (c : ChainRef) (r : ChainRec) : State :=
  if !mwaitOk r then s.endRec c 8
  else
    match mwaitRead r s with
    | .wait t =>
      if r.late then (s.dropChainRequests c).endRec c 18
      else (s.onlyWaits t).modRec c fun x => { x with begun := true, next := 1 }
    | .bad st _ t => t.endRec c st
    | .ok true t => t.endRec c 0
    | .ok false t => if r.late then t.endRec c 18 else t.modRec c fun x => { x with begun := true, next := 256 }

/-- A record of the command processor with a KIND that is still to be performed. -/
def ChainRec.due (r : ChainRec) (eng kind : Nat) : Bool := r.eng == eng && r.kind == kind && r.status.isNone

def execMwait (c : ChainRef) (s : State) : Host.Outcome State Fault Refusal :=
  .next (
    match s.rec? c with
    | none => s
    | some r => if r.due 0 2 && !r.begun then s.mwaitStep c r else s)

def execMwaitPoll (c : ChainRef) (s : State) : Host.Outcome State Fault Refusal :=
  .next (
    match s.rec? c with
    | none => s
    | some r => if r.due 0 2 && r.begun && r.next == 0 then s.mwaitStep c r else s)

/-- What a write of OP leaves at an address that held `old` (R423, R433). -/
def signalValue (op n old val : Nat) : Nat :=
  let m := 2 ^ (8 * n)
  match op with
  | 0 => val % m
  | 1 => (old + val) % m
  | _ => max old (val % m)

/-- One write of `n` bytes at a virtual address: a store, an atomic add or an atomic maximum; one that Wickline delivers
takes the engine port even as a store (R184). -/
def signalAt (via : Via) (d : Fin 2) (ctx : BitVec 12) (wick : Bool) (s : State) (va n op val : Nat) : Chk Unit :=
  (if wick || op != 0 then turnVia via d ctx none s va n (op != 0) else writeVia via d ctx s va n false).bind fun pa s =>
    .ok () (s.writeL2 ctx pa (leBytes n (signalValue op n (s.mem.nat pa n) val)))

/-- MSIGNAL: one write, a release at .sys. -/
def execMsignal (c : ChainRef) (s : State) : Host.Outcome State Fault Refusal :=
  .next (s.performRec c 0 3 fun r s =>
    let n := sizeBytes (r.field 258 1)
    let va := r.field 128 64
    if r.field 259 253 ≠ 0 ∨ r.field 256 2 = 3 ∨ va % n ≠ 0 ∨ 2 ^ 56 ≤ va then .ok 8 s
    else (signalAt (viaEngine c) c.die c.ctx false s va n (r.field 256 2) (r.field 192 64)).bind fun _ s => .ok 0 s)

end Sys2Proof.Machine
end

