-- ==== Sys2Proof/Machine/Trowel.lean ====
section
/-! DEFINITION. Trowel and Scraper: keys, the tree and its order (R322 to R325), BUILD with its publication and rollback (R329,
R330), SKIM (R328), SWITCH (R332) and RECLAIM (R333), with their statuses (R335, R336). -/

namespace Sys2Proof.Machine

/-! ### Reading and writing for a record -/

/-- Read up to a page as one number. -/
def readNum (c : ChainRef) (s : State) (va n : Nat) : Chk Nat :=
  (readRange (viaEngine c) s va n).bind fun bs s => .ok (leNat bs) s

/-- An engine's accesses for a chain, through the engine TLB of a die. -/
def viaDie (c : ChainRef) (d : Fin 2) : Via := fun s va cls atomic => s.translateNow d none (.chain c) c.ctx va cls atomic

/-- Write one node of a BUILD, by the Trowel instance of a die (R412). -/
def writeNodeBy (c : ChainRef) (d : Fin 2) (s : State) (va v : Nat) : Chk Unit :=
  (writeVia (viaDie c d) d c.ctx s va 128 false).bind fun pa s => .ok () (s.writeL2 c.ctx pa (leBytes 128 v))

/-- Write within one page. -/
def writeNum (c : ChainRef) (s : State) (va n v : Nat) : Chk Unit :=
  (writeVia (viaEngine c) c.die c.ctx s va n false).bind fun pa s => .ok () (s.writeL2 c.ctx pa (leBytes n v))

/-- A longer range, read page by page. -/
def readPages (c : ChainRef) (s : State) (va n : Nat) : Nat → Chk (List Byte)
  | 0 => .ok [] s
  | k + 1 =>
    if n = 0 then .ok [] s
    else
      let m := inPage va n
      (readVia (viaEngine c) s va m).bind fun x s =>
        (readPages c s (va + m) (n - m) k).bind fun y s => .ok (x ++ y) s

/-- Go through a list, each element a step that may wait or fail. -/
def eachChk {α : Type} (f : State → α → Chk Unit) (s : State) : List α → Chk Unit
  | [] => .ok () s
  | x :: xs => (f s x).bind fun _ s => eachChk f s xs

def mapChk {α β : Type} (f : State → α → Chk β) (s : State) : List α → Chk (List β)
  | [] => .ok [] s
  | x :: xs => (f s x).bind fun y s => (mapChk f s xs).bind fun ys s => .ok (y :: ys) s

/-- DESC and SLOT of a command (R334). -/
def ChainRec.desc (r : ChainRec) : Nat := r.field 128 64

/-- A RECLAIM that is deferred (R333). -/
def ChainRec.deferred (r : ChainRec) : Bool := r.eng == 2 && r.begun && r.stage == 0

/-- Another record holds the turn of a descriptor: it is not deferred, and it has started earlier or is being performed
(R336). -/
def ChainRec.precedes (x r : ChainRec) (earlier : Bool) : Bool :=
  (x.eng == 1 || x.eng == 2) && x.c.ctx == r.c.ctx && x.desc == r.desc && x.status.isNone && !x.deferred &&
    (earlier || x.begun || x.stage != 0)

/-- Commands of Trowel and Scraper that name one descriptor are performed one at a time, in the order in which they start
(R336). -/
def State.hasTurn (s : State) (r : ChainRec) : Bool :=
  let p := s.recs.splitAt (s.recs.findIdx fun x => x.c == r.c)
  (p.1.all fun x => !x.precedes r true) && (p.2.drop 1).all fun x => !x.precedes r false

/-- Change a slot's state word (R320). -/
def writeState (c : ChainRef) (s : State) (desc : Nat) (slot : Fin 2) (f : Nat → Nat) : Chk Unit :=
  (turnVia (viaEngine c) c.die c.ctx none s (stateWordAt desc slot) 8 true).bind fun pa s =>
    .ok () (s.writeL2 c.ctx pa (leBytes 8 (f (s.mem.nat pa 8))))

def setSst (sst : Nat) (w : Nat) : Nat := putBits w 8 8 sst

/-- SST of a state word, and its INFL. -/
def sstOf (w : Nat) : Nat := bitsOf w 8 8
def inflOf (w : Nat) : Nat := bitsOf w 32 32

/-- A compare-and-swap of SST: whether it succeeded. -/
def casSst (c : ChainRef) (s : State) (desc : Nat) (slot : Fin 2) (ok : Nat → Bool) (new : Nat) : Chk Bool :=
  (turnVia (viaEngine c) c.die c.ctx none s (stateWordAt desc slot) 8 true).bind fun pa s =>
    let w := s.mem.nat pa 8
    if ok w then .ok true (s.writeL2 c.ctx pa (leBytes 8 (setSst new w))) else .ok false s

/-- The switch to a slot: CUR, then 2 to 3 on the other slot (R332). -/
def switchTo (c : ChainRef) (s : State) (desc : Nat) (slot : Fin 2) : Chk Unit :=
  (writeVia (viaEngine c) c.die c.ctx s desc 1 false).bind fun pa s =>
    let s := s.writeL2 c.ctx pa [BitVec.ofNat 8 (putBits (s.mem.nat pa 1) 0 1 slot.val)]
    (casSst c s desc (otherDie slot) (fun w => sstOf w == 2) 3).bind fun _ s => .ok () s

/-! ### Bounds of primitives (R316, R317) -/

/-- The root box of an instance's bottom structure; none where an ORG is not finite, with which no bound is (R317). -/
def rootBox (root : Nat) : Option Box := if (List.range 3).all fun a => f32Finite (nodeOrg root a) then ownBox root else none

/-- The bounds of primitive p; none when it is malformed. Of a patch only the bytes in use are read. -/
def primBounds (via : Via) (s : State) (inst : Bool) (prima p : Nat) : Chk (Option Box) :=
  let num (s : State) (va n : Nat) : Chk Nat := (readRange via s va n).bind fun bs s => .ok (leNat bs) s
  if inst then
    (num s (prima + 128 * p) 128).bind fun raw s =>
      if !instOk raw then .ok none s
      else
        (num s (instDesc raw) 128).bind fun d s =>
          if slotState d (curSlot d) ≠ 2 then .ok none s
          else
            (num s (slotRef (instDesc raw) d (curSlot d)).nodea 128).bind fun root s =>
              .ok ((rootBox root).bind fun b => instBounds raw b) s
  else
    let at' := prima + 1024 * p
    (num s at' 32).bind fun head s =>
      (num s at' (patchLen head)).bind fun raw s => .ok ((readPatch raw).bind Patch.bounds) s

/-! ### Keys and the tree (R322 to R325) -/

/-- A sorted key: its code, its primitive and the primitive's bounds. -/
structure Key where
  code : Nat
  prim : Nat
  box  : Box
deriving DecidableEq, Repr

/-- A key as R322 lays it out: code, primitive; none when it is malformed (R335). -/
def readKey (raw : Nat) : Option (Nat × Nat) :=
  if bitsOf raw 30 2 ≠ 0 ∨ 2 ^ 24 ≤ bitsOf raw 32 32 then none else some (bitsOf raw 0 30, bitsOf raw 32 32)

/-- A key stands behind those that are not greater. -/
def insertSorted (k : Nat × Nat) : List (Nat × Nat) → List (Nat × Nat)
  | [] => [k]
  | x :: xs => if k.1 < x.1 ∨ (k.1 = x.1 ∧ k.2 < x.2) then k :: x :: xs else x :: insertSorted k xs

/-- Keys by (code, primitive), equal ones in array order (R323). -/
def sortKeys (ks : List (Nat × Nat)) : List (Nat × Nat) := ks.foldl (fun l k => insertSorted k l) []

/-- The highest bit set. -/
def topBit (x : Nat) : Nat := (((List.range 30).reverse.find? fun b => x / 2 ^ b % 2 == 1)).getD 0

/-- The two halves of a range of two or more positions (R323). -/
def splitKeys (ks : List Key) : List Key × List Key :=
  match ks.head?, ks.getLast? with
  | some a, some z =>
    if a.code = z.code then ks.splitAt (ks.length / 2)
    else
      let b := topBit (a.code ^^^ z.code)
      (ks.takeWhile fun k => k.code / 2 ^ b % 2 == 0, ks.dropWhile fun k => k.code / 2 ^ b % 2 == 0)
  | _, _ => (ks, [])

/-- The entry with the most positions, the lowest index first (R324). -/
def widest (l : List (List Key)) : Nat × Nat :=
  ((l.mapIdx fun i e => (i, e.length))).foldl (fun b x => if b.2 < x.2 then x else b) (0, 0)

/-- Replace entries by their halves until eight stand or none spans two positions. -/
def widen : Nat → List (List Key) → List (List Key)
  | 0, l => l
  | n + 1, l =>
    let w := widest l
    if 8 ≤ l.length ∨ w.2 < 2 then l
    else
      let h := splitKeys ((l[w.1]?).getD [])
      widen n (l.take w.1 ++ [h.1, h.2] ++ l.drop (w.1 + 1))

/-- The child list of a node over sorted keys (R324). -/
def childList (ks : List Key) : List (List Key) :=
  if ks.length < 2 then [ks] else let h := splitKeys ks; widen 6 [h.1, h.2]

/-- Fields of a node besides its boxes and quality (R318, R325). -/
structure NodeHead where
  parent : Nat
  pslot  : Nat
  gen    : Nat

/-- A node from its children: slot, box, and reference with its kind. -/
def nodeRaw (h : NodeHead) (cs : List (Nat × Box × Nat × Bool)) : Nat :=
  let geo := quantise (cs.map fun c => (c.1, c.2.1))
  let refs := (cs.map fun c => c.2.2.1 * 2 ^ (32 * c.1 + 96)).foldl (· + ·) 0
  let masks := (cs.map fun c => 2 ^ (872 + c.1) + (if c.2.2.2 then 2 ^ (880 + c.1) else 0)).foldl (· + ·) 0
  let raw := geo + refs + masks + h.gen * 2 ^ 896 + h.pslot * 2 ^ 925 + h.parent * 2 ^ 928
  let q := quality raw
  raw + q * 2 ^ 960 + q * 2 ^ 976

/-- What a subtree comes to: its nodes, each behind those that it leads to, in the order of their positions; and the index behind
it. -/
structure Subtree where
  nodes : List (Nat × Nat)
  next  : Nat
  box   : Box

mutual
/-- The node over a range with an index, and its subtree (R324, R325). -/
def buildNode (gen : Nat) : Nat → Nat → Nat → Nat → List Key → Subtree
  | 0, i, _, _, _ => ⟨[], i, .empty⟩
  | n + 1, i, parent, pslot, ks =>
    let x := buildChildren gen n (childList ks) i 0 (i + 1)
    let raw := nodeRaw ⟨parent, pslot, gen⟩ x.1
    ⟨x.2.nodes ++ [(i, raw)], x.2.next, (ownBox raw).getD .empty⟩
/-- The children of node `i` from a slot on, the next node having an index. -/
def buildChildren (gen : Nat) : Nat → List (List Key) → Nat → Nat → Nat → List (Nat × Box × Nat × Bool) × Subtree
  | 0, _, _, _, next => ([], ⟨[], next, .empty⟩)
  | _, [], _, _, next => ([], ⟨[], next, .empty⟩)
  | n + 1, e :: es, i, slot, next =>
    match e with
    | [k] =>
      let r := buildChildren gen n es i (slot + 1) next
      ((slot, k.box, k.prim, false) :: r.1, r.2)
    | _ =>
      let t := buildNode gen n next i slot e
      let r := buildChildren gen n es i (slot + 1) t.next
      ((slot, t.box, next, true) :: r.1, { r.2 with nodes := t.nodes ++ r.2.nodes })
end

/-- The whole tree: every node behind those that it leads to, the root last. -/
def buildTree (gen : Nat) (ks : List Key) : List (Nat × Nat) :=
  (buildNode gen (20 * ks.length + 20) 0 0xFFFFFFFF 0 ks).nodes

/-! ### BUILD (R329, R330, R334, R335) -/

structure BuildArgs where
  desc  : Nat
  keys  : Nat
  nodea : Nat
  prima : Nat
  nkey  : Nat
  ncap  : Nat
  slot  : Fin 2
  fen   : Bool
  swi   : Bool

def ChainRec.build (r : ChainRec) : BuildArgs where
  desc := r.desc
  keys := r.field 192 64
  nodea := r.field 256 64
  prima := r.field 320 64
  nkey := r.field 384 32
  ncap := r.field 416 32
  slot := Fin.ofNat 2 (r.field 448 1)
  fen := r.field 449 1 == 1
  swi := r.field 450 1 == 1

/-- NODEA, PRIMA, NNODE and NPRIM of a slot. -/
def writeSlot (c : ChainRef) (s : State) (b : BuildArgs) (nnode : Nat) : Chk Unit :=
  let at' := stateWordAt b.desc b.slot
  (writeNum c s (at' + 8) 8 (b.nkey + nnode * 2 ^ 32)).bind fun _ s =>
    writeNum c s (at' + 16) 16 (b.prima + b.nodea * 2 ^ 64)

/-- What reading the inputs of a BUILD comes to: a status where one is malformed, which ends the reading there (R330). -/
abbrev Read (α : Type) := Except Byte α

/-- Go through a list; an element that is malformed ends it with a status. -/
def readChk {α β : Type} (f : State → α → Chk (Option β)) (st : Byte) (s : State) : List α → Chk (Read (List β))
  | [] => .ok (.ok []) s
  | x :: xs => (f s x).bind fun y s =>
    match y with
    | none => .ok (.error st) s
    | some y => (readChk f st s xs).bind fun ys s => .ok (ys.map (y :: ·)) s

/-- The keys of an array from one on, read page by page (R322, R335). -/
def readKeys (c : ChainRef) (s : State) (va n : Nat) : Nat → Chk (Read (List (Nat × Nat)))
  | 0 => .ok (.ok []) s
  | k + 1 =>
    if n = 0 then .ok (.ok []) s
    else
      let m := min n ((4096 - va % 4096) / 8)
      (readVia (viaEngine c) s va (8 * m)).bind fun bs s =>
        let ks := (List.range m).map fun i => readKey (leNat ((bs.drop (8 * i)).take 8))
        if ks.any Option.isNone then .ok (.error 8) s
        else (readKeys c s (va + 8 * m) (n - m) k).bind fun r s => .ok (r.map (ks.filterMap id ++ ·)) s

/-- The positions below the split of the root: those of the serving instance (R412). -/
def lowerHalf (ks : List (Nat × Nat)) : Nat := (splitKeys (ks.map fun k => ⟨k.1, k.2, .empty⟩)).1.length

/-- The BUILD is shared between the dies (R412). -/
def BuildArgs.shared (b : BuildArgs) : Bool := decide (65536 ≤ b.nkey)

/-- The die whose Trowel instance builds a position of a BUILD (R412). -/
def BuildArgs.dieAt (b : BuildArgs) (c : ChainRef) (split i : Nat) : Fin 2 :=
  if b.shared && decide (split ≤ i) then otherDie c.die else c.die

/-- Keys as the record's array gives them, sorted, with the bounds of their primitives, read in the order of their positions each
by the instance that builds it: a status when one is malformed (R330, R335, R412). -/
def gatherKeys (c : ChainRef) (s : State) (inst : Bool) (b : BuildArgs) : Chk (Read (List Key)) :=
  (readKeys c s b.keys b.nkey (b.nkey / 512 + 2)).bind fun r s =>
    match r with
    | .error st => .ok (.error st) s
    | .ok l =>
      let ks := sortKeys l
      let split := lowerHalf ks
      readChk (fun s (x : Nat × Nat × Nat) =>
        (primBounds (viaDie c (b.dieAt c split x.1)) s inst b.prima x.2.2).bind fun o s =>
          .ok (o.map fun box => (⟨x.2.1, x.2.2, box⟩ : Key)) s) 20 s (ks.mapIdx fun i k => (i, k))

/-- The slots of the root whose children the other instance builds (R412). -/
def otherSlots (b : BuildArgs) (ks : List Key) : List Nat :=
  let l := childList ks
  let split := (splitKeys ks).1.length
  (List.range l.length).filter fun c => b.shared && decide (split ≤ ((l.take c).map List.length).sum)

/-- Each internal child of the root with its subtree, in slot order; 8 is added to the number of one that the other instance
builds. -/
def subtrees (tree : List (Nat × Nat)) (other : List Nat) : List (Nat × List (Nat × Nat)) :=
  match tree.getLast? with
  | none => []
  | some root =>
    let cs := (List.range 8).filter (nodeInternal root.2)
    cs.map fun c =>
      let lo := nodeCref root.2 c
      let hi := (cs.filter fun d => decide (c < d)).foldl (fun h d => min h (nodeCref root.2 d)) tree.length
      (if other.contains c then c + 8 else c, tree.filter fun n => decide (lo ≤ n.1 ∧ n.1 < hi))

/-! ### Rewriting a node (R327) -/

/-- SEQ made odd, the node's other bytes, SEQ made even: the three writes of a node whose SEQ is already raised by two. -/
def rewriteOf (pa node : Nat) : List NodeWrite :=
  [⟨pa + 124, 4, (nodeSeq node + 2 ^ 32 - 1) % 2 ^ 32⟩, ⟨pa, 124, bitsOf node 0 992⟩, ⟨pa + 124, 4, nodeSeq node⟩]

/-- Make one write of a rewrite. -/
def State.writeNode (s : State) (c : ChainRef) (w : NodeWrite) : State := s.writeL2 c.ctx w.pa (leBytes w.len w.val)

/-- The first write of a rewrite; the record keeps the others. -/
def State.beginRewrite (s : State) (c : ChainRef) (pa node : Nat) : State :=
  match rewriteOf pa node with
  | w :: ws => (s.writeNode c w).modRec c fun x => { x with writes := ws }
  | [] => s

/-- A rewrite that has begun is finished: a node is wholly written or as before (R328). -/
def State.endRewrite (s : State) (r : ChainRec) : State :=
  (r.writes.foldl (fun s w => s.writeNode r.c w) s).modRec r.c fun x => { x with writes := [] }

/-- The next write of a rewrite comes before anything else that a record does. -/
def State.rewriteOr (s : State) (r : ChainRec) (f : State → State) : State :=
  match r.writes with
  | w :: ws => (s.writeNode r.c w).modRec r.c fun x => { x with writes := ws }
  | [] => f s

/-- Find a node for writing. -/
def nodeAddr (c : ChainRef) (s : State) (va : Nat) : Chk Nat := writeVia (viaEngine c) c.die c.ctx s va 128 false

/-- IMASK as FENCE of the root (R329). -/
def fenced (root : Nat) : Nat := putBits root 888 8 (bitsOf root 880 8)

/-- SEQ as a rewrite leaves it. -/
def rewritten (root : Nat) : Nat := putBits root 992 32 (nodeSeq root + 2)

def rootOf (tree : List (Nat × Nat)) : Nat := (tree.getLast?.map (·.2)).getD 0

/-- The nodes that a BUILD has to write, in order: without FEN all of them, the root last; with FEN those below the root (R329). -/
def buildTodo (b : BuildArgs) (tree : List (Nat × Nat)) (ks : List Key) : List (Nat × List (Nat × Nat)) :=
  let subs := subtrees tree (otherSlots b ks)
  if b.fen then subs else subs ++ [(0, tree.drop (tree.length - 1))]

/-- The die whose instance writes a part of a BUILD (R412). -/
def partDie (c : ChainRef) (k : Nat) : Fin 2 := if 8 ≤ k then otherDie c.die else c.die

/-- Publish: the slot's fields, with FEN the fenced root after them, SST by its compare-and-swap, and the switch; true
when the compare-and-swap succeeds (R329). -/
def publishTree (c : ChainRef) (s : State) (b : BuildArgs) (root nnode : Nat) : Chk Bool :=
  (writeSlot c s b nnode).bind fun _ s =>
    (if b.fen then writeNum c s b.nodea 128 root else .ok () s).bind fun _ s =>
      (casSst c s b.desc b.slot (fun w => sstOf w == 1) 2).bind fun ok s =>
        if ok && b.swi then (switchTo c s b.desc b.slot).bind fun _ s => .ok true s else .ok ok s

/-- A BUILD ends badly: its rollback is still to be made. -/
def State.rollback (s : State) (c : ChainRef) (stage : Nat) (st : Byte) : State :=
  s.modRec c fun x => { x with stage, acc := st.toNat :: x.acc }

/-- The start of a BUILD: the slot is taken, with its GEN (R321, R329, R334). -/
def State.buildStart (s : State) (c : ChainRef) (r : ChainRec) (b : BuildArgs) : State :=
  if r.field 451 61 ≠ 0 ∨ b.desc % 128 ≠ 0 ∨ b.keys % 8 ≠ 0 ∨ b.nodea % 128 ≠ 0 ∨ b.nkey = 0 ∨ 2 ^ 24 < b.nkey then
    s.endRec c 8
  else
    match readNum c s b.desc 128 with
    | .wait t => s.onlyWaits t
    | .bad st _ t => t.endRec c st
    | .ok d t =>
      if b.prima % (if bitsOf d 1 1 = 1 then 128 else 1024) ≠ 0 then t.endRec c 8
      else if slotState d b.slot ≠ 0 then t.endRec c 17
      else
        let gen := ((slotRef b.desc d (otherDie b.slot)).gen + 1) % 2 ^ 16
        match writeState c t b.desc b.slot fun w => putBits (setSst 1 w) 16 16 gen with
        | .wait u => s.onlyWaits u
        | .bad st _ u => u.endRec c st
        | .ok _ u => u.modRec c fun x => { x with stage := 4, begun := true, acc := [bitsOf d 1 1, gen] }

/-- Another record keeps the instance with the same INST on the other die busy: one of its own chains in progress, but a BUILD
that itself waits for its other half (R412). -/
def State.partnerBusy (s : State) (c : ChainRef) (inst : Nat) : Bool :=
  s.recs.any fun x => x.c != c && x.c.die == otherDie c.die && x.eng == 1 && x.inst == inst && x.status.isNone
    && !(x.kind == 1 && x.stage == 4 && x.build.shared) && !(s.die x.c.die).awaitsPager (.chain x.c)

/-- Every key and every primitive is read before any node is written; a tree of more than NCAP nodes is not written at
all. Nodes stand in the order of their writes, every one behind those that it leads to (R329, R330, R335). A BUILD that is shared
waits while the other instance is busy (R412). -/
def State.buildRead (s : State) (c : ChainRef) (r : ChainRec) (b : BuildArgs) : State :=
  if b.shared && s.partnerBusy c r.inst then s
  else
  match gatherKeys c s (r.acc.headD 0 == 1) b with
  | .wait t => s.onlyWaits t
  | .bad st _ t => t.rollback c 2 st
  | .ok (.error st) t => t.rollback c 2 st
  | .ok (.ok ks) t =>
    let tree := buildTree ((r.acc.drop 1).headD 0) ks
    if b.ncap < tree.length then t.rollback c 2 18
    else
      t.modRec c fun x => { x with
        stage := 5, acc := [if b.fen then fenced (rootOf tree) else rootOf tree, tree.length]
        todo := buildTodo b tree ks }

/-- The next node of a BUILD without FEN, and then its publication; with FEN the publication comes first (R329). -/
def State.buildPublish (s : State) (c : ChainRef) (r : ChainRec) (b : BuildArgs) : State :=
  match b.fen, r.todo with
  | false, (_, []) :: rest => s.modRec c fun x => { x with todo := rest }
  | false, (k, n :: ns) :: rest =>
    match writeNodeBy c (partDie c k) s (b.nodea + 128 * n.1) n.2 with
    | .wait t => s.onlyWaits t
    | .bad st _ t => t.rollback c 2 st
    | .ok _ t => t.modRec c fun x => { x with todo := (k, ns) :: rest }
  | _, todo =>
    match publishTree c s b (r.acc.headD 0) ((r.acc.drop 1).headD 0) with
    | .wait t => s.onlyWaits t
    | .bad st _ t => t.rollback c 2 st
    | .ok false t => t.endRec c 17
    | .ok true t =>
      if b.fen && !todo.isEmpty then t.modRec c fun x => { x with stage := 1, acc := [r.acc.headD 0] } else t.endRec c 0

/-- A fenced child: the nodes of its subtree, then the root with its FENCE bit clear (R329). -/
def State.buildChild (s : State) (c : ChainRef) (r : ChainRec) (b : BuildArgs) : State :=
  match r.todo with
  | [] => s.endRec c 0
  | (k, n :: ns) :: rest =>
    match writeNodeBy c (partDie c k) s (b.nodea + 128 * n.1) n.2 with
    | .wait t => s.onlyWaits t
    | .bad st _ t => t.rollback c 3 st
    | .ok _ t => t.modRec c fun x => { x with todo := (k, ns) :: rest }
  | (k, []) :: rest =>
    let root := putBits (rewritten (r.acc.headD 0)) (888 + k % 8) 1 0
    match nodeAddr c s b.nodea with
    | .wait t => s.onlyWaits t
    | .bad st _ t => t.rollback c 3 st
    | .ok pa t => (t.beginRewrite c pa root).modRec c fun x => { x with acc := [root], todo := rest }

/-- The root without the children that are still fenced (R330). -/
def pruned (root : Nat) : Nat :=
  ((List.range 8).filter (nodeFence root)).foldl (fun r k =>
    putBits (putBits (putBits (putBits (putBits r (888 + k) 1 0) (872 + k) 1 0) (880 + k) 1 0) (48 * k + 384) 48 0)
      (32 * k + 96) 32 0) (rewritten root)

/-- The rollback of R330: SST back to 0, or the root without the children that are still fenced. -/
def State.buildBack (s : State) (c : ChainRef) (r : ChainRec) (b : BuildArgs) : State :=
  let st := BitVec.ofNat 8 (r.acc.headD 0)
  let go : Chk State :=
    if r.stage = 2 then (writeState c s b.desc b.slot (setSst 0)).bind fun _ t => .ok (t.endRec c st) t
    else (nodeAddr c s b.nodea).bind fun pa t =>
      .ok ((t.beginRewrite c pa (pruned ((r.acc.drop 1).headD 0))).modRec c fun x => { x with stage := 6 }) t
  match go with
  | .ok t _ => t
  | .wait t => s.onlyWaits t
  | .bad _ f t => (t.appendEvent c.die c.ctx 2 f.told).endRec c st

/-- The other instance of a shared BUILD writes the next node of its half ahead of the serving one: a failure is met in its turn,
in the order of positions (R412; notes/assumptions/141). -/
def buildAhead (c : ChainRef) (b : BuildArgs) (s : State) : List (Nat × List (Nat × Nat)) →
    Option (State × List (Nat × List (Nat × Nat)))
  | [] => none
  | (k, n :: ns) :: rest =>
    if 8 ≤ k then
      match writeNodeBy c (partDie c k) s (b.nodea + 128 * n.1) n.2 with
      | .ok _ t => some (t, (k, ns) :: rest)
      | _ => none
    else (buildAhead c b s rest).map fun x => (x.1, (k, n :: ns) :: x.2)
  | (k, []) :: rest => (buildAhead c b s rest).map fun x => (x.1, (k, []) :: x.2)

def State.otherHalf (s : State) (c : ChainRef) : State :=
  match s.rec? c with
  | some r =>
    if r.due 1 1 && !r.dead && ((r.stage == 5 && !r.build.fen) || r.stage == 1) then
      match buildAhead c r.build s r.todo with
      | some x => x.1.modRec c fun y => { y with todo := x.2 }
      | none => s
    else s
  | none => s

/-- A record of Trowel or Scraper that is to be performed and whose turn it is. -/
def State.ready (s : State) (c : ChainRef) (eng kind : Nat) : Option ChainRec :=
  match s.rec? c with
  | some r => if r.due eng kind && s.hasTurn r then some r else none
  | none => none

def execBuild (c : ChainRef) (s : State) : Host.Outcome State Fault Refusal :=
  .next (
    match s.ready c 1 1 with
    | none => s
    | some r => s.rewriteOr r fun s =>
      match r.stage with
      | 0 => s.buildStart c r r.build
      | 1 => s.buildChild c r r.build
      | 4 => s.buildRead c r r.build
      | 5 => s.buildPublish c r r.build
      | 6 => s.endRec c (BitVec.ofNat 8 (r.acc.headD 0))
      | _ => s.buildBack c r r.build)

/-! ### SKIM (R328) -/

/-- The exact box of a child: its primitive's bounds, or the decoded own box of its node; a child without any keeps the
box that its parent holds. None when a primitive is malformed. -/
def childExact (c : ChainRef) (s : State) (ref : StructRef) (raw k : Nat) : Chk (Option Box) :=
  if nodeInternal raw k then
    (readNum c s (ref.nodea + 128 * nodeCref raw k) 128).bind fun n s => .ok (some ((ownBox n).getD (childBox raw k))) s
  else primBounds (viaEngine c) s ref.inst ref.prima (nodeCref raw k)

/-- A node refitted: new boxes, scale and quality; everything else as it is, SEQ twice raised (R327, R328). -/
def refit (raw : Nat) (bs : List (Nat × Box)) : Nat :=
  let keep := putBits (putBits (putBits raw 0 96 0) 384 384 0) 848 24 0
  let geo := keep + quantise bs
  rewritten (putBits geo 960 16 (quality geo))

/-- One node of a SKIM: the counts so far are the stale nodes and the lowest of them. -/
def State.skimNode (s : State) (c : ChainRef) (r : ChainRec) (ref : StructRef) (tau i : Nat) : State :=
  let go : Chk (Option (Nat × Option Nat)) := (readNum c s (ref.nodea + 128 * i) 128).bind fun raw s =>
    let cs := validChildren raw
    if cs.isEmpty then .ok (some (raw, none)) s
    else
      (mapChk (fun s k => (childExact c s ref raw k).bind fun b s => .ok (k, b) s) s cs).bind fun bs s =>
        if bs.any fun x => x.2.isNone then .ok none s
        else
          let new := refit raw (bs.filterMap fun x => x.2.map fun b => (x.1, b))
          (nodeAddr c s (ref.nodea + 128 * i)).bind fun pa s => .ok (some (new, some pa)) s
  match go with
  | .wait t => s.onlyWaits t
  | .bad st _ t => t.endRec c st
  | .ok none t => t.endRec c 20
  | .ok (some (raw, pa)) t =>
    let t := match pa with
      | some pa => t.beginRewrite c pa raw
      | none => t
    let n := r.acc.headD 0
    let low := (r.acc.drop 1).headD 0xFFFFFFFF
    let acc := if stale tau (bitsOf raw 960 16) (bitsOf raw 976 16) then [n + 1, i] else [n, low]
    t.modRec c fun x => { x with next := i, acc }

/-- A SKIM: first its checks, then its nodes in descending order, then its result (R328, R334). -/
def execSkim (c : ChainRef) (s : State) : Host.Outcome State Fault Refusal :=
  .next (
    match s.ready c 1 2 with
    | none => s
    | some r => s.rewriteOr r fun s =>
      let res := r.field 192 64
      let slot : Fin 2 := Fin.ofNat 2 (r.field 256 1)
      if r.field 257 255 ≠ 0 ∨ r.desc % 128 ≠ 0 ∨ res % 8 ≠ 0 then s.endRec c 8
      else
        match readNum c s r.desc 128 with
        | .wait t => s.onlyWaits t
        | .bad st _ t => t.endRec c st
        | .ok d t =>
          let ref := slotRef r.desc d slot
          if r.stage = 0 then
            if slotState d slot ≠ 2 then t.endRec c 19
            else t.modRec c fun x => { x with stage := 1, begun := true, next := ref.nnode, acc := [0, 0xFFFFFFFF] }
          else
            match r.next with
            | i + 1 => t.skimNode c r ref (bitsOf d 48 16) i
            | 0 =>
              match writeNum c t res 8 (r.acc.headD 0 + (r.acc.drop 1).headD 0 * 2 ^ 32) with
              | .ok _ t => t.endRec c 0
              | .wait u => s.onlyWaits u
              | .bad st _ t => t.endRec c st)

/-! ### SWITCH and RECLAIM (R332, R333) -/

def execSwitch (c : ChainRef) (s : State) : Host.Outcome State Fault Refusal :=
  .next (
    match s.ready c 1 3 with
    | none => s
    | some _ =>
      s.performRec c 1 3 fun r s =>
        let slot : Fin 2 := Fin.ofNat 2 (r.field 192 1)
        if r.field 193 319 ≠ 0 ∨ r.desc % 128 ≠ 0 then .ok 8 s
        else
          (readNum c s r.desc 128).bind fun d s =>
            if slotState d slot ≠ 2 then .ok 19 s
            else (switchTo c s r.desc slot).bind fun _ s => .ok 0 s)

/-- Deferred records of a Scraper. -/
def State.deferredRecs (s : State) (d : Fin 2) : Nat :=
  (s.recs.filter fun r => r.c.die == d && r.eng == 2 && r.begun && r.status.isNone).length

/-- A RECLAIM that waits for the pager or for its turn at a slice; one that polls does so again a cycle later. -/
def State.reclaimWaits (s t : State) (c : ChainRef) : State :=
  (s.onlyWaits t).modRec c fun x => { x with next := if x.begun then 1 else x.next }

/-- The compare-and-swap that empties the slot (R333). -/
def State.reclaimEnd (s : State) (c : ChainRef) (r : ChainRec) (slot : Fin 2) : State :=
  match casSst c s r.desc slot (fun w => sstOf w == 3 && inflOf w == 0) 0 with
  | .wait u => s.reclaimWaits u c
  | .bad st _ u => u.endRec c st
  | .ok ok u => u.endRec c (if ok then 0 else 17)

/-- The next node of a slot that is zeroed, in ascending order; after the last, the slot is empty (R333, R403). -/
def State.reclaimZero (s : State) (c : ChainRef) (r : ChainRec) (slot : Fin 2) (ref : StructRef) : State :=
  let i := r.acc.headD 0
  if ref.nnode ≤ i then s.reclaimEnd c r slot
  else
    match writeNum c s (ref.nodea + 128 * i) 128 0 with
    | .wait t => s.reclaimWaits t c
    | .bad st _ t => t.endRec c st
    | .ok _ t => t.modRec c fun x => { x with acc := [i + 1] }

/-- A step of a RECLAIM: deferred while INFL is not 0, else the nodes are zeroed and the slot is emptied. -/
def State.reclaimStep (s : State) (c : ChainRef) (r : ChainRec) : State :=
  let slot : Fin 2 := Fin.ofNat 2 (r.field 208 1)
  if r.field 210 302 ≠ 0 ∨ r.desc % 128 ≠ 0 then s.endRec c 8
  else
    match readNum c s r.desc 128 with
    | .wait t => s.reclaimWaits t c
    | .bad st _ t => t.endRec c st
    | .ok d t =>
      let ref := slotRef r.desc d slot
      if r.stage = 1 then t.reclaimZero c r slot ref
      else if slotState d slot ≠ 3 then t.endRec c 17
      else if ref.gen ≠ r.field 192 16 then t.endRec c 21
      else if bitsOf d (544 + 256 * slot.val) 32 ≠ 0 then
        if r.begun ∨ s.deferredRecs c.die < 16 then t.modRec c fun x => { x with begun := true, next := 1024 } else t
      else if r.field 209 1 = 1 then t.modRec c fun x => { x with stage := 1, acc := [] }
      else t.reclaimEnd c r slot

def execReclaim (c : ChainRef) (s : State) : Host.Outcome State Fault Refusal :=
  .next (
    match s.ready c 2 1 with
    | some r => if r.begun then s else s.reclaimStep c r
    | none => s)

def execReclaimPoll (c : ChainRef) (s : State) : Host.Outcome State Fault Refusal :=
  .next (
    match s.ready c 2 1 with
    | some r => if r.begun && r.next == 0 then s.reclaimStep c r else s
    | none => s)

end Sys2Proof.Machine
end

