-- ==== Sys2Proof/Machine/Wickline.lean ====
section
/-! DEFINITION. Wickline: time windows and WAITW (R426 to R430), flits (R425, R427, R428), the lamplighter's commands (R431 to
R434), proxy queues (R435) and collectives (R436 to R442). -/

namespace Sys2Proof

/-- Class of a flit (R425). -/
def FlitBody.cls : FlitBody → Fin 4
  | .announce .. | .scale .. | .mant .. | .share .. | .mismatch .. => 0
  | .write .. | .signal .. | .fwd .. => 1
  | .ack _ => 2
  | .abort .. | .marker _ | .route _ => 3

/-- Bytes of payload of a flit (R424; notes/assumptions/151). -/
def FlitBody.payload : FlitBody → Nat
  | .write _ _ _ bs => 16 + bs.length
  | .signal .. => 24
  | .fwd _ _ msg _ _ => 24 + msg.length
  | .announce _ _ _ _ _ _ _ _ _ devs => 24 + 2 * devs.length
  | .scale .. => 16
  | .mant _ _ _ _ ms => 16 + 4 * ms.length
  | .share _ _ _ _ bs => 16 + bs.length
  | .mismatch .. | .abort .. => 16
  | .ack _ => 8
  | .marker _ => 8
  | .route bs => bs.length

end Sys2Proof

namespace Sys2Proof.Machine

/-! ### Windows (R426) -/

/-- The window length in nanoseconds: WLU in units of 250 ns, 4,000 ns by default. -/
def State.windowLength (s : State) : Nat := if s.boot.wlu = 0 then 4000 else 250 * s.boot.wlu.toNat

/-- Lock, once it has been had, has been lost for more than 10 ms: no flit is admitted until it returns (R427). -/
def execPtpLockLoss (s : State) : Host.Outcome State Fault Refusal :=
  .next (if s.locked then { s with lost := true } else s)

/-! ### WAITW (R429, R430) -/

/-- The wait is over: an acquire at .sys, and WINDOW to the destination. -/
def State.endWaitW (s : State) (d : Option (Fin 64)) : State :=
  let s := s.dropL1 s.g.coreRef
  { s with g := match d with
    | some k => s.g.writeS k s.window
    | none => s.g }

/-- The target of a WAITW: a restored one waits for the target that was saved (R430). -/
def State.waitTarget (s : State) (x : WaitWArgs) : Word64 :=
  let n := match x.n with
    | some o => s.g.src x.c .n64 o
    | none => x.c.lit
  match s.g.waitw with
  | some t => t
  | none => if x.rel then BitVec.ofNat 64 (min (s.window.toNat + n.toNat) (2 ^ 64 - 1)) else n

def execWaitw (x : WaitWArgs) (s : State) : Host.Outcome State Fault Refusal :=
  .next (if s.g.flushing then s
  else if x.cond.holds s.g.sc then
    if s.g.unsettled then s.boundary .wait
    else
      let t := s.waitTarget x
      let s := { s with g := { s.g with waitw := none } }
      if t.toNat ≤ s.window.toNat then (s.endWaitW x.d).advance x.c
      else s.beginWait x.c (.window t x.d)
  else s.advance x.c)

def execWaitwWake (r : GroupRef) (s : State) : Host.Outcome State Fault Refusal :=
  .next (s.atGroup r fun s =>
    match s.g.run with
    | .waiting _ (.window t d) => if t.toNat ≤ s.window.toNat then (s.endWaitW d).wake else s
    | _ => s)

/-! ### Sending (R425, R427, R431, R434) -/

/-- The port towards a device; none where no route of at most 4 hops leads, or its link is down (R424, R434). -/
def State.portTo (s : State) (d : Fin 2) (dev : BitVec 12) : Option (Fin 12) :=
  let rta := (s.boots.get d).rta
  match Config.route rta d dev with
  | some p => if s.down.contains (.wickline d p) || decide (4 < Config.hops rta d dev) then none else some p
  | none => none

/-- A flit of this device. -/
def State.flit (s : State) (chain : Option ChainRef) (dev : BitVec 12) (p : Fin 12) (b : FlitBody) : Flit :=
  ⟨chain, b.cls, s.boot.devnum, dev, p, b⟩

/-- Form flits of a record. -/
def State.form (s : State) (d : Fin 2) (fs : List Flit) : State :=
  if fs.isEmpty then s else s.modDie d fun x => { x with flits := x.flits ++ fs }

/-- A flit of a class waits for a port. -/
def Die.waitsFor (d : Die) (p : Fin 12) (k : Fin 4) : Bool := d.flits.any fun x => x.cls == k && x.port == p

/-- All of the classes 0 to 2 wait for a port, which they then share by their weights (R425). -/
def Die.shared (d : Die) (p : Fin 12) : Bool := d.waitsFor p 0 && d.waitsFor p 1 && d.waitsFor p 2

/-- It is a class's turn at a port: while all three wait, 4, 4 and 2 flits of them go in a round of ten (R425;
notes/assumptions/149). -/
def Die.turnFor (d : Die) (p : Fin 12) (k : Fin 4) : Bool :=
  !d.shared p || decide (0 < (d.turns.get p).toList.getD k.val 0)

/-- The port's round after a flit of a class. -/
def Die.spend (d : Die) (p : Fin 12) (k : Fin 4) : Die :=
  if k = 3 ∨ !d.shared p then d
  else
    let left := (d.turns.get p).toList.mapIdx fun i n => if i = k.val then n - 1 else n
    { d with turns := d.turns.set p (if left.all (· == 0) then #v[4, 4, 2] else #v[left.getD 0 0, left.getD 1 0, left.getD 2 0]) }

/-- A flit may be admitted: none once lock has been lost; classes 0 to 2 only after the first lock, while no flit of class 3
waits for the port, and in their turn; behind every earlier one of its class to its device; at most 224 bytes of payload
(R424, R425, R427). -/
def Die.admissible (d : Die) (locked lost : Bool) (i : Nat) : Option Flit :=
  match d.flits[i]? with
  | none => none
  | some f =>
    let before := d.flits.take i
    let ok := !lost && (f.cls == 3 || (locked && !d.waitsFor f.port 3 && d.turnFor f.port f.cls))
      && !(before.any fun x => x.cls == f.cls && x.dst == f.dst) && decide (f.body.payload ≤ 224)
    if ok then some f else none

/-- Flits of a record are withdrawn. -/
def State.recall (s : State) (c : ChainRef) : State :=
  s.modDie c.die fun d => { d with flits := d.flits.filter fun f => f.chain != some c }

/-- Flits that have left on a port so far: the sequence number of the next (R424). -/
def State.sentOn (s : State) (d : Fin 2) (p : Fin 12) : Nat := (s.sent.filter fun x => x.die == d && x.flit.port == p).length

/-- A flit leaves on its port. -/
def State.send (s : State) (d : Fin 2) (win : Nat) (f : Flit) : State :=
  { s with sent := s.sent ++ [⟨d, win, s.sentOn d f.port, f⟩] }

/-- The collective whose contributor is a chain's record. -/
def State.collOf (s : State) (c : ChainRef) : Option Coll := s.colls.find? fun x => x.chain == some c

/-- A collective is over on this device, with the parts that its members had in it (R437). -/
def State.forgetColl (s : State) (p : Coll → Bool) : State :=
  { s with colls := s.colls.filter fun x => !p x
           overs := s.overs ++ (s.colls.filter p).flatMap fun x => x.plans.map Plan.part }

/-- A record of a lamplighter ends; of a contributor, the collective is over on this device with it. -/
def State.endColl (s : State) (c : ChainRef) (st : Byte) : State :=
  ((s.forgetColl fun x => x.chain == some c).recall c).endRec c st

/-- A flit is sent in the current window; a record whose link has gone down ends with status 21. -/
def execFlitAdmit (die : Fin 2) (i : Nat) (s : State) : Host.Outcome State Fault Refusal :=
  .next (
    match (s.die die).admissible s.locked s.lost i with
    | none => s
    | some f =>
      let s := s.modDie die fun d => { d.spend f.port f.cls with flits := d.flits.eraseIdx i }
      if s.down.contains (.wickline die f.port) then
        match f.chain with
        | some c => s.endColl c 21
        | none => s
      else s.send die s.window.toNat f)

/-- A die's controller forms a window marker or route control (R425). -/
def State.control (s : State) (die : Fin 2) (dev : BitVec 12) (b : FlitBody) : State :=
  match b, s.portTo die dev with
  | .marker w, some p => s.form die [s.flit none dev p (.marker w)]
  | .route bs, some p => s.form die [s.flit none dev p (.route bs)]
  | _, _ => s

/-- Statuses that an acknowledgement may bring (R434, R237). -/
def ackStatus (kind : Nat) (st : Byte) : Bool :=
  [0, 3, 4, 5, 7, 21].contains st.toNat || (kind == 2 && (st == 8 || st == 19))

/-- A flit sent in a window reaches this device only while WINDOW reads at least one less (R443). -/
def State.reached (s : State) (win : Nat) : Bool := decide (win ≤ s.window.toNat + 1)

/-- What a PUT ends with: the far device's failure, else the one met here behind the lines sent (R237). -/
def ChainRec.ackedAs (r : ChainRec) (status : Byte) : Byte :=
  if status = 0 then BitVec.ofNat 8 (r.acc.headD 0) else status

/-- The acknowledgement of a record whose flits have all been sent, or of a collective whose work here is done, by a flit sent in a
window (R431, R443). -/
def execLamplighterAck (c : ChainRef) (ack : Ack) (s : State) : Host.Outcome State Fault Refusal :=
  .next (
    match s.rec? c with
    | none => s
    | some r =>
      if !s.reached ack.win.toNat then s
      else if r.eng = 3 ∧ r.kind ≤ 3 ∧ r.begun ∧ r.status.isNone ∧ ackStatus r.kind ack.status
        ∧ !(s.die c.die).flits.any (fun f => f.chain == some c) then s.endRec c (r.ackedAs ack.status)
      else if r.eng = 3 ∧ r.stage = 9 ∧ r.status.isNone ∧ (ack.status = 0 ∨ ack.status = 21)
        ∧ !(s.die c.die).flits.any (fun f => f.chain == some c) then s.endColl c ack.status
      else s)

/-! ### PUT, FWD and SIGNAL (R432, R433) -/

/-- A record that crosses Wickline has formed what it has to send, `fail` being the failure that kept it from the rest. -/
def State.sentAll (s : State) (c : ChainRef) (fail : Option Byte) : State :=
  s.modRec c fun r => { r with begun := true, acc := (fail.map BitVec.toNat).toList }

/-- Bytes cut at the 128-byte lines of their destination. -/
def cutLines (va : Nat) (bs : List Byte) : Nat → List (Nat × List Byte)
  | 0 => []
  | n + 1 =>
    if bs.isEmpty then []
    else
      let k := 128 - va % 128
      (va, bs.take k) :: cutLines (va + k) (bs.drop k) n

/-- A lamplighter's record that has not begun: `f` gives its far device and flits, with the failure met behind them, or its
status. -/
def State.lampStart (s : State) (c : ChainRef) (kind : Nat)
    (f : ChainRec → State → Chk (Except Byte (BitVec 12 × List FlitBody × Option Byte))) : State :=
  match s.rec? c with
  | none => s
  | some r =>
    if !r.due 3 kind || r.begun then s
    else
      match f r s with
      | .wait t => s.onlyWaits t
      | .bad st _ t => t.endRec c st
      | .ok (.error st) t => t.endRec c st
      | .ok (.ok (dev, bs, fail)) t =>
        match t.portTo c.die dev, bs, fail with
        | none, _, _ => t.endRec c 21
        | some _, [], some st => t.endRec c st
        | some p, _, _ => (t.form c.die (bs.map (t.flit (some c) dev p))).sentAll c fail

/-- Bytes of SRC for each line of DST, up to the first that cannot be read whole (R237, R433). -/
def readLines (c : ChainRef) (src dst : Nat) (s : State) : List (Nat × Nat) → Chk (List (Nat × List Byte) × Option Byte)
  | [] => .ok ([], none) s
  | (off, k) :: xs =>
    match readRange (viaEngine c) s (src + off) k with
    | .wait s => .wait s
    | .bad st _ s => .ok ([], some st) s
    | .ok bs s => (readLines c src dst s xs).bind fun r s => .ok ((dst + off, bs) :: r.1, r.2) s

/-- Offsets and lengths of a range cut at the 128-byte lines of its destination, behind the first `off` bytes. -/
def cutSpans (dst len : Nat) (off : Nat) : Nat → List (Nat × Nat)
  | 0 => []
  | n + 1 =>
    if len ≤ off then []
    else
      let k := min (128 - (dst + off) % 128) (len - off)
      (off, k) :: cutSpans dst len (off + k) n

/-- PUT: each aligned line of DST is one write. -/
def execPut (c : ChainRef) (s : State) : Host.Outcome State Fault Refusal :=
  .next (s.lampStart c 1 fun r s =>
    let len := r.field 256 24
    let dev := BitVec.ofNat 12 (r.field 280 12)
    if r.field 292 220 ≠ 0 ∨ len = 0 ∨ dev = s.boot.devnum then .ok (.error 8) s
    else
      let dst := r.field 192 64
      (readLines c (r.field 128 64) dst s (cutSpans dst len 0 (len / 128 + 2))).bind fun x s =>
        .ok (.ok (dev, x.1.mapIdx (fun i l => .write c (i == 0) (BitVec.ofNat 64 l.1) l.2), x.2)) s)

/-- FWD: one message with its sender and sequence number (R435). -/
def execFwd (c : ChainRef) (s : State) : Host.Outcome State Fault Refusal :=
  .next (s.lampStart c 2 fun r s =>
    let dev := BitVec.ofNat 12 (r.field 128 12)
    let ring := r.field 192 64
    if r.field 140 52 ≠ 0 ∨ ring % 128 ≠ 0 ∨ dev = s.boot.devnum then .ok (.error 8) s
    else
      .ok (.ok (dev, [.fwd c.ctx (BitVec.ofNat 64 ring) (leBytes 32 (r.field 256 256)) s.boot.devnum
        (BitVec.ofNat 64 (r.idx + 1))], none)) s)

/-- SIGNAL: one write, behind every earlier record of its chain. -/
def execSignal (c : ChainRef) (s : State) : Host.Outcome State Fault Refusal :=
  .next (s.lampStart c 3 fun r s =>
    let dev := BitVec.ofNat 12 (r.field 128 12)
    let dst := r.field 192 64
    let wide := r.field 322 1 == 1
    if h : r.field 320 2 < 3 then
      if r.field 140 52 ≠ 0 ∨ r.field 323 189 ≠ 0 ∨ dst % (if wide then 8 else 4) ≠ 0 ∨ dev = s.boot.devnum then
        .ok (.error 8) s
      else
        .ok (.ok (dev, [.signal c.ctx (BitVec.ofNat 64 dst) ⟨r.field 320 2, h⟩ wide
          (BitVec.ofNat 64 (r.field 256 64))], none)) s
    else .ok (.error 8) s)

/-! ### Arrivals (R428, R433, R435) -/

/-- Translation of a write that a die has received, in the context with the sender's identifier (R388, R432). -/
def viaWickline (die : Fin 2) (ctx : BitVec 12) (n : Nat) : Via := fun s va cls atomic =>
  s.translateNow die none (.wickline die n) ctx va cls atomic

/-- One of the 64-bit words of a receive-ring header. -/
def ringWord (h i : Nat) : Nat := bitsOf h (64 * i) 64

/-- Deliver a message to a receive ring, or count it as dropped (R435); the status of the acknowledgement. -/
def deliver (via : Via) (die : Fin 2) (ctx : BitVec 12) (s : State) (ring : Nat) (msg : List Byte) (sdev : BitVec 12)
    (sseq : Word64) : Chk Byte :=
  (readVia via s ring 128).bind fun bs s =>
    let h := leNat bs
    let log := bitsOf h 0 5
    let i := ringWord h 2
    let base := ringWord h 1
    if bitsOf h 320 704 ≠ 0 ∨ bitsOf h 5 59 ≠ 0 ∨ log = 0 ∨ 20 < log ∨ base % 64 ≠ 0 ∨ ring % 128 ≠ 0 then .ok 8 s
    else
      (turnVia via die ctx none s ring 128 true).bind fun hpa s =>
        if 2 ^ log ≤ i - ringWord h 3 then .ok 19 (s.writeL2 ctx (hpa + 32) (leBytes 8 (ringWord h 4 + 1)))
        else
          let slot := base + 64 * (i % 2 ^ log)
          (turnVia via die ctx none s slot 64 false).bind fun pa s =>
            let s := s.writeL2 ctx (pa + 8) (leBytes 8 sseq.toNat ++ leBytes 16 0 ++ msg)
            let s := s.writeL2 ctx pa (leBytes 8 ((1 - i / 2 ^ log % 2) + sdev.toNat * 256))
            .ok 0 (s.writeL2 ctx (hpa + 16) (leBytes 8 (i + 1)))

/-- What a far lamplighter's flit does to this device's memory: the status of its acknowledgement. -/
def performFlit (die : Fin 2) (n : Nat) (s : State) : FlitBody → Chk Byte
  | .write c _ va bs =>
    (turnVia (viaWickline die c.ctx n) die c.ctx none s va.toNat bs.length false).bind fun pa s => .ok 0 (s.writeL2 c.ctx pa bs)
  | .signal ctx va op wide val =>
    (signalAt (viaWickline die ctx n) die ctx true s va.toNat (if wide then 8 else 4) op.val val.toNat).bind fun _ s => .ok 0 s
  | .fwd ctx ring msg sdev sseq => deliver (viaWickline die ctx n) die ctx s ring.toNat msg sdev sseq
  | _ => .ok 0 s

/-- The acknowledgement goes back. -/
def State.acknowledge (s : State) (die : Fin 2) (src : BitVec 12) (st : Byte) : State :=
  match s.portTo die src with
  | some p => s.form die [s.flit none src p (.ack st)]
  | none => s

/-- The PUT that a line belongs to has had a line refused: its status (R433). -/
def Die.cutBy (d : Die) (a : Arrived) : Option Byte :=
  match a.body with
  | .write c first _ _ => if first then none else (d.cuts.find? fun x => x.src == a.src && x.c == c).map CutPut.status
  | _ => none

/-- What an arrival has come to is acknowledged; a PUT's refusal stands for its later lines, up to the next record of its chain
(R237, R433). -/
def State.landed (s : State) (die : Fin 2) (a : Arrived) (st : Byte) : State :=
  (s.modDie die fun d =>
    match a.body with
    | .write c _ _ _ =>
      let rest := d.cuts.filter fun x => !(x.src == a.src && x.c == c)
      { d with cuts := if st = 0 then rest else ⟨a.src, c, st⟩ :: rest }
    | _ => d).acknowledge die a.src st

/-- An arrival is performed, unless its PUT has been refused before. -/
def State.performArrival (s : State) (die : Fin 2) (a : Arrived) : Chk Byte :=
  match (s.die die).cutBy a with
  | some st => .ok st s
  | none => performFlit die a.n s a.body

/-- Perform an arrival, or keep it while the pager is awaited. -/
def State.land (s : State) (die : Fin 2) (a : Arrived) : State :=
  match s.performArrival die a with
  | .ok st t => t.landed die a st
  | .bad st _ t => t.landed die a st
  | .wait t => (s.onlyWaits t).modDie die fun d => { d with arrived := d.arrived ++ [a] }

/-- An arrival that waits is tried again, once its window has begun: behind the earlier ones of its device, or out of that order
(`late`) once its time has come. -/
def State.landAgain (s : State) (die : Fin 2) (n : Nat) (late : Bool) : State :=
  match (s.die die).arrived.find? (·.n == n) with
  | none => s
  | some a =>
    let out (t : State) : State := t.modDie die fun d => { d with arrived := d.arrived.filter (·.n != n) }
    if s.window.toNat < a.win || (!late && ((s.die die).arrived.takeWhile fun x => x.n != n).any (·.src == a.src)) then s
    else
      match s.performArrival die a with
      | .wait t => s.onlyWaits t
      | .ok st t => (out t).landed die a st
      | .bad st _ t => (out t).landed die a st

/-- Arrivals of a die that WINDOW must not reach a number without: the writes sent two windows before it or earlier, but for
those that wait for the pager (R428). -/
def State.mustLand (s : State) (die : Fin 2) (window : Nat) : List Nat :=
  ((s.die die).arrived.filter fun a => decide (a.win + 2 ≤ window) && !(s.die die).awaitsPager (.wickline die a.n)).map Arrived.n

/-- What must land before WINDOW reaches a number lands; one held behind another write of its device is performed by then
(notes/assumptions/122). The Bool tells that nothing is left. -/
def State.landBefore (s : State) (window : Nat) : State × Bool :=
  let s := (s.mustLand 0 window).foldl (fun s n => s.landAgain 0 n true) s
  let s := (s.mustLand 1 window).foldl (fun s n => s.landAgain 1 n true) s
  (s, (s.mustLand 0 window).isEmpty && (s.mustLand 1 window).isEmpty)

/-- A window boundary comes once every write sent two windows before it has been performed, unless that waits for the pager
(R426, R428). Before the first lock WINDOW stays 0. -/
def execWindowBoundary (s : State) : Host.Outcome State Fault Refusal :=
  .next (
    if !s.locked then s
    else
      let x := s.landBefore (s.window.toNat + 1)
      if x.2 then { x.1 with window := x.1.window + 1 } else x.1)

/-- PTP lock at a time in nanoseconds: WINDOW takes the window number at the first lock, never decreases, and admission
goes on (R426, R427); what R428 has before that window is performed first. -/
def execPtpLock (t : Nat) (s : State) : Host.Outcome State Fault Refusal :=
  .next (
    let n := max s.window.toNat (t / s.windowLength)
    let x := s.landBefore n
    if x.2 then { x.1 with locked := true, lost := false, window := BitVec.ofNat 64 n } else x.1)

/-! ### Collectives: what members send (R437 to R440) -/

/-- The collective of a pair, or a new one. -/
def State.modColl (s : State) (gid : BitVec 16) (id : BitVec 32) (f : Coll → Coll) : State :=
  let is (x : Coll) := x.gid == gid && x.collid == id
  if s.colls.any is then { s with colls := s.colls.map fun x => if is x then f x else x }
  else { s with colls := s.colls ++ [f ⟨gid, id, none, 0, [], [], [], [], [], none⟩] }

def State.coll? (s : State) (gid : BitVec 16) (id : BitVec 32) : Option Coll :=
  s.colls.find? fun x => x.gid == gid && x.collid == id

/-- A piece of a member's announcement: its first piece begins the member's part, and what it sent before belongs to an earlier
collective of the pair. -/
def Coll.announced (x : Coll) (p : Plan) (at' : Nat) : Coll :=
  if at' = 0 then
    { x with
      plans := (x.plans.filter (·.part.dev != p.part.dev)) ++ [p]
      scales := x.scales.filter (·.1 != p.rank), mants := x.mants.filter (·.1 != p.rank)
      shares := x.shares.filter (·.1 != p.rank) }
  else { x with plans := x.plans.map fun q => if q.part = p.part then { q with devs := q.devs ++ p.devs } else q }

/-- A mismatch or an abort of a member's part ends the collective with a status: now where its record has started, else when it
starts (R437, R442). One of a part that is over has no effect. -/
def State.judge (s : State) (gid : BitVec 16) (id : BitVec 32) (part : CollPart) (st : Byte) : State :=
  if s.overs.contains part then s
  else
    let s := s.modColl gid id fun x => { x with verdict := x.verdict.or (some st) }
    match (s.coll? gid id).bind Coll.chain with
    | some c => { s.endColl c st with overs := part :: (s.endColl c st).overs }
    | none => { s with overs := part :: s.overs }

/-- A member's message (R437 to R440). -/
def State.hear (s : State) : FlitBody → State
  | .announce gid id part rank kind count fp32 n at' devs =>
    if s.overs.contains part then s else s.modColl gid id fun x => x.announced ⟨part, n, rank, kind, count, fp32, devs⟩ at'
  | .scale gid id rank blk w => s.modColl gid id fun x => { x with scales := x.scales ++ [(rank, blk, w)] }
  | .mant gid id rank blk ms => s.modColl gid id fun x => { x with mants := x.mants ++ [(rank, blk, ms)] }
  | .share gid id rank off bs => s.modColl gid id fun x => { x with shares := x.shares ++ [(rank, off, bs)] }
  | _ => s

/-- An abort of a member, in a flit sent in a window, ends the collective with status 22; what has been written stands (R442,
R443). -/
def execCollectiveAbort (name : CollName) (abort : PartAbort) (s : State) : Host.Outcome State Fault Refusal :=
  .next (if s.reached abort.win.toNat then s.judge name.gid name.collid abort.part 22 else s)

/-- A flit for another device goes on towards it; where no link leads there its sender is told (R424, R434). -/
def State.passOn (s : State) (die : Fin 2) (src dst : BitVec 12) (win : Nat) (f : FlitBody) : State :=
  match s.portTo die dst with
  | some p => s.send die win ⟨none, f.cls, src, dst, p, f⟩
  | none => if f.cls = 0 ∨ f.cls = 1 then s.acknowledge die src 21 else s

/-- A flit for another device is passed on. One for this device arrives only while WINDOW reads at least one less than when it was
sent (R443). A write is performed before WINDOW reads two more and not before its own window, so that it stands behind what was sent
two windows before it (R428; notes/assumptions/150); it stands behind earlier arrivals of its device that wait (R433). -/
def execWicklineFlitArrival (die : Fin 2) (ends : FlitEnds) (win : BitVec 64) (f : FlitBody) (s : State) :
    Host.Outcome State Fault Refusal :=
  .next (
    let src := ends.src
    let n := (s.die die).arrivals
    let counted := s.modDie die fun d => { d with arrivals := n + 1 }
    if ends.dst ≠ s.boot.devnum then s.passOn die src ends.dst win.toNat f
    else if !s.reached win.toNat then s
    else
      match f with
      | .write .. | .signal .. | .fwd .. =>
        if win.toNat + 2 ≤ s.window.toNat then s
        else if (s.die die).arrived.any (·.src == src) ∨ s.window.toNat < win.toNat then
          counted.modDie die fun d => { d with arrived := d.arrived ++ [⟨n, src, win.toNat, f⟩] }
        else counted.land die ⟨n, src, win.toNat, f⟩
      | .announce .. | .scale .. | .mant .. | .share .. => (s.hear f).acknowledge die src 0
      | .mismatch gid id part => s.judge gid id part 20
      | .abort gid id part => s.judge gid id part 22
      | .ack _ | .marker _ | .route _ => s)

/-! ### Collectives on this device (R436 to R440) -/

/-- A device-group descriptor: GID, this device's rank, the devices; none when it is malformed (R436). -/
def readGroup (own : BitVec 12) (h : Nat) (entries : List Nat) : Option (BitVec 16 × Nat × List (BitVec 12)) :=
  let rank := bitsOf h 28 12
  let devs := entries.map fun e => BitVec.ofNat 12 (e % 4096)
  let ok := bitsOf h 64 64 == 0 && bitsOf h 40 8 == 0 && bitsOf h 0 16 == 0 && decide (rank < entries.length)
    && (entries.all fun e => decide (e < 4096)) && devs[rank]? == some own && devs.eraseDups.length == devs.length
  if ok then some (BitVec.ofNat 16 (bitsOf h 48 16), rank, devs) else none

/-- The descriptor at an address, with what it gives. -/
def readDeviceGroup (c : ChainRef) (s : State) (dg : Nat) : Chk (Option (BitVec 16 × Nat × List (BitVec 12))) :=
  (readNum c s dg 16).bind fun h s =>
    let n := bitsOf h 16 12 + 1
    (readPages c s (dg + 16) (2 * n) (n / 2048 + 2)).bind fun bs s =>
      .ok (readGroup s.boot.devnum h ((List.range n).map fun i => leNat ((bs.drop (2 * i)).take 2))) s

/-- Elements of a contribution as FP32 or BF16 values. -/
def elemVal (fp32' : Bool) (b : Nat) : FVal := if fp32' then f32Val b else bf16.decode b

def FVal.isInf (neg : Bool) (v : FVal) : Bool := v == .inf neg

/-- Floor(Log2 x) of a positive rational. -/
def ratLog2 (q : Rat) : Int := (Nat.log2 q.num.natAbs : Int) - Nat.log2 q.den |> fun k =>
  if ratPow2 k ≤ q then (if ratPow2 (k + 1) ≤ q then k + 1 else k) else k - 1

/-- The scale word of a block's 32 elements (R439). -/
def scaleWord (vs : List FVal) : BitVec 20 :=
  let amax := (vs.map fun v => if v.rat < 0 then -v.rat else v.rat).foldl max 0
  let ec := if amax = 0 then 0 else (ratLog2 amax + 150).toNat
  BitVec.ofNat 20 ((if vs.any (· == .nan) then 2 ^ 19 else 0) + (if vs.any (·.isInf false) then 2 ^ 18 else 0)
    + (if vs.any (·.isInf true) then 2 ^ 17 else 0) + ec * 2 ^ 8)

/-- The shared word: the greatest EC, and the OR of the flags. -/
def shareScale (ws : List (BitVec 20)) : BitVec 20 :=
  let ec := (ws.map fun w => (w.extractLsb' 8 9).toNat).foldl max 0
  let flags := (ws.map fun w => w.extractLsb' 17 3).foldl (· ||| ·) 0
  flags ++ BitVec.ofNat 9 ec ++ 0#8

/-- Nearest integer, ties to even. -/
def roundHalfEven (q : Rat) : Int :=
  let f := q.floor
  let r := q - f
  if r < 1 / 2 then f else if 1 / 2 < r then f + 1 else if f % 2 = 0 then f else f + 1

/-- e of a shared word. -/
def scaleExp (w : BitVec 20) : Int := ((w.extractLsb' 8 9).toNat : Int) - 150

/-- The mantissa of an element (R440). -/
def mantissa (w : BitVec 20) (v : FVal) : Int :=
  match v with
  | .fin .. => roundHalfEven (v.rat * ratPow2 (29 - scaleExp w))
  | _ => 0

/-- The result of an element (R440). -/
def reduced (w : BitVec 20) (sum : Int) : Nat :=
  let nan := w.getLsbD 19
  let pinf := w.getLsbD 18
  let ninf := w.getLsbD 17
  if nan || (pinf && ninf) then 0x7FC00000
  else if pinf then 0x7F800000
  else if ninf then 0xFF800000
  else if w.extractLsb' 8 9 = 0 ∨ sum = 0 then 0
  else ratF32 ((sum : Rat) * ratPow2 (scaleExp w - 29))

/-- Ranges overlap. -/
def overlap (a n b m : Nat) : Bool := decide (a < b + m ∧ b < a + n)

/-- What a collective record asks for: its fields, the same for both commands. -/
structure CollArgs where
  dg     : Nat
  src    : Nat
  dst    : Nat
  count  : Nat
  collid : BitVec 32
  fp32   : Bool
  tmo    : Nat
  ok     : Bool

def ChainRec.collArgs (r : ChainRec) : CollArgs :=
  let red := r.kind == 0x10
  let n := r.field 320 32
  let wide := red && r.field 384 1 == 1
  let src := r.field 192 64
  let dst := r.field 256 64
  let dg := r.field 128 64
  let es := if wide then 4 else 2
  let clash := if red then !(src == dst && wide) && overlap src (es * n) dst (4 * n) else false
  { dg, src, dst, count := n, collid := BitVec.ofNat 32 (r.field 352 32), fp32 := wide
    tmo := if red then r.field 385 32 else r.field 384 32
    ok := (if red then r.field 417 95 == 0 && src % es == 0 && dst % 4 == 0 else r.field 416 96 == 0)
      && dg % 64 == 0 && n % 32 == 0 && n != 0 && !clash }

/-- A list in pieces of `n`. -/
def pieces {α : Type} (n : Nat) : Nat → List α → List (List α)
  | 0, _ => []
  | k + 1, bs => if bs.isEmpty then [] else bs.take n :: pieces n k (bs.drop n)

/-- Elements of a contribution, one number each. -/
def contribution (a : CollArgs) (bs : List Byte) : List Nat :=
  (pieces (if a.fp32 then 4 else 2) a.count bs).map leNat

/-- The FP values of block b. -/
def blockVals (a : CollArgs) (acc : List Nat) (b : Nat) : List FVal :=
  ((acc.drop (32 * b)).take 32).map (elemVal a.fp32)

/-- The other members. -/
def Coll.others (x : Coll) : List (BitVec 12) :=
  (((List.range x.devs.length).zip x.devs).filter fun d => d.1 != x.rank).map (·.2)

/-- Some other member cannot be reached: no route, or a link that is down (R434). -/
def State.cutOff (s : State) (c : ChainRef) (x : Coll) : Bool := x.others.any fun d => (s.portTo c.die d).isNone

/-- Messages of this member to every other one that can be reached. -/
def State.tellAll (s : State) (c : ChainRef) (x : Coll) (bs : List FlitBody) : State :=
  x.others.foldl (fun s d =>
    match s.portTo c.die d with
    | some p => s.form c.die (bs.map (s.flit (some c) d p))
    | none => s) s

/-- The part of this device that a record makes. -/
def State.ownPart (s : State) (r : ChainRec) : CollPart := ⟨s.boot.devnum, r.c, r.idx⟩

/-- The plan that this device's record announces. -/
def State.ownPlan (s : State) (r : ChainRec) (rank : Nat) (devs : List (BitVec 12)) : Plan :=
  ⟨s.ownPart r, devs.length, rank, BitVec.ofNat 8 r.kind, BitVec.ofNat 32 r.collArgs.count, r.collArgs.fp32, devs⟩

/-- An announcement in flits of at most 100 devices (R424; notes/assumptions/151). -/
def Plan.flits (p : Plan) (gid : BitVec 16) (id : BitVec 32) : List FlitBody :=
  (pieces 100 p.devs.length p.devs).mapIdx fun i ds => .announce gid id p.part p.rank p.kind p.count p.fp32 p.n (100 * i) ds

/-- What the contributor sends once its contribution has been read: its plan, and its scale words or shares (R437 to R439). -/
def State.collSend (s : State) (c : ChainRef) (r : ChainRec) (x : Coll) (bs : List Byte) : State :=
  let a := r.collArgs
  let p := s.ownPlan r x.rank x.devs
  let acc := if r.kind = 0x10 then contribution a bs else []
  let scales := if r.kind = 0x10 then (List.range (a.count / 32)).map fun b => (x.rank, b, scaleWord (blockVals a acc b)) else []
  let shares := if r.kind = 0x10 then [] else (pieces 32 (a.count / 32 + 1) bs).mapIdx fun i u => (x.rank, 32 * i, u)
  let s := s.modColl x.gid x.collid fun y =>
    { y with plans := y.plans ++ [p], scales := y.scales ++ scales, shares := y.shares ++ shares }
  let out : List FlitBody := p.flits x.gid x.collid ++ (scales.map fun w => .scale x.gid x.collid x.rank w.2.1 w.2.2)
    ++ shares.map fun u => .share x.gid x.collid x.rank u.2.1 u.2.2
  (s.tellAll c x out).modRec c fun y => { y with begun := true, stage := 1, acc, next := 0 }

/-- A collective record starts: it becomes the device's one contributor, and its contribution is read (R436, R437). What a member has
found or abandoned before ends it. -/
def State.collStart (s : State) (c : ChainRef) (r : ChainRec) : State :=
  let a := r.collArgs
  let bytes := if r.kind = 0x10 then (if a.fp32 then 4 else 2) * a.count else a.count
  if !a.ok then s.endRec c 8
  else
    match readDeviceGroup c s a.dg with
    | .wait t => s.onlyWaits t
    | .bad st _ t => t.endColl c st
    | .ok none t => t.endColl c 8
    | .ok (some (gid, rank, devs)) t =>
      if ((t.coll? gid a.collid).bind Coll.chain).any (· != c) then t.endRec c 20
      else
        let t := t.modColl gid a.collid fun x => { x with chain := some c, rank, devs }
        match t.coll? gid a.collid with
        | none => t
        | some x =>
          match x.verdict with
          | some st => t.endColl c st
          | none =>
            if t.cutOff c x then t.endColl c 21
            else
              match readPages c t a.src bytes (bytes / 4096 + 2) with
              | .wait u => t.onlyWaits u
              | .bad st _ u => u.endColl c st
              | .ok bs u => u.collSend c r x bs

/-- What must be equal in the members' records (R437). -/
def Plan.same (p q : Plan) : Bool := p.kind == q.kind && p.count == q.count && p.fp32 == q.fp32 && p.devs == q.devs

/-- Whether the plans that have come whole agree with rank 0's: false at the first that does not, true once every member's has come
(R437). -/
def Coll.agreed (x : Coll) : Option Bool :=
  let whole := x.plans.filter fun p => p.devs.length == p.n
  match x.devs.head?.bind fun d => whole.find? (·.part.dev == d) with
  | none => none
  | some p =>
    if !whole.all p.same then some false
    else if x.devs.all fun d => whole.any (·.part.dev == d) then some true else none

/-- The member has found a mismatch: it tells every other, its announcement stands, and its record ends with status 20 (R437). -/
def State.endMismatch (s : State) (c : ChainRef) (r : ChainRec) (x : Coll) : State :=
  let s := s.tellAll c x [.mismatch x.gid x.collid (s.ownPart r)]
  (s.modDie c.die fun d => { d with flits := d.flits.map fun (f : Flit) =>
    match f.body with
    | .announce .. | .mismatch .. => if f.chain = some c then { f with chain := none } else f
    | _ => f }).endColl c 20

/-- What the members have sent for a block. -/
def Coll.scalesOf (x : Coll) (b : Nat) : List (Nat × BitVec 20) :=
  (x.scales.filter (·.2.1 == b)).map fun w => (w.1, w.2.2)
def Coll.mantsOf (x : Coll) (b : Nat) : List (Nat × List Int) := (x.mants.filter (·.2.1 == b)).map fun w => (w.1, w.2.2)

/-- Every rank below `n` stands in a list. -/
def allRanks {α : Type} (n : Nat) (l : List (Nat × α)) : Bool := (List.range n).all fun r => l.any (·.1 == r)

/-- The shared scale word of a block. -/
def Coll.sharedScale (x : Coll) (b : Nat) : BitVec 20 := shareScale ((x.scalesOf b).map (·.2))

/-- Phase 1 is over: the mantissas of every block go out (R440). -/
def State.sendMants (s : State) (c : ChainRef) (r : ChainRec) (x : Coll) : State :=
  let a := r.collArgs
  let ms := (List.range (a.count / 32)).map fun b =>
    (x.rank, b, (blockVals a r.acc b).map (mantissa (x.sharedScale b)))
  let s := s.modColl x.gid x.collid fun y => { y with mants := y.mants ++ ms }
  if s.cutOff c x then s.endColl c 21
  else (s.tellAll c x (ms.map fun m => .mant x.gid x.collid x.rank m.2.1 m.2.2)).modRec c fun y => { y with stage := 2 }

/-- The 128 bytes of a block of DST (R440). -/
def Coll.block (x : Coll) (b : Nat) : List Byte :=
  let ms := (List.range x.devs.length).map fun r => (((x.mantsOf b).find? (·.1 == r)).map (·.2)).getD []
  (List.range 32).flatMap fun k =>
    leBytes 4 (reduced (x.sharedScale b) ((ms.map fun m => (m[k]?).getD 0).foldl (· + ·) 0))

/-- Write a unit whole: each piece of it may stand on another page, and none is written before all can be (R438, R440, R441). -/
def writeUnit (c : ChainRef) (s : State) (va : Nat) (bs : List Byte) : Chk Unit :=
  (mapChk (fun s x => (writeVia (viaEngine c) c.die c.ctx s x.1 x.2.length false).bind fun pa s => .ok (pa, x.2) s) s
    (cutLines va bs (bs.length / 128 + 2))).bind fun ps s =>
      .ok () (ps.foldl (fun s p => s.writeL2 c.ctx p.1 p.2) s)

/-- All is written here; the other devices' acknowledgements are awaited (R431). -/
def State.collDone (s : State) (c : ChainRef) (x : Coll) : State :=
  if x.devs.length ≤ 1 then s.endColl c 0
  else s.modRec c fun y => { y with stage := 9 }

/-- The next block of an ALLREDUCE is written. -/
def State.reduceBlock (s : State) (c : ChainRef) (r : ChainRec) (x : Coll) : State :=
  let a := r.collArgs
  let b := r.next
  if r.stage = 9 then s
  else if !allRanks x.devs.length (x.mantsOf b) then s
  else
    match writeUnit c s (a.dst + 128 * b) (x.block b) with
    | .wait t => s.onlyWaits t
    | .bad st _ t => t.endColl c st
    | .ok _ t =>
      if a.count / 32 ≤ b + 1 then t.collDone c x else t.modRec c fun y => { y with next := b + 1 }

/-- The steps of an ALLREDUCE: start, scales, then block by block (R437, R439, R440). -/
def execAllreduce (c : ChainRef) (s : State) : Host.Outcome State Fault Refusal :=
  .next (
    match s.rec? c with
    | none => s
    | some r =>
      if !r.due 3 0x10 then s
      else if !r.begun then s.collStart c r
      else
        match s.collOf c with
        | none => s
        | some x =>
          match x.agreed with
          | none => s
          | some false => s.endMismatch c r x
          | some true =>
            if r.stage = 1 then
              if (List.range (r.collArgs.count / 32)).all fun b => allRanks x.devs.length (x.scalesOf b) then
                s.sendMants c r x
              else s
            else s.reduceBlock c r x)

/-- Unit `u` of an ALLGATHER's DST, once it has come. -/
def Coll.unit (x : Coll) (len u : Nat) : Option (List Byte) :=
  (x.shares.find? fun y => y.1 == u / (len / 32) && y.2.1 == 32 * (u % (len / 32))).map fun y => y.2.2

/-- The units from `u` on that begin in one 128-byte line of DST: a cancellation falls between those of two lines (R441). -/
def gatherRun (dst total u : Nat) : List Nat :=
  (List.range' u (min 4 (total - u))).filter fun v => (dst + 32 * v) / 128 == (dst + 32 * u) / 128

/-- The steps of an ALLGATHER: start, then line by line the units of DST, once those of a line have come (R438, R441). -/
def execAllgather (c : ChainRef) (s : State) : Host.Outcome State Fault Refusal :=
  .next (
    match s.rec? c with
    | none => s
    | some r =>
      if !r.due 3 0x11 then s
      else if !r.begun then s.collStart c r
      else
        match s.collOf c with
        | none => s
        | some x =>
          match x.agreed with
          | none => s
          | some false => s.endMismatch c r x
          | some true =>
            let a := r.collArgs
            let total := a.count / 32 * x.devs.length
            let run := gatherRun a.dst total r.next
            if r.stage = 9 ∨ !(run.all fun u => (x.unit a.count u).isSome) then s
            else
              match eachChk (fun s u => writeUnit c s (a.dst + 32 * u) ((x.unit a.count u).getD [])) s run with
              | .wait t => s.onlyWaits t
              | .bad st _ t => t.endColl c st
              | .ok _ t =>
                let n := r.next + run.length
                if total ≤ n then t.collDone c x else t.modRec c fun y => { y with next := n })

/-- 1,024 x TMO cycles have passed (R434). -/
def ChainRec.expired (r : ChainRec) : Bool :=
  r.eng == 3 && (r.kind == 0x10 || r.kind == 0x11) && r.begun && r.status.isNone && r.collArgs.tmo != 0
    && decide (1024 * r.collArgs.tmo ≤ r.since)

def execCollectiveTimeout (c : ChainRef) (s : State) : Host.Outcome State Fault Refusal :=
  .next (
    match s.rec? c with
    | some r => if r.expired then s.endColl c 18 else s
    | none => s)

end Sys2Proof.Machine
end

