-- ==== Sys2Proof/Machine/HostCmd.lean ====
section
/-! DEFINITION. The host: its reads and writes and its peers' (R213, R413 to R415), the register window (R416), and the host
commands KILL, TLBINV, CTXINV, CHRESET and CHSTATE (R402, R403, R417, R418, R441, R442). -/

namespace Sys2Proof.Machine

/-! ### Memory accesses of the host and of peers (R188, R193, R414, R415) -/

/-- A write from outside at the home slice; a host-memory line is first taken back from its slice. Such a write has no
context; the line counts as context 0's (notes/assumptions/28). -/
def State.outsideWrite (s : State) (pa : Nat) (bs : List Byte) : State :=
  if bs.isEmpty ∨ s.row pa = .nothing ∨ s.row (pa + bs.length - 1) = .nothing then s
  else
    let t := s.writeL2 0 pa bs
    if s.row pa = .host then
      (List.range (bs.length / 128 + 2)).foldl (fun t i => t.cleanLine (pa / 128 + i)) t
    else t

def execHostWrite (pa : Nat) (bytes : List Byte) (s : State) : Host.Outcome State Fault Refusal :=
  .next (s.outsideWrite pa bytes)

/-- A host read takes the value held at the home slice, or in GDDR7 when no slice holds the line. One of a release at .sys waits for
what it publishes (R213). -/
def execHostRead (pa n : Nat) (s : State) : Host.Outcome State Fault Refusal :=
  .next (if n = 0 ∨ s.row pa = .nothing ∨ s.aheadHost pa n then s
    else { s with answer := some ⟨s.mem.bytes pa n, s.poisoned pa n⟩ })

/-- A snoop of a host-memory line: the caching slice gives its copy back. -/
def execHostSnoop (line : Nat) (s : State) : Host.Outcome State Fault Refusal :=
  .next (if s.row (line * 128) = .host ∧ s.dirty.any (·.1 == line) ∧ !s.aheadHost (line * 128) 128 then
      { s.cleanLine line with answer := some ⟨s.mem.bytes (line * 128) 128, s.poisoned (line * 128) 128⟩ }
    else s)

/-- A byte of device memory as GDDR7 holds it, behind L2. -/
def State.gddrByte (s : State) (a : Nat) : Byte :=
  if s.dirty.any (·.1 == lineOf a) then s.gddr.read a else s.mem.read a

/-- A peer's read goes to GDDR7 and bypasses L2. -/
def execPeerWindowRead (pa n : Nat) (s : State) : Host.Outcome State Fault Refusal :=
  .next (if n = 0 ∨ !s.inDevice pa then s
    else { s with answer := some ⟨(List.range n).map fun i => s.gddrByte (pa + i), s.poisoned pa n⟩ })

def execPeerWindowWrite (pa : Nat) (bytes : List Byte) (s : State) : Host.Outcome State Fault Refusal :=
  .next (if s.inDevice pa then s.outsideWrite pa bytes else s)

/-! ### The register window (R416, R417) -/

/-- A value that an address register takes: its alignment, and bits [63:52] zero. -/
def regAddr (v : BitVec 64) (align : Nat) : Bool := v.toNat % align == 0 && decide (v.toNat < 2 ^ 52)

/-- Register values as the host reads them; what the table does not list, and what is write-only, reads zero. -/
def State.regRead (s : State) (d : Fin 2) (off : BitVec 12) : BitVec 64 :=
  let x := s.die d
  match off.toNat with
  | 0x000 => BitVec.ofNat 64 (d.val + 128 * 256 + s.boot.ipart.toNat * 65536)
  | 0x008 => x.ctxta
  | 0x010 => x.pgra
  | 0x018 => x.pgrs
  | 0x020 => x.pgrd
  | 0x028 => x.pgwr
  | 0x040 => x.nstat
  | 0x048 => x.nmask
  | _ => 0

/-- A write to HCMD: the record is read once, and queued in arrival order. -/
def State.queueCmd (s : State) (d : Fin 2) (v : BitVec 64) : State :=
  if !regAddr v 64 then s
  else
    let a := v.toNat
    let raw := if s.row a = .nothing ∨ s.poisoned a 64 then none else some (s.mem.nat a 64)
    s.modDie d fun x => { x with hcmds := x.hcmds ++ [⟨a, raw, x.clock, false⟩] }

/-- PGRA, or the value it keeps; a failed fault-record write is tried again (R388). -/
def State.setPgra (s : State) (d : Fin 2) (v : BitVec 64) : State :=
  if regAddr v 4096 then (s.modDie d fun x => { x with pgra := v, pgfail := false }.interrupt) else s

/-- PGLOG is 0 or 6 to 16. -/
def pgrsOk (v : BitVec 64) : Bool := v == 0 || (decide (6 ≤ v.toNat) && decide (v.toNat ≤ 16))

def State.setPgrs (s : State) (d : Fin 2) (v : BitVec 64) : State :=
  if pgrsOk v then (s.modDie d fun x => { x with pgrs := v, pgfail := false }.interrupt) else s

def State.clearNstat (s : State) (d : Fin 2) (v : BitVec 64) : State :=
  s.modDie d fun x => { x with nstat := x.nstat &&& ~~~v }.interrupt

def State.setNmask (s : State) (d : Fin 2) (v : BitVec 64) : State :=
  s.modDie d fun x => { x with nmask := v &&& 0xFFFFFFFF }.interrupt

/-- A write to a register without a row of its own; one that gives a value out of range, or names a read-only register,
is ignored. -/
def execRegisterWrite (die : Fin 2) (off : BitVec 12) (val : BitVec 64) (s : State) : Host.Outcome State Fault Refusal :=
  .next (
    match off.toNat with
    | 0x008 => if regAddr val 4096 then s.modDie die fun x => { x with ctxta := val } else s
    | 0x010 => s.setPgra die val
    | 0x018 => s.setPgrs die val
    | 0x020 => s.modDie die fun x => { x with pgrd := val }
    | 0x030 => if val.getLsbD 11 then s.pagerDecline die val else s.pagerRetry die val
    | 0x038 => s.queueCmd die val
    | 0x040 => s.clearNstat die val
    | 0x048 => s.setNmask die val
    | _ => s)

def execPgraWrite (die : Fin 2) (val : BitVec 64) (s : State) : Host.Outcome State Fault Refusal := .next (s.setPgra die val)
def execPgrsWrite (die : Fin 2) (val : BitVec 64) (s : State) : Host.Outcome State Fault Refusal := .next (s.setPgrs die val)
def execNstatClear (die : Fin 2) (val : BitVec 64) (s : State) : Host.Outcome State Fault Refusal :=
  .next (s.clearNstat die val)
def execNmaskWrite (die : Fin 2) (val : BitVec 64) (s : State) : Host.Outcome State Fault Refusal :=
  .next (s.setNmask die val)

/-! ### Host commands (R417, R418) -/

namespace HostCmd
def bits (x : HostCmd) (lo n : Nat) : Nat := bitsOf (x.raw.getD 0) lo n
def op (x : HostCmd) : Nat := x.bits 0 8
def ctx (x : HostCmd) : BitVec 12 := BitVec.ofNat 12 (x.bits 20 12)
def lid (x : HostCmd) : Word := BitVec.ofNat 32 (x.bits 32 32)
def addr' (x : HostCmd) : Nat := x.bits 64 64
def arg1 (x : HostCmd) : Nat := x.bits 128 64
def arg2 (x : HostCmd) : Nat := x.bits 192 64
/-- Reserved bits are zero, OP is known, and every argument is in its range. -/
def valid (x : HostCmd) : Bool :=
  x.bits 256 256 == 0 && x.bits 16 4 == 0 &&
    match x.op with
    | 1 => decide (x.arg1 ≤ 1)
    | 2 => x.addr' % 4096 == 0 && decide (1024 ≤ x.arg1 ∧ x.arg1 < 2 ^ 32)
    | 3 => x.addr' % 4096 == 0
    | 4 => x.addr' % 4096 == 0 && decide (1 ≤ x.arg1)
    | 5 => true
    | 6 => decide (x.arg1 < 4096)
    | 7 => decide (x.arg1 < 4096 ∧ x.arg2 ≤ 1)
    | _ => false
end HostCmd

/-- A command completes: STATUS is written and NSTAT bit 3 set, or bits 3 and 4 where it cannot be written, its line having been
poisoned meanwhile (notes/assumptions/148). -/
def State.endCmdRec (s : State) (d : Fin 2) (a : Nat) (st : Byte) : State :=
  let gone (l : List HostCmd) := match l.findIdx? fun x => x.addr == a with
    | some i => l.eraseIdx i
    | none => l
  let s := s.modDie d fun x => { x with hcmds := gone x.hcmds }
  if s.row a = .nothing ∨ s.poisoned a 64 then ((s.notify d 3).notify d 4).countError .record 0 1
  else (s.outsideWrite (a + 1) [st]).notify d 3

/-- The command at an address, when it is its die's turn: the first that has not completed, or any KILL (R418). -/
def State.hostCmd? (s : State) (d : Fin 2) (rec' : BitVec 64) (op : Nat) : Option HostCmd :=
  let is (x : HostCmd) := x.addr == rec'.toNat && x.raw.isSome && x.op == op
  let l := (s.die d).hcmds
  if op = 1 then l.find? is
  else
    match l.head? with
    | some x => if is x then some x else none
    | none => none

/-- Perform a command that passes its checks. -/
def State.command (s : State) (d : Fin 2) (rec' : BitVec 64) (op : Nat) (f : HostCmd → State) : State :=
  match s.hostCmd? d rec' op with
  | none => s
  | some x => if x.valid then f x else s.endCmdRec d x.addr 2

/-- A record that cannot be read sets NSTAT bits 3 and 4; an unknown OP is refused. -/
def execHcmdRefused (die : Fin 2) (rec' : BitVec 64) (s : State) : Host.Outcome State Fault Refusal :=
  .next (
    match (s.die die).hcmds.head? with
    | none => s
    | some x =>
      if x.addr ≠ rec'.toNat then s
      else if x.raw.isNone then
        (((s.modDie die fun y => { y with hcmds := y.hcmds.drop 1 }).notify die 3).notify die 4).countError .record 0 1
      else if x.op = 0 ∨ 7 < x.op then s.endCmdRec die x.addr 2
      else s)

/-! ### Kills (R402, R403, R441, R442) -/

/-- A launch that its context still holds. -/
def Launch.held (l : Launch) : Bool :=
  match l.phase with
  | .running | .saved => true
  | _ => false

/-- A host command is a PREEMPT or a RESTORE of a launch (R418). -/
def State.switches (s : State) (l : Launch) (x : HostCmd) : Bool :=
  x.raw.isSome && x.valid &&
    ((x.op == 2 && x.ctx == l.ctx && x.lid == l.record.lid)
      || (x.op == 3 && s.mem.nat (x.addr' + 42) 2 / 16 == l.ctx.toNat && s.mem.nat (x.addr' + 44) 4 == l.record.lid.toNat))

/-- A PREEMPT or RESTORE of the launch that has arrived by a cycle completes with status 1 at a kill (R418). -/
def State.endSwitches (s : State) (l : Launch) (clk : Nat) (d : Fin 2) : State :=
  ((s.die d).hcmds.filter fun x => decide (x.clk ≤ clk) && s.switches l x).foldl (fun s x => s.endCmdRec d x.addr 1) s

/-- A kill that arrived in a cycle ends a launch under R174; a PREEMPT or RESTORE of it that arrived before completes with status
1 (R418). -/
def State.kill (s : State) (clk key : Nat) : State :=
  match s.launch? key with
  | none => s
  | some l =>
    let s := s.abortLaunch key { kind := 4, code := 0, sub := 0, info := 0, rbase := 0, off := 0, group := 0, team := 0,
                                 core := 0, die := 0, clk := s.clock l.chain.die }
    (s.endSwitches l clk 0).endSwitches l clk 1

def State.heldLaunch (s : State) (ctx : BitVec 12) (lid : Word) : Option Launch :=
  s.launches.find? fun l => l.ctx == ctx && l.record.lid == lid && l.held

def execKillLaunch (die : Fin 2) (rec' : BitVec 64) (s : State) : Host.Outcome State Fault Refusal :=
  .next (s.command die rec' 1 fun x =>
    if x.arg1 ≠ 0 then s
    else
      match s.heldLaunch x.ctx x.lid with
      | none => s.endCmdRec die x.addr 3
      | some l => (s.kill x.clk l.key).endCmdRec die x.addr 1)

/-- An abandoned record of a device engine. One of the command processor completes with status 17; a LAUNCH has it from its report
(R212, R403, R421). A collective aborts at its members, flits not yet sent are withdrawn but for those of a FWD or a SIGNAL, which
have no cancellation point, and the chain halts; a node is wholly skimmed, and a BUILD that holds its slot first makes its rollback (R328, R330, R403, R441,
R442). -/
def State.abandon (s : State) (r : ChainRec) : State :=
  let c := r.c
  let s := s.dropChainRequests c
  if r.eng = 0 then if r.launch.isNone && r.status.isNone then s.endRec c 17 else s
  else if r.eng = 1 ∧ r.kind = 1 ∧ 1 ≤ r.stage ∧ r.status.isNone then
    s.modRec c fun x => { x with
      dead := true, stage := if x.stage = 1 then 3 else if x.stage = 4 ∨ x.stage = 5 then 2 else x.stage
      acc := if x.stage = 1 ∨ x.stage = 4 ∨ x.stage = 5 then 0 :: x.acc else x.acc }
  else
    let s := s.endRewrite r
    let s := if r.eng = 3 ∧ (r.kind = 2 ∨ r.kind = 3) then s else s.recall c
    let s := match s.collOf c with
      | some x => (s.tellAll c x [.abort x.gid x.collid (s.ownPart r)]).forgetColl fun y => y.chain == some c
      | none => s
    let s := s.modDie c.die fun d =>
      { d with flits := d.flits.map fun (f : Flit) => if f.chain = some c then { f with chain := none } else f }
    ({ s with recs := s.recs.filter (·.c != c) }).halt c 4

/-- Accesses of a context leave the walkers and fault tables; every slot of it is freed (R402). -/
def Die.dropCtx (d : Die) (ctx : BitVec 12) : Die :=
  { d with
    walks := d.walks.filter (·.ctx != ctx)
    waiting := d.waiting.filter (·.1.ctx != ctx)
    slots := d.slots.filter (·.ctx != ctx) : Die }.admitWaiting

/-- What a context kill does at once: its launches, its fault-table slots, and the records in progress on its chains (R402,
R403). -/
def State.killCtx (s : State) (ctx : BitVec 12) (clk : Nat) : State :=
  let keys := (s.launches.filter fun l => l.ctx == ctx && l.held).map Launch.key
  let s := keys.foldl (State.kill · clk) s
  let s := (s.recs.filter fun r => r.c.ctx == ctx && !r.dead).foldl State.abandon s
  { s with dies := mapVec (fun (d : Die) => d.dropCtx ctx) s.dies }

/-- A rollback or a halt of the context's chains is still to be made. -/
def State.winding (s : State) (ctx : BitVec 12) : Bool :=
  (s.recs.any fun r => r.c.ctx == ctx && r.dead) || s.halts.any fun h => h.1.ctx == ctx

/-- A context kill is performed once; it completes when both dies have finished with what it abandons (R402, R403, R418). -/
def execKillContext (die : Fin 2) (rec' : BitVec 64) (s : State) : Host.Outcome State Fault Refusal :=
  .next (s.command die rec' 1 fun x =>
    if x.arg1 ≠ 1 then s
    else
      let s := if x.begun then s else
        (s.killCtx x.ctx x.clk).modDie die fun d =>
          { d with hcmds := ((exchange (· == x) { x with begun := true } d.hcmds).map (·.2)).getD d.hcmds }
      if s.winding x.ctx then s else s.endCmdRec die x.addr 1)

/-! ### TLBINV and CTXINV (R387, R417) -/

/-- The entry translates some address of a range. -/
def TlbEntry.meets (e : TlbEntry) (ctx : BitVec 12) (lo n : Nat) : Bool :=
  e.ctx == ctx && decide (e.va < lo + n ∧ lo < e.va + 2 ^ pageShift e.sz)

/-- Drop cached translations on both dies. -/
def State.dropTlbs (s : State) (p : TlbEntry → Bool) : State :=
  let out (es : List TlbEntry) := es.filter fun e => !p e
  { s with
    cores := mapVec (mapVec fun k => { k with itlb := out k.itlb, dtlb := out k.dtlb, tlb2 := out k.tlb2 }) s.cores
    dies := mapVec (fun d => { d with etlb := out d.etlb }) s.dies }

/-- An access of the context that has been translated and is not yet performed. -/
def State.inFlight (s : State) (ctx : BitVec 12) : Bool :=
  (s.cores.toList.any fun ks => ks.toList.any fun k => k.path.any (·.ctx == ctx))
    || (s.recs.any fun r => r.c.ctx == ctx && !r.writes.isEmpty)
    || s.dies.toList.any fun d => d.atom.any (·.ctx == ctx)

/-- TLBINV: the entries go at once; the command completes when every access translated before has been performed. -/
def execTlbinv (die : Fin 2) (rec' : BitVec 64) (s : State) : Host.Outcome State Fault Refusal :=
  .next (s.command die rec' 4 fun x =>
    let s := s.dropTlbs fun e => e.meets x.ctx x.addr' (4096 * x.arg1)
    if s.inFlight x.ctx then s else s.endCmdRec die x.addr 1)

/-- CTXINV: descriptor and seal table are read again; cached translations and queued walks of the context go. -/
def execCtxinv (die : Fin 2) (rec' : BitVec 64) (s : State) : Host.Outcome State Fault Refusal :=
  .next (s.command die rec' 5 fun x =>
    let s := s.dropTlbs fun e => e.ctx == x.ctx
    let s := { s with dies := mapVec (fun d => { d with
      walks := d.walks.filter (·.ctx != x.ctx), ctxs := d.ctxs.filter (·.ctx != x.ctx),
      seals := d.seals.filter (·.ctx != x.ctx), sealsOf := d.sealsOf.filter (· != x.ctx) }) s.dies }
    if s.inFlight x.ctx then s else ((s.useCtx 0 x.ctx).useCtx 1 x.ctx).endCmdRec die x.addr 1)

/-! ### CHRESET and CHSTATE (R417, R418) -/

/-- Change a control block for the host; status 4 when it cannot be read or written. -/
def State.hostCcb (s : State) (die : Fin 2) (x : HostCmd) (f : Nat → State → State) : State :=
  let ch := BitVec.ofNat 12 x.arg1
  let c : ChainRef := ⟨die, x.ctx, ch⟩
  let va := s.ccbVa die x.ctx ch
  match (readCcb (viaEngine c) s va).bind fun _ s => writeVia (viaEngine c) die x.ctx s va 128 false with
  | .wait t => s.onlyWaits t
  | .bad _ _ t => t.endCmdRec die x.addr 4
  | .ok pa t =>
    let me := (x.ctx, ch)
    ({ f pa t with unserved := t.unserved.filter (· != me), halts := t.halts.filter fun h => (h.1.ctx, h.1.ch) != me }).endCmdRec die x.addr 1

def execChreset (die : Fin 2) (rec' : BitVec 64) (s : State) : Host.Outcome State Fault Refusal :=
  .next (s.command die rec' 6 fun x =>
    s.hostCcb die x fun pa t =>
      let t := t.writeL2 x.ctx (pa + 16) (leBytes 8 x.arg2 ++ leBytes 8 x.arg2 ++ leBytes 8 0)
      let t := t.writeL2 x.ctx (pa + 4) [1, 0]
      { t with failed := t.failed.filter (· != (x.ctx, BitVec.ofNat 12 x.arg1)) })

/-- CHSTATE waits for a record in progress on the chain, and for a halt of it still to be written. -/
def execChstate (die : Fin 2) (rec' : BitVec 64) (s : State) : Host.Outcome State Fault Refusal :=
  .next (s.command die rec' 7 fun x =>
    if (s.recs.map ChainRec.c ++ s.halts.map Prod.fst).any fun c => c.ctx == x.ctx && c.ch.toNat == x.arg1 then s
    else s.hostCcb die x fun pa t => t.writeL2 x.ctx (pa + 4) [BitVec.ofNat 8 x.arg2, 0])

end Sys2Proof.Machine
end

