-- ==== Sys2Proof/Machine/MatrixEv.lean ====
section
/-! DEFINITION. The matrix engine and the epilogue pipe at work (R273 to R282, R288 to R295, R299, R302 to R310). -/

namespace Sys2Proof.Machine

def State.modMx (s : State) (c : CoreRef) (f : Matrix → Matrix) : State :=
  s.modCore c fun k => { k with mx := f k.mx }

/-- The operands of a command. -/
def Cmd.op (x : Cmd) (i : Nat) : Nat := ((x.ext[i]?).getD 0).toNat

/-- Little-endian words of bytes. -/
def wordsOf : List Byte → List Word
  | a :: b :: c :: d :: r => BitVec.ofNat 32 (leNat [a, b, c, d]) :: wordsOf r
  | _ => []

def bytesOf (ws : List Word) : List Byte := ws.flatMap fun w => leBytes 4 w.toNat

/-! ### The shape of a command -/

/-- Blocks, first tile, tiles, first row, rows and ZR of a command that forms sums. -/
structure Shape where
  kb    : Nat
  tile  : Nat
  tiles : Nat
  row   : Nat
  rows  : Nat
  zr    : Bool
deriving DecidableEq, Repr

def Cmd.shape (x : Cmd) : Option Shape :=
  match x.instr with
  | .mma a => some ⟨x.op 2, a.ct.val, 1, 0, 128, a.zr⟩
  | .mmas a => some ⟨x.op 2, a.ct.val, 1, 0, 128, a.zr⟩
  | .mmab a => some ⟨x.op 2, a.m.ct.val, 1, 0, 128, a.m.zr⟩
  | .mmav a => some ⟨x.op 2, a.ct.val, 1, 32 * a.rq.val, 32, a.zr⟩
  | .mtap a => some ⟨x.op 2, a.ct.val, if a.pr then 2 else 1, 0, 128, a.zr⟩
  | _ => none

def Cmd.sparse (x : Cmd) : Bool :=
  match x.instr with
  | .mmas _ => true
  | _ => false

def Cmd.andOp (x : Cmd) : Bool :=
  match x.instr with
  | .mmab a => a.andOp
  | _ => false

/-- The tapered tile register named first, for MTAP (R304). -/
def Cmd.ts (x : Cmd) : Option (Fin 2) :=
  match x.instr with
  | .mtap a => some a.ts
  | _ => none

def Matrix.tt (m : Matrix) (i : Fin 2) : Mem := if i = 0 then m.tt0 else m.tt1
def Matrix.setTt (m : Matrix) (i : Fin 2) (t : Mem) : Matrix := if i = 0 then { m with tt0 := t } else { m with tt1 := t }
def other (i : Fin 2) : Fin 2 := if i = 0 then 1 else 0

/-- V and TN of a register's header (R288). -/
def ttOk (t : Mem) (tn : Bool) : Bool := bitsOf (t.nat 0 8) 32 1 == 1 && (bitsOf (t.nat 0 8) 33 1 == 1) == tn

/-! ### Errors (R192, R282, R299) -/

/-- Whether the engine reads ranges of the team's windows without an uncorrectable error. -/
def State.readsWell (s : State) (x : Cmd) (rs : List (Space × Nat × Nat)) : Bool :=
  rs.all fun r => s.readable x.team r.1 r.2.1 r.2.2

/-- The bytes of a scale section that block kb reads: those of its mode, and the per-tensor scale of the command's first block
(R276). `n` are the bytes of mode 1. -/
def scaleReads (sp : Space) (mode kb first own n : Nat) : List (Space × Nat × Nat) :=
  match mode with
  | 1 => [(sp, own, n)]
  | 2 => [(sp, own, 512)]
  | 3 => if kb = 0 then [(sp, first, 4)] else []
  | _ => []

/-- The bytes of the data of a B block that a command reads: those within the K depth of MMAV's last block (R303). -/
def Cmd.columnReads (x : Cmd) (kb : Nat) : List (Space × Nat × Nat) :=
  let fb := fmtBF x.fmt
  let at' := x.op 1 + kb * strideB x.fmt x.sparse
  match x.instr with
  | .mmav a =>
    let n := if kb + 1 = x.op 2 then 4 * codeBits fb * (a.kdm.val + 1) else rowBytes fb
    (List.range 128).map fun j => (.w, at' + j * rowBytes fb, n)
  | _ => [(.w, at', if x.sparse then 10240 else 128 * rowBytes fb)]

/-- The ranges that block kb reads: its data, and what it reads of the scale sections (R275, R276, R303). -/
def Cmd.blockReads (x : Cmd) (kb : Nat) : List (Space × Nat × Nat) :=
  let f := x.fmt
  let da := 128 * rowBytes (fmtAF f)
  let db := if x.sparse then 10240 else 128 * rowBytes (fmtBF f)
  let a := x.op 0 + kb * strideA f
  let b := x.op 1 + kb * strideB f x.sparse
  (match x.instr with
    | .mmav _ => []
    | _ => (.a, a, da) :: scaleReads .a (fmtASM f) kb (x.op 0 + da) (a + da) 512) ++
  match x.instr with
  | .mtap _ => []
  | _ => x.columnReads kb ++ scaleReads .w (fmtBSM f) kb (x.op 1 + db) (b + db) 4

/-- The rows of its quarter or tile that a command computes and writes (R303). -/
def Cmd.rowsOut (x : Cmd) (h : Shape) : List Nat :=
  match x.instr with
  | .mmav _ => (List.range h.rows).filter fun i => x.op 3 / 2 ^ i % 2 == 1
  | _ => List.range h.rows

/-- A row of the RSF whose cells the command updates (R303). -/
def Cmd.takesRow (x : Cmd) (r : Fin 128) : Bool :=
  match x.shape with
  | some h => (x.rowsOut h).any fun i => h.row + i == r.val
  | none => false

/-- The ranges that a command reads at its start or, without blocks, for its effect. -/
def Cmd.startReads (x : Cmd) : List (Space × Nat × Nat) :=
  match x.instr with
  | .mldt _ => [(.w, x.op 0, tileBytes (fmtTN x.fmt))]
  | .msort _ => [(.w, x.op 0, rawTileBytes)]
  | .mmas _ => (List.range (x.op 2)).map fun kb => (.w, x.op 1 + kb * strideB x.fmt true, 10240)
  | _ => []

/-- The tile that the command adds to. -/
def Cmd.tileReads (x : Cmd) : List (Space × Nat × Nat) :=
  match x.shape with
  | some h => if h.zr then [] else
    (List.range h.tiles).map fun t => (.c, 65536 * (h.tile + t) + 512 * h.row, 512 * h.rows)
  | none => []

/-- Errors of the engine's own state that a command meets: a TT register that it reads, or rows of the RSF that hold its
sums or that MSTAT stores. -/
def Matrix.spoilt (m : Matrix) (x : Cmd) (sums : Bool) : Bool :=
  m.errs.any fun e =>
    match e, x.instr with
    | .tt i, .mtap a => i == a.ts || a.pr || x.op 2 == 2
    | .tt i, .mstat a => if i = 0 then a.sel == .tt0 else a.sel == .tt1
    | .rsf r, .mstat a => (match a.sel with
        | .rsf _ => r.val / 8 == x.op 1
        | _ => false)
    | .rsf r, _ => sums && x.takesRow r
    | _, _ => false

/-- Rows of the RSF that hold an error as a command takes them: it writes their cells before it reads them (R281). -/
def Matrix.oldErrs (m : Matrix) (x : Cmd) : List (Fin 128) :=
  m.errs.filterMap fun e =>
    match e with
    | .rsf r => if x.takesRow r then some r else none
    | .tt _ => none

/-- The command's rows hold no error while it forms its sums there. -/
def Matrix.formed (m : Matrix) (x : Cmd) : Matrix :=
  { m with errs := m.errs.filter fun e =>
      match e with
      | .rsf r => !x.takesRow r
      | .tt _ => true }

/-- A command that leaves the RSF as it was leaves the errors of its rows as well (R310). -/
def Matrix.unformed (m : Matrix) (j : Job) : Matrix :=
  { m with errs := m.errs ++ ((j.old.getD []).map MxName.rsf).filter fun e => !m.errs.contains e }

/-! ### Start checks (R299) -/

/-- An 8-of-16 column; none when a MASK is malformed (R277). -/
def sparseCol (fb : Nat) (bs : List Byte) : Nat → Option (List (Option Nat))
  | 0 => some []
  | n + 1 =>
    let mask := leNat (bs.take 2)
    let keep := (List.range 16).filter fun q => mask / 2 ^ q % 2 == 1
    let vals := elemsOf fb ((bs.drop 2).take 8)
    if keep.length ≠ 8 then none
    else
      (sparseCol fb (bs.drop 10) n).map fun r =>
        ((List.range 16).map fun q => if keep.contains q then vals[keep.findIdx (· == q)]? else none) ++ r

/-- The columns of block kb of the B panel (R275, R277). -/
def State.bCols (s : State) (x : Cmd) (kb : Nat) : Option (List (List (Option Nat))) :=
  let fb := fmtBF x.fmt
  let base := x.op 1 + kb * strideB x.fmt x.sparse
  let m := s.windowOf x.team .w
  if x.sparse then (List.range 128).mapM fun j => sparseCol fb (m.bytes (base + 80 * j) 80) 8
  else
    some ((List.range 128).map fun j => (elemsOf fb (m.bytes (base + j * rowBytes fb) (rowBytes fb))).map some)

/-- The record of column j and group g of a tapered tile (R287). -/
def taperRaw (m : Mem) (tn : Bool) (a e : Nat) : Nat := m.nat (a + 32 + recordBytes tn * e) (recordBytes tn)

/-- The contents that MLDT gives a register; none when a record is malformed (R288). -/
def loadTaper (m : Mem) (tn : Bool) (a : Nat) : Option Mem :=
  ((List.range 1024).mapM fun e => readTaper tn (taperRaw m tn a e)).map fun ts =>
    let header := m.nat a 4 + 2 ^ 32 + (if tn then 2 ^ 33 else 0)
    Mem.writes [] 0 (leBytes 32 header ++ ts.flatMap fun t => leBytes 24 t.entry)

/-- The bytes that MSORT writes; none when a group is unrepresentable (R306). -/
def sortTile (m : Mem) (tn : Bool) (a : Nat) : Option (List Byte) :=
  ((List.range 1024).mapM fun e =>
    canonicalRecord tn ((m.bytes (a + 128 * (e / 8) + 16 * (e % 8)) 16).map fun b => b.toInt)).map fun rs =>
      leBytes 32 (m.nat (a + 16384) 4) ++ rs.flatMap fun r => leBytes (recordBytes tn) r

/-- What a command meets at its start: a status, 7 where what it reads holds an error, and for MLDT the register that it spoils (R299, R305). -/
def State.matrixCheck (s : State) (c : CoreRef) (x : Cmd) : Option Byte :=
  let f := x.fmt
  let size (sp : Space) := s.sizeOf x.team sp
  let inside (sp : Space) (a n : Nat) := decide (a + n ≤ size sp)
  let tile (t : Nat) := inside .c (65536 * t) 65536
  let tt (i : Fin 2) := ttOk ((s.core c).mx.tt i) (fmtTN f)
  let six (b : Bool) (r : Option Byte) : Option Byte :=
    if !b then some 6 else if s.readsWell x x.startReads && !(s.core c).mx.spoilt x false then r else some 7
  match x.instr with
  | .mma a => six (inside .a (x.op 0) (x.op 2 * strideA f) && inside .w (x.op 1) (x.op 2 * strideB f false)
      && tile a.ct.val) none
  | .mmab a => six (inside .a (x.op 0) (x.op 2 * strideA f) && inside .w (x.op 1) (x.op 2 * strideB f false)
      && tile a.m.ct.val) none
  | .mmas a => six (inside .a (x.op 0) (x.op 2 * strideA f) && inside .w (x.op 1) (x.op 2 * strideB f true)
      && tile a.ct.val) (if (List.range (x.op 2)).all fun kb => (s.bCols x kb).isSome then none else some 8)
  | .mmav a => six (inside .w (x.op 1) (x.op 2 * strideB f false) && tile a.ct.val) none
  | .mtap a => six (inside .a (x.op 0) (x.op 2 * strideA f) && tile a.ct.val && (!a.pr || tile (a.ct.val + 1)))
      (if tt a.ts && ((x.op 2 != 2 && !a.pr) || tt (other a.ts)) then none else some 8)
  | .mldt _ => six (inside .w (x.op 0) (tileBytes (fmtTN f)))
      (if (loadTaper (s.windowOf x.team .w) (fmtTN f) (x.op 0)).isSome then none else some 8)
  | .msort _ => six (inside .w (x.op 0) rawTileBytes && inside .w (x.op 1) (tileBytes (fmtTN f)))
      (if (sortTile (s.windowOf x.team .w) (fmtTN f) (x.op 0)).isSome then none else some 16)
  | .mzero a => six (tile a.ct.val) none
  | .mstat a => six (inside .l (x.op 0) (statBytes a.sel)) none
  | _ => none

/-- MLDT that ends with status 8 clears V (R288, R305). -/
def Cmd.spoils (x : Cmd) (st : Byte) : Option (Fin 2) :=
  match x.instr with
  | .mldt a => if st = 8 then some a.ts else none
  | _ => none

/-- The register that an MLDT spoils. -/
def State.spoil (s : State) (c : CoreRef) (x : Cmd) (st : Byte) : State :=
  match x.spoils st with
  | some i => s.modMx c fun m => m.setTt i ((m.tt i).setNat 4 1 (m.tt i |>.nat 4 1 |> fun v => v - v % 2))
  | none => s

/-- The accumulators at the start: the tile's cells, or zeros under .Z (R281, R302). -/
def State.tileWords (s : State) (x : Cmd) (h : Shape) (t : Nat) : List Word :=
  if h.zr then List.replicate (128 * h.rows) 0
  else wordsOf ((s.windowOf x.team .c).bytes (65536 * t + 512 * h.row) (512 * h.rows))

/-- T of a K-block (R273). -/
def Cmd.rate (x : Cmd) : Nat :=
  let a := fmtAF x.fmt
  let e5 := a == 4 || fmtBF x.fmt == 4
  match x.instr with
  | .mtap m => (if fmtTN x.fmt then 16 else 32) * (if m.pr then 2 else 1)
  | .mmas _ => if e5 then 40 else 32
  | _ =>
    match a with
    | 1 | 2 => 128
    | 5 | 7 => 32
    | 9 => 8
    | _ => if e5 && fmtASM x.fmt != 2 then 72 else 64

/-- Cycles of a K-block: T, or what the store ports need (R296). -/
def Cmd.blockCycles (x : Cmd) : Nat :=
  let a := match x.instr with
    | .mmav _ => 0
    | _ => 128 * rowBytes (fmtAF x.fmt)
  let b := match x.instr with
    | .mtap _ => 0
    | .mmas _ => 10240
    | _ => 128 * rowBytes (fmtBF x.fmt)
  max x.rate (max (a / 256) (b / 256))

/-- Cycles of a command with `n` blocks to form (R296). -/
def Cmd.cycles (x : Cmd) (h : Shape) (n : Nat) : Nat :=
  let b := x.blockCycles
  16 + max (64 * h.tiles) b + (n - 1) * b + 8 * h.tiles + 64 * h.tiles

/-- A command that has stopped at a K-block boundary goes on from there (R282, R395). -/
def State.goOnJob (s : State) (c : CoreRef) (x : Cmd) (j : Job) : State :=
  let left := match x.shape with
    | some h => x.cycles h (h.kb - j.kb)
    | none => 0
  (s.modCmd c j.tag fun y => { y with phase := .started }).modMx c fun m =>
    { m with halted := m.halted.filter (·.tag != j.tag)
             job := some { j with ends := (s.die c.die).clock + left, stop := false, old := none } }

/-- The first start of a command, with its checks (R299). -/
def State.startJob (s : State) (c : CoreRef) (x : Cmd) : State :=
  match s.matrixCheck c x with
  | some st => (s.spoil c x st).endCmd c x.tag st
  | none =>
    if !s.readsWell x x.tileReads then s.endCmd c x.tag 7 else
    let now := (s.die c.die).clock
    let job : Job := match x.shape with
      | some h => ⟨x.tag, 0, s.tileWords x h h.tile, if h.tiles = 2 then s.tileWords x h (h.tile + 1) else [],
                   now + x.cycles h h.kb, false, none⟩
      | none => ⟨x.tag, 0, [], [], now, false, none⟩
    (s.modCmd c x.tag fun y => { y with phase := .started }).modMx c fun m => { m with job := some job }

/-- The command has formed its last block, and has only to write its tile. A command without blocks has all to do yet. -/
def State.lastWrite (s : State) (c : CoreRef) (j : Job) : Bool :=
  match s.cmd? c j.tag with
  | none => true
  | some x =>
    match x.shape with
    | some h => decide (h.kb ≤ j.kb)
    | none => false

/-- The engine can start a command: commands are performed one at a time, but that the read of a tile may overlap the write of the
command before, when only that is left (R290). -/
def State.canStart (s : State) (c : CoreRef) (x : Cmd) : Bool :=
  let m := (s.core c).mx
  match m.job with
  | none => m.out.isNone || x.shape.isSome
  | some j => m.out.isNone && s.lastWrite c j && x.shape.isSome

/-- The command in progress makes room for the next one. -/
def Matrix.shift (m : Matrix) : Matrix := if m.job.isSome then { m with job := none, out := m.job } else m

/-- The next ready command starts (R290). -/
def execMatrixCommandStart (c : CoreRef) (tag : Word) (s : State) : Host.Outcome State Fault Refusal :=
  .next (
    match s.cmd? c tag with
    | none => s
    | some x =>
      let k := s.core c
      if x.eng ≠ .matrix ∨ !s.canStart c x ∨ !s.cmdReady c x ∨ !k.isNext .matrix tag then s
      else
        let s := s.modMx c Matrix.shift
        match k.mx.halted.find? (·.tag == tag) with
        | some j => s.goOnJob c x j
        | none => s.startJob c x)

/-! ### K-blocks (R281) -/

/-- The rows of block kb of A: from the panel, or from MMAV's captured registers (R275, R303). -/
def State.aRows (s : State) (x : Cmd) (kb : Nat) : List (List Nat) :=
  let fa := fmtAF x.fmt
  let bits := codeBits fa
  match x.instr with
  | .mmav a =>
    let n := x.cap.length / 32
    let take := if kb + 1 = x.op 2 then bits * (a.kdm.val + 1) else 4 * bits
    (List.range 32).map fun i => elemsOf fa (bytesOf ((x.cap.drop (i * n + 4 * bits * kb)).take take))
  | _ =>
    let m := s.windowOf x.team .a
    let base := x.op 0 + kb * strideA x.fmt
    (List.range 128).map fun i => elemsOf fa (m.bytes (base + i * rowBytes fa) (rowBytes fa))

/-- FP32 1.0: the scale of mode none (R85). -/
def one32 : Nat := 0x3F800000

/-- FP32 scales of rows and of the tile (R276). -/
def State.aScale (s : State) (x : Cmd) (kb i : Nat) : Nat :=
  let m := s.windowOf x.team .a
  let sec (kb : Nat) := x.op 0 + kb * strideA x.fmt + 128 * rowBytes (fmtAF x.fmt)
  match fmtASM x.fmt with
  | 1 => m.nat (sec kb + 4 * i) 4
  | 3 => m.nat (sec 0) 4
  | _ => one32

def State.bSection (_s : State) (x : Cmd) (kb : Nat) : Nat :=
  x.op 1 + kb * strideB x.fmt x.sparse + (if x.sparse then 10240 else 128 * rowBytes (fmtBF x.fmt))

def State.bScale (s : State) (x : Cmd) (kb : Nat) : Nat :=
  let m := s.windowOf x.team .w
  match fmtBSM x.fmt with
  | 1 => m.nat (s.bSection x kb) 4
  | 3 => m.nat (s.bSection x 0) 4
  | _ => one32

/-- MX32 codes of row i and column j (R276). -/
def State.mxScales (s : State) (x : Cmd) (kb i j : Nat) : List (Nat × Nat) :=
  let sa := x.op 0 + kb * strideA x.fmt + 128 * rowBytes (fmtAF x.fmt)
  let code (sp : Space) (a : Nat) := ((s.windowOf x.team sp).read a).toNat
  (List.range 4).map fun c => (code .a (sa + 4 * i + c), code .w (s.bSection x kb + 4 * j + c))

/-- One cell's accumulator after a block of a command other than MTAP. -/
def State.cell (s : State) (x : Cmd) (kb i j : Nat) (aSc bSc : Nat) (row : List Nat) (col : List (Option Nat))
    (acc : Nat) : Nat :=
  let f := x.fmt
  let fa := fmtAF f
  let fb := fmtBF f
  if fmtCF f = 8 then
    if fa = 9 then binaryCell x.andOp row col acc else wrapAcc (exactSum fa fb row col) acc
  else if fmtASM f = 2 then mxCell fa fb row col (s.mxScales x kb i j) acc
  else if fa = 1 ∨ fa = 2 then treeCell fa fb row col acc
  else promote (exactSum fa fb row col) aSc bSc acc

/-- New accumulators, cell by cell. -/
def mapCells (rows : Nat) (acc : List Word) (f : Nat → Nat → Nat → Nat) : List Word :=
  acc.mapIdx fun n w => if n / 128 < rows then BitVec.ofNat 32 (f (n / 128) (n % 128) w.toNat) else w

/-- A block of a command other than MTAP; none when a MASK is malformed. -/
def State.denseBlock (s : State) (x : Cmd) (h : Shape) (j : Job) : Option (List Word) :=
  (s.bCols x j.kb).map fun cols =>
    let rows := s.aRows x j.kb
    let bSc := s.bScale x j.kb
    mapCells h.rows j.acc fun i n acc =>
      s.cell x j.kb i n (s.aScale x j.kb i) bSc ((rows[i]?).getD []) ((cols[n]?).getD []) acc

/-- A block of MTAP with a register (R289, R304). -/
def State.taperBlock (s : State) (c : CoreRef) (x : Cmd) (h : Shape) (kb : Nat) (r : Fin 2) (acc : List Word) : List Word :=
  let t := (s.core c).mx.tt r
  let n := keptOf (fmtTN x.fmt)
  let rows := (s.aRows x kb).map fun r => r.map fun v => intOf (codeTy (fmtAF x.fmt)) v
  let cols := (List.range 128).map fun j =>
    (List.range 8).map fun g => entryTaper n (t.nat (32 + 24 * (8 * j + g)) 24)
  mapCells h.rows acc fun i j a =>
    promote (.val (taperCell ((cols[j]?).getD []) ((rows[i]?).getD []) * 2 ^ 32)) (s.aScale x kb i) (t.nat 0 4) a

/-- The job after its next block. -/
def State.nextBlock (s : State) (c : CoreRef) (x : Cmd) (h : Shape) (j : Job) : Option Job :=
  match x.ts with
  | some r =>
    if h.tiles = 2 then
      some { j with kb := j.kb + 1, acc := s.taperBlock c x h j.kb r j.acc,
                    acc2 := s.taperBlock c x h j.kb (other r) j.acc2 }
    else some { j with kb := j.kb + 1, acc := s.taperBlock c x h j.kb (if j.kb = 0 then r else other r) j.acc }
  | none => (s.denseBlock x h j).map fun acc => { j with kb := j.kb + 1, acc }

/-- The job of a command, in progress or at its last write. -/
def Matrix.jobOf (m : Matrix) (tag : Word) : Option Job :=
  match m.job.filter (·.tag == tag) with
  | some j => some j
  | none => m.out.filter (·.tag == tag)

/-- The engine has done with a command; one that ends without its write leaves the cells of the RSF and their errors as they were
(R310; notes/assumptions/145). -/
def State.endJob (s : State) (c : CoreRef) (tag : Word) (st : Byte) : State :=
  (s.modMx c fun m =>
    let m := match m.jobOf tag with
      | some j => if st = 0 then m else m.unformed j
      | none => m
    { m with job := m.job.filter (·.tag != tag), out := m.out.filter (·.tag != tag) }).endCmd c tag st

/-- A command's first K-block takes the rows of the RSF for its sums: what the command before still has to write of them is judged
first, and an error that stood there is no error of this command (R281, R282). -/
def State.takeRows (s : State) (c : CoreRef) (x : Cmd) (j : Job) : State :=
  let s := match (s.core c).mx.out with
    | some o =>
      match s.cmd? c o.tag with
      | some y => if (s.core c).mx.spoilt y true then s.endJob c o.tag 7 else s
      | none => s
    | none => s
  s.modMx c fun m => { m.formed x with job := some { j with old := some (m.oldErrs x) } }

/-- A job that stops for a switch at a K-block boundary leaves the engine (R282, R310). -/
def State.haltJob (s : State) (c : CoreRef) (j : Job) : State :=
  (s.modCmd c j.tag fun y => { y with phase := .stopped }).modMx c fun m =>
    { m with job := none, halted := m.halted ++ [j] }

/-- The next K-block is summed and promoted (R281). -/
def execMatrixKblockEnd (c : CoreRef) (s : State) : Host.Outcome State Fault Refusal :=
  .next (
    match (s.core c).mx.job with
    | none => s
    | some j =>
      match s.cmd? c j.tag with
      | none => s
      | some x =>
        match x.shape with
        | none => s
        | some h =>
          if h.kb ≤ j.kb then s
          else
            let s := if j.old.isNone then s.takeRows c x j else s
            let j := (s.core c).mx.job.getD j
            if !s.readsWell x (x.blockReads j.kb) || (s.core c).mx.spoilt x true then s.endJob c j.tag 7
            else
              match s.nextBlock c x h j with
              | some j' => if j'.stop ∧ j'.kb < h.kb then s.haltJob c j' else s.modMx c fun m => { m with job := some j' }
              | none => s.endJob c j.tag 8)

/-! ### The end of a command (R281, R303 to R308) -/

def rowWords (acc : List Word) (i : Nat) : List Word := (acc.drop (128 * i)).take 128

/-- Write rows of a tile. -/
def State.putTile (s : State) (x : Cmd) (h : Shape) (t : Nat) (acc : List Word) : State :=
  (x.rowsOut h).foldl (fun s i => s.putWindow x.team .c (65536 * t + 512 * (h.row + i)) (bytesOf (rowWords acc i))) s

/-- ACC of the cells written, their sum words zero (R279, R308). -/
def putRsf (rsf : Mem) (x : Cmd) (h : Shape) (acc : List Word) : Mem :=
  (x.rowsOut h).foldl (fun m i =>
    m.writes (16 * 128 * (h.row + i)) ((rowWords acc i).flatMap fun w => leBytes 12 0 ++ leBytes 4 w.toNat)) rsf

/-- What the end of a command without blocks does, and its status: what MLDT and MSORT read is judged as they read it (R288,
R305, R306). -/
def State.matrixEffect (s : State) (c : CoreRef) (x : Cmd) : State × Byte :=
  let w := s.windowOf x.team .w
  let tn := fmtTN x.fmt
  match x.instr with
  | .mldt a => match loadTaper w tn (x.op 0) with
    | some t => (s.modMx c fun m => { m.setTt a.ts t with errs := m.errs.filter (· != .tt a.ts) }, 0)
    | none => (s.spoil c x 8, 8)
  | .msort _ => match sortTile w tn (x.op 0) with
    | some bs => (s.putWindow x.team .w (x.op 1) bs, 0)
    | none => (s, 16)
  | .mzero a => (s.modTeam x.team fun t =>
    { t.setWindow .c ((t.window .c).clear (65536 * a.ct.val) 65536) with
      errs := t.errs.filter fun e => !(e.1 == .c && e.2 / 65536 == a.ct.val) }, 0)
  | .mstat a =>
    let m := (s.core c).mx
    match a.sel with
    | .rsf _ => (s.putWindow x.team .l (x.op 0) (m.rsf.bytes (16384 * x.op 1) 16384), 0)
    | .tt0 => (s.putWindow x.team .l (x.op 0) (m.tt0.bytes 0 24608), 0)
    | .tt1 => (s.putWindow x.team .l (x.op 0) (m.tt1.bytes 0 24608), 0)
  | _ => (s, 0)

/-- A command that has formed its blocks writes its tile and ends (R281). -/
def State.finishJob (s : State) (c : CoreRef) (j : Job) : State :=
  match s.cmd? c j.tag with
  | none => s
  | some x =>
    match x.shape with
    | none =>
      if (s.core c).mx.spoilt x false || !s.readsWell x x.startReads then s.endJob c j.tag 7
      else
        let r := s.matrixEffect c x
        r.1.endJob c j.tag r.2
    | some h =>
      if j.kb < h.kb then s
      else if (s.core c).mx.spoilt x true then s.endJob c j.tag 7
      else
        let s := s.putTile x h h.tile j.acc
        let s := if h.tiles = 2 then s.putTile x h (h.tile + 1) j.acc2 else s
        (s.modMx c fun m =>
          { m with rsf := putRsf m.rsf x h (if h.tiles = 2 then j.acc2 else j.acc) }).endJob c j.tag 0

/-- Commands write and end in the order in which they started (R290). -/
def execMatrixCommandEnd (c : CoreRef) (s : State) : Host.Outcome State Fault Refusal :=
  .next (
    let m := (s.core c).mx
    match m.out.or m.job with
    | none => s
    | some j => s.finishJob c j)

/-! ### The epilogue (R292 to R295, R309) -/

/-- The checks of the parameter block; status 7 for one that holds an error, 8, then 6 (R292, R299). -/
def State.epiCheck (s : State) (x : Cmd) (t : Nat) : Except Byte Nat :=
  let a := x.op 0
  let lsz := s.sizeOf x.team .l
  if lsz < a + 256 ∨ s.sizeOf x.team .c < 65536 * (t + 1) then .error 6
  else if !s.readable x.team .l a 256 then .error 7
  else
    let pb := (s.windowOf x.team .l).nat a 256
    let qf := fmtQF x.fmt
    let bad := bitsOf pb 448 1600 != 0 || bitsOf pb 8 24 != 0 || decide (5 < bitsOf pb 0 4) || bitsOf pb 256 64 % 4 != 0
      || bitsOf pb 312 8 != 0 || bitsOf pb 224 32 % 4 != 0 || bitsOf pb 160 32 % 32 != 0 || bitsOf pb 128 32 % 4 != 0
      || decide (7 < qf)
    let span := 128 * rowBytes qf + if qf = 5 then 512 else 0
    if bad then .error 8
    else if s.sizeOf x.team .a < bitsOf pb 160 32 + span ∨ (bitsOf pb 4 1 = 1 ∧ lsz < bitsOf pb 128 32 + 512)
      ∨ (bitsOf pb 5 1 = 1 ∧ lsz < bitsOf pb 224 32 + 512) then .error 6
    else .ok pb

def Cmd.epiTile (x : Cmd) : Nat :=
  match x.instr with
  | .epi a => a.ct.val
  | _ => 0

/-- The entries narrow to the ranges that the block names (R309). -/
def epiHolds (x : Cmd) (pb : Nat) : List Hold :=
  let h (sp : Space) (lo len : Nat) (w : Bool) : Hold := ⟨x.marks, x.tag, x.team, sp, lo, len, w⟩
  let qf := fmtQF x.fmt
  [h .c (65536 * x.epiTile) 65536 false, h .a (bitsOf pb 160 32) (128 * rowBytes qf + if qf = 5 then 512 else 0) true,
   h .l (x.op 0) 256 true]
    ++ (if bitsOf pb 4 1 = 1 then [h .l (bitsOf pb 128 32) 512 false] else [])
    ++ (if bitsOf pb 5 1 = 1 then [h .l (bitsOf pb 224 32) 512 false] else [])

def execEpilogueStart (c : CoreRef) (tag : Word) (s : State) : Host.Outcome State Fault Refusal :=
  .next (
    match s.cmd? c tag with
    | none => s
    | some x =>
      let k := s.core c
      if x.eng ≠ .epilogue ∨ k.mx.epi.isSome ∨ !s.cmdReady c x ∨ !k.isNext .epilogue tag then s
      else
        match s.epiCheck x x.epiTile with
        | .error st => s.endCmd c tag st
        | .ok pb =>
          (s.modCmd c tag fun y => { y with phase := .started }).modCore c fun k =>
            { k with sb := (k.sb.filter (·.tag != tag)) ++ epiHolds x pb
                     mx := { k.mx with epi := some ⟨tag, pb, 0, 0⟩ } })

/-- Activate (R293). -/
def activate (act : Nat) (alpha beta : Nat) (x : Nat) : Nat :=
  let v := val32 x
  let zero : FVal := .fin false 0 0
  if v.isNan then fp32.nan
  else
    match act with
    | 1 => if zero.lt v then x else 0
    | 2 => if v.lt zero then rne32 (v.mul (val32 alpha)) else x
    | 3 => (funTanh (BitVec.ofNat 32 x)).toNat
    | 4 =>
      let t := (funTanh (BitVec.ofNat 32 (rne32 ((val32 0x3F000000).mul v)))).toNat
      rne32 (((val32 t).mul (val32 0x3F000000)).add .rne (val32 0x3F000000))
    | 5 => fp32.minMax false true (fp32.minMax true true x alpha) beta
    | _ => x

/-- One value of a row, before its conversion (R293). -/
def epiValue (pb cell bias colScale : Nat) : Nat :=
  let x := if bitsOf pb 7 1 = 1 then rne32 (FVal.ofInt (signed32 cell)) else cell
  let x := if bitsOf pb 4 1 = 1 then rne32 ((val32 x).add .rne (val32 bias)) else x
  let x := activate (bitsOf pb 0 4) (bitsOf pb 64 32) (bitsOf pb 96 32) x
  let x := if bitsOf pb 5 1 = 1 then rne32 ((val32 x).mul (val32 colScale)) else x
  rne32 ((val32 x).mul (val32 (bitsOf pb 32 32)))

/-- The bytes of a row and, for E2M1, its scale codes (R86, R294). -/
def rowOut (f : Word) (q : List Nat) : List Byte × List Byte :=
  let qf := fmtQF f
  let r := fmtRnd f
  if qf = 5 then
    let blocks := (chunks32 4 (q.map fun v => (v, 0))).map fun ch =>
      let code := mxScale .e2m1 (ch.foldl (fun m x => amax2 m (BitVec.ofNat 32 x.1)) 0)
      (code, ch.map fun x => mxElem .e2m1 r code (val32 x.1))
    let nibs := blocks.flatMap (·.2)
    ((List.range 64).map fun i => BitVec.ofNat 8 ((nibs[2 * i]?).getD 0 + 16 * (nibs[2 * i + 1]?).getD 0),
     blocks.map fun b => BitVec.ofNat 8 b.1)
  else
    let codes := q.map fun v => roundTo (codeTy qf) r (fmtSatOf f) (val32 v)
    if qf = 7 then
      ((List.range 64).map fun i => BitVec.ofNat 8 ((codes[2 * i]?).getD 0 + 16 * (codes[2 * i + 1]?).getD 0), [])
    else (codes.flatMap fun v => leBytes (codeBits qf / 8) v, [])

def State.endEpi (s : State) (c : CoreRef) (tag : Word) (st : Byte) : State :=
  (s.modMx c fun m => { m with epi := none }).endCmd c tag st

/-- The ranges that a row of the EPI reads (R293). -/
def Cmd.rowReads (x : Cmd) (pb i : Nat) : List (Space × Nat × Nat) :=
  (.c, 65536 * x.epiTile + 512 * i, 512) :: ((if bitsOf pb 4 1 = 1 then [(.l, bitsOf pb 128 32, 512)] else [])
    ++ (if bitsOf pb 5 1 = 1 then [(.l, bitsOf pb 224 32, 512)] else []))

/-- The next row of the EPI in progress (R293, R294); what it reads holds an error: status 7 (R299). -/
def State.epiRow (s : State) (c : CoreRef) (x : Cmd) (e : EpiJob) : State :=
  let i := e.row
  let put (m : Word) (s : State) : State := s.modMx c fun k => { k with epi := some { e with row := i + 1, m } }
  if bitsOf e.pb (320 + i) 1 = 0 then put e.m s
  else if !s.readsWell x (x.rowReads e.pb i) then s.endEpi c x.tag 7
  else
    let l := s.windowOf x.team .l
    let t := s.windowOf x.team .c
    let q := (List.range 128).map fun j =>
      epiValue e.pb (t.nat (65536 * x.epiTile + 512 * i + 4 * j) 4) (l.nat (bitsOf e.pb 128 32 + 4 * j) 4)
        (l.nat (bitsOf e.pb 224 32 + 4 * j) 4)
    let m := q.foldl (fun m v => amax2 m (BitVec.ofNat 32 v)) e.m
    let out := rowOut x.fmt q
    let doff := bitsOf e.pb 160 32
    let s := s.putWindow x.team .a (doff + i * rowBytes (fmtQF x.fmt)) out.1
    put m (s.putWindow x.team .a (doff + 8192 + 4 * i) out.2)

/-- Up to `n` more rows. -/
def State.epiRows (s : State) (c : CoreRef) : Nat → State
  | 0 => s
  | n + 1 =>
    match (s.core c).mx.epi with
    | none => s
    | some e =>
      match s.cmd? c e.tag with
      | some x => if e.row < 128 then (s.epiRow c x e).epiRows c n else s
      | none => s

/-- AMAX, then the update and the end (R293, R295): AMAX stands in memory together with the update, or with what ends it, and
not while the update waits for the pager, where a cancellation may still end the command (R379). -/
def State.epiUpdate (s : State) (c : CoreRef) (x : Cmd) (e : EpiJob) : State :=
  let amax (s : State) : State := s.putWindow x.team .l (x.op 0 + 24) (leBytes 4 e.m.toNat)
  if bitsOf e.pb 6 1 = 0 then (amax s).endEpi c x.tag 0
  else
    let va := bitsOf e.pb 256 64
    match turnVia (viaCmd c x) c.die x.ctx (some c.core) s va 4 true with
    | .wait s => s
    | .bad st _ s => (amax s).endEpi c x.tag st
    | .ok pa s =>
      let s := amax s
      let s := match aopNew .famax .f32 (s.mem.nat pa 4) e.m.toNat 0 with
        | some v => s.writeL2 x.ctx pa (leBytes 4 v)
        | none => s
      s.endEpi c x.tag 0

/-- The rows that are left, AMAX, the update and the end (R295). -/
def execEpilogueEnd (c : CoreRef) (s : State) : Host.Outcome State Fault Refusal :=
  .next (
    let s := s.epiRows c 128
    match (s.core c).mx.epi with
    | none => s
    | some e =>
      match s.cmd? c e.tag with
      | none => s
      | some x => s.epiUpdate c x e)

/-! ### Cancellation (R241, R282, R295, R310) -/

/-- A cancelled matrix command stops at a K-block boundary, MSORT before its first write; the others run to their
end, and so does one that has begun to write its tile (R282). -/
def State.cancelMatrix (s : State) (c : CoreRef) (x : Cmd) : State :=
  let m := (s.core c).mx
  let stops : Bool := match x.instr with
    | .msort _ => true
    | _ => x.shape.isSome && m.job.any (·.tag == x.tag)
  if stops then s.endJob c x.tag 1 else s

/-- Rows of a sector of scale codes of which some have been written: with QF = 5 the codes of eight rows share a sector, which is
written whole or not at all (R241, R294; notes/assumptions/146). -/
def State.epiSector (s : State) (c : CoreRef) (x : Cmd) : Nat :=
  match (s.core c).mx.epi with
  | some e => if fmtQF x.fmt = 5 then (8 - e.row % 8) % 8 else 0
  | none => 0

/-- A cancelled EPI stops between rows, after up to `n` more of them. -/
def State.cancelEpi (s : State) (c : CoreRef) (x : Cmd) (n : Nat) : State :=
  let s := s.epiRows c n
  (s.epiRows c (s.epiSector c x)).endEpi c x.tag 1

end Sys2Proof.Machine
end

