-- ==== Sys2Proof/Machine/LanternEv.lean ====
section
/-! DEFINITION. TRACE, TRRES and TRSTAT, the steps of Lantern, and the cancellation of engine commands (R282, R295, R337,
R356 to R365, R241). -/

namespace Sys2Proof.Machine

/-! ### Issue (R356 to R359) -/

/-- Lane table entries that nothing needs any more: no command, no suspended lane, no handle (R363). -/
def State.sweepRays (s : State) (c : CoreRef) : State :=
  let named (t : Word) := s.groups.any fun g => g.coreRef == c && g.active &&
    g.h.toList.any fun h => h.state != .empty && h.eng == .lantern && h.tag == t
  let live (y : RayLane) := y.held || !y.counts.isEmpty || (s.core c).cmds.any (fun x => x.tag == y.tag) || named y.tag
  s.modCore c fun k => { k with rays := k.rays.filter live }

/-- What TRACE and TRRES share: the checks of R358, the command and its lanes (R359). `table` is TRACE's; `lane` gives what is
captured of a lane, its record and where it begins. -/
def State.traverse (s : State) (i : Instr) (c : Ctl) (gd : Guard) (sh : Option (Fin 16)) (hd : Fin 16) (h : Fin 128)
    (regsOk : Bool) (base : Nat) (table : Option Nat) (lane : Lane → List Word × Nat × Cont) : State :=
  let g := s.g
  let size := s.windowSize .l
  let t := table.getD 0
  if g.flushing then s
  else if !regsOk then s.boundary (.trap (g.illegal 8 i))
  else if base % 128 ≠ 0 then s.boundary (.trap (g.illegal 10 i))
  else if size < base + 4096 then s.boundary (.trap (g.trapHere 7 0xFF (BitVec.ofNat 64 (max size base))))
  else if t % 8 ≠ 0 ∨ 2 ^ 56 ≤ t then s.boundary (.trap (g.illegal 10 i))
  else
    let ms := g.executing gd
    let k := s.core g.coreRef
    if ms = 0 then
      { s with g := g.setHandle hd ⟨.complete, .lantern, 0, Config.emptyTraceTag k.tag, true⟩ }.advance c
    else
      let r : CmdReq := { c, eng := .lantern, instr := i, ext := words [base, t], cap := (lanesOf ms).flatMap fun j => (lane j).1, d := some hd, sh,
                          holds := [⟨.l, base, 4096, true⟩], limit := some 8 }
      if !s.cmdRoom r then s
      else
        let new (j : Lane) : RayLane :=
          { tag := k.tag, trace := k.tag, g := g.ref, launch := g.launch, team := g.team, ctx := g.ctx, lane := j,
            addr := base + 128 * j.val, hit := h, table := t, begun := false, state := .running, held := false,
            code := 0, rec' := (lane j).2.1, cont := (lane j).2.2, node := none, part := [], top := none, bot := none, counts := [],
            obj := none, poll := 0 }
        ((s.sweepRays g.coreRef).modCore g.coreRef fun k =>
          { k with rays := k.rays ++ (lanesOf ms).map new }).issueCmd r

/-- TRACE reads its rays and makes a command (R359). -/
def execTrace (x : TraceArgs) (s : State) : Host.Outcome State Fault Refusal :=
  .next (
    let g := s.g
    let table := match x.table with
      | some n => (g.readS n).toNat
      | none => bitsOf x.c.lit.toNat 0 56
    s.traverse (.trace x) x.c x.g x.sh x.hd x.d (decide (x.d.val + 5 ≤ g.valloc ∧ x.a.val + 10 ≤ g.valloc))
      (g.off32 x.c x.base) (some table) fun j =>
        let ray := (List.range 10).map fun w => g.readV (Fin.ofNat 128 (x.a.val + w)) j
        (ray, freshRec ray, .start))

/-- TRRES reads t and uv and makes a command (R362). -/
def execTrres (x : TrresArgs) (s : State) : Host.Outcome State Fault Refusal :=
  .next (
    let g := s.g
    s.traverse (.trres x) x.c x.g x.sh x.hd x.d (decide (x.d.val + 5 ≤ g.valloc)) (g.off32 x.c x.base) none fun j =>
      let t := x.t.map fun o => BitVec.ofNat 32 (g.laneF x.c .f32 o j)
      let uv := match x.uv with
        | some o => g.lane32 x.c o j
        | none => 0
      ([t.getD 0, uv], 0, .resume x.mode t uv))

/-! ### TRSTAT (R363) -/

/-- The lane table entry of lane `j` of what a handle tracks: lane state, parked, CODE. -/
def State.laneEntry (s : State) (c : CoreRef) (h : Handle) (j : Lane) : BitVec 16 :=
  if h.state = .empty ∨ h.eng ≠ .lantern ∨ h.bare then 0
  else
    match s.ray? c h.tag j with
    | none => 0
    | some y =>
      if y.begun then
        let parked := match y.cont with
          | .resolve _ => y.state == .running
          | _ => false
        y.code ++ 0#3 ++ BitVec.ofBool parked ++ BitVec.ofNat 4 y.state.code
      else if h.state = .pending then 1
      else Config.unstartedLane h.tag j.val

/-- A lane state matches a selector. -/
def TrstatSelMatches (sel : TrstatSel) (e : BitVec 16) : Bool :=
  let st := e.extractLsb' 0 4
  let parked := e.getLsbD 4
  match sel with
  | .run => st == 1 && !parked
  | .park => st == 1 && parked
  | .sus => st == 2
  | .fin => st == 4 || st == 5

def execTrstat (x : TrstatArgs) (s : State) : Host.Outcome State Fault Refusal :=
  .next (
    let g := s.g
    let m := g.executing x.g
    let e (j : Lane) := s.laneEntry g.coreRef (g.handle x.h) j
    if g.flushing then s
    else
      { s with g := match x.d with
        | .k d sel => g.writeKLanes d m fun j => TrstatSelMatches sel (e j)
        | .v d => g.writeV d m fun j => (e j).setWidth 32 }.advance x.c)

/-! ### Lanes begin (R338, R340, R345, R352, R359, R362) -/

/-- A lane that has not begun and whose command may run. -/
def State.laneReady (s : State) (c : CoreRef) (y : RayLane) : Bool :=
  match s.cmd? c y.tag with
  | some x => !y.begun && !x.cancel && !s.preempting y.launch && (x.phase == .started || s.cmdReady c x)
  | none => false

/-- The ray is one that R338 admits. -/
def rayOk (r : Nat) : Bool :=
  let mf := rayWord r 8
  let tmax := f32Val (rayWord r 7)
  decide (mf < 2 ^ 12) && ([0, 1, 2, 3, 4, 5, 6].all fun i => f32Finite (rayWord r i))
    && (tmax.finite || tmax == .inf false) && [3, 4, 5].any fun i => f32Rat (rayWord r i) != 0

/-- The first steps of a lane of a TRACE. -/
def State.beginTrace (s : State) (c : CoreRef) (y : RayLane) : State :=
  let r := y.rec'
  if !rayOk r then s.faultLane c y 32
  else if !(rayExt (rayWord r 6)).le (rayExt (rayWord r 7)) then s.finishLane c y
  else
    match readLane c y s (y.table + 8 * rayWord r 9) 8 with
    | .wait s => s
    | .fault d s => s.faultLane c y d
    | .ok e s =>
      if e % 128 ≠ 0 ∨ 2 ^ 56 ≤ e then s.faultLane c y 37
      else
        let y := { y with rec' := putBits r 960 64 e }
        match takeCount c y (s.putLane c y) e with
        | .wait s => s
        | .fault d s => s.faultLane c y d
        | .ok ref s =>
          s.putLane c { y with
            rec' := putBits (putBits y.rec' 910 1 ref.slot.val) 924 4 1
            counts := [(e, ref.slot)], top := some ref, cont := .visit 0 0 0 }

/-- A lane of a TRACE starts: a suspended lane held at its record address ends first. -/
def execTraceLaneStart (c : CoreRef) (tag : Word) (lane : Lane) (s : State) : Host.Outcome State Fault Refusal :=
  .next (
    match s.ray? c tag lane with
    | none => s
    | some y =>
      if y.cont ≠ .start ∨ (!y.begun && !s.laneReady c y) ∨ y.state ≠ .running then s
      else
        let s := s.modCmd c tag fun x => { x with phase := .started }
        let s := match (s.core c).rays.find? fun z => z.held && z.team == y.team && z.addr == y.addr with
          | some z => s.supersede c z
          | none => s
        let y := { y with begun := true }
        (s.putLane c y).beginTrace c y)

/-- The slots and the object ray of a re-entered record: read again from the descriptors that it names (R347, R352). -/
def State.reenter (s : State) (c : CoreRef) (y : RayLane) : Lan RayLane :=
  let r := y.rec'
  (readLane c y s (recTdesc r % 2 ^ 56) 128).bind fun d s =>
    let y := { y with top := some (slotRef (recTdesc r) d (Fin.ofNat 2 (bitsOf r 910 1))) }
    if recLvl r = 0 then .ok { y with bot := none, obj := none } s
    else
      match y.top with
      | none => .fault 38 s
      | some top =>
        (fetchInst c y s top (recInst r)).bind fun raw s =>
          (readLane c y s (instDesc raw) 128).bind fun b s =>
            match y.objRay raw with
            | none => .fault 36 s
            | some o => .ok { y with bot := some (slotRef (instDesc raw) b (Fin.ofNat 2 (bitsOf r 909 1))), obj := some o } s

/-- The leaf that a lane goes on with at a triangle: its node is read again (R352). A slot that now holds no leaf is passed
over. -/
def RayLane.leafAgain (y : RayLane) (raw tri : Nat) : RayLane :=
  let e := recCurn y.rec'
  let lvl := recLvl y.rec'
  let rest := leavesAfter raw (y.hits lvl raw) (some (y.key lvl raw e.slot))
  if nodeValid raw e.slot && !nodeInternal raw e.slot then
    { y with node := none, cont := .leaf e.node e.depth e.slot (nodeCref raw e.slot) tri rest }
  else y.toLeaf e.node e.depth rest

/-- Re-entry of a lane under a mode of TRRES (R362). -/
def State.resumeLane (s : State) (c : CoreRef) (y : RayLane) (mode : TrresMode) (t : Option Word) (uv : Word) : State :=
  let r := y.rec'
  let tv : FVal := match t with
    | some w => f32Val w.toNat
    | none => .nan
  let te : Ext := tv.ext
  let bits := match t with
    | some w => w.toNat
    | none => 0
  let above := tv != .nan && (Ext.fin (rayRat (rayWord r 6))).le te
  let tmax := rayExt (rayWord r 7)
  let short := mode == .short && above && te.le tmax
  let take := mode == .commit && above && te.le tmax && (!recHf r || te != tmax)
  let y := if short then { y with rec' := setRayWord r 7 bits } else y
  if mode = .fin then s.finishLane c y
  else
    let e := recCurn r
    let tri := if recTri r = 0 then 63 else recTri r - 1
    let go := (s.reenter c y).bind fun y s =>
      match y.ref (recLvl r) with
      | none => .fault 38 s
      | some ref =>
        (fetchNode c y s ref e.node).bind fun n s =>
          match n with
          | none => .wait s
          | some raw =>
            if take then
              (if ref.inst then .ok 0 s else fetchPid c y s ref (nodeCref raw e.slot)).bind fun pid s =>
                let h := commit y.rec' (nodeCref raw e.slot) tri pid y.iid ⟨0, 0, 0, false⟩
                .ok ({ y with rec' := setRayWord (putBits h 384 32 uv.toNat) 7 bits }, raw) s
            else .ok (y, raw) s
    match go with
    | .wait s => s
    | .fault d s => s.faultLane c y d
    | .ok (y, raw) s =>
      if take && rayTerm y.rec' then s.finishLane c y
      else s.putLane c (y.leafAgain raw (if recTri r = 0 then 64 else recTri r))

/-- A lane of a TRRES reads its record and takes the lane that Lantern holds there, with its counts; the Bool tells that
there was one. -/
def State.takeHeld (s : State) (c : CoreRef) (y : RayLane) : State × RayLane × Bool :=
  let y := { y with begun := true, rec' := (s.windowOf y.team .l).nat y.addr 128 }
  match (s.core c).rays.find? fun z => z.held && z.team == y.team && z.addr == y.addr with
  | none => (s.putLane c y, y, false)
  | some z =>
    let y := { y with counts := z.counts, trace := z.trace }
    ((s.putLane c y).putLane c { z with held := false, counts := [], top := none, bot := none }, y, true)

/-- The record range holds an uncorrectable error: the command ends with status 7, its running lanes with DETAIL 7
(R361). -/
def State.spoilTraversal (s : State) (c : CoreRef) (tag : Word) : State :=
  (((s.core c).rays.filter fun y => y.tag == tag && y.state == .running).foldl (fun s y =>
    let r := if y.begun then (s, y, true) else s.takeHeld c y
    r.1.faultLane c r.2.1 7) s).endCmd c tag 7

/-- A lane of a TRRES begins with its record, or goes on once the pager has answered. -/
def execTrresLaneResume (c : CoreRef) (tag : Word) (lane : Lane) (s : State) : Host.Outcome State Fault Refusal :=
  .next (
    match s.ray? c tag lane with
    | none => s
    | some y =>
      match y.cont with
      | .resume mode t uv =>
        if y.state ≠ .running then s
        else if y.begun then s.resumeLane c y mode t uv
        else if !s.laneReady c y then s
        else
          let s := s.modCmd c tag fun x => { x with phase := .started }
          if !s.readable y.team .l y.addr 128 then s.spoilTraversal c tag
          else
            let r := s.takeHeld c y
            if r.2.2 && validSuspended r.2.1.rec' then
              let y := { r.2.1 with rec' := setState r.2.1.rec' 1 }
              (r.1.putLane c y).resumeLane c y mode t uv
            else r.1.faultLane c r.2.1 38
      | _ => s)

/-! ### Stopping points (R353) -/

/-- Triangles of a patch, by its record. -/
def patchTris (raw : Nat) : Nat := bitsOf raw 208 8

/-- The lane is at a patch of which some triangles have been tested and some have not (R353). -/
def RayLane.amidPatch (y : RayLane) (tri : Nat) : Bool :=
  match y.ref (recLvl y.rec'), y.node with
  | some ref, some raw => !ref.inst && decide (0 < tri ∧ tri < patchTris raw)
  | _, _ => false

/-- Lantern may stop the lane here: between iterations or triangles, while parked, or while the pager is awaited
(R353). -/
def State.stoppable (s : State) (c : CoreRef) (y : RayLane) : Bool :=
  !y.begun || (s.die c.die).awaitsPager (.command c y.tag y.lane) ||
    match y.cont with
    | .loop => true
    | .resolve _ => true
    | .leaf _ _ _ _ tri _ => y.amidPatch tri
    | _ => false

/-- A lane as it stops: a popped entry whose node is still awaited stands on the stack again, a Restart is to be made anew
from the trail, and a leaf whose last triangle is done is left (R353). -/
def RayLane.unpopped (y : RayLane) : RayLane :=
  let lvl := recLvl y.rec'
  match y.cont with
  | .visit n k slot => if k = 0 then y else { y with cont := .loop, rec' := push y.rec' 0 lvl ⟨n, slot, k⟩ }
  | .again n k slot => { y with cont := .loop, rec' := push y.rec' 1 lvl ⟨n, slot, k⟩ }
  | .restart _ _ => { y with cont := .loop, rec' := setOvf (setSp y.rec' 0) 1 }
  | .leaf n k _ _ tri rest => if 64 ≤ tri then y.toLeaf n k rest else y
  | _ => y

/-- A running lane stops for a switch: its record is written with STATE 3, its counts stay held (R353, R395). -/
def State.switchLane (s : State) (c : CoreRef) (y : RayLane) : State :=
  let y := { y.unpopped with state := .switched, node := none, part := [] }
  let y := { y with rec' := setState y.rec' 3 }
  ((s.putLane c y).dropRequests fun r => r == .command c y.tag y.lane).saveLane y

/-- A lane of a launch that is being preempted stops here. -/
def State.mustSwitch (s : State) (c : CoreRef) (y : RayLane) : Bool :=
  y.begun && y.state == .running && s.preempting y.launch && s.stoppable c y

/-- A running lane of a command that CANH has reached ends here (R353, R364). -/
def State.mustCancel (s : State) (c : CoreRef) (y : RayLane) : Bool :=
  y.state == .running && s.stoppable c y && match s.cmd? c y.tag with
    | some x => x.cancel && x.phase == .started
    | none => false

/-- A cancelled lane that has not begun takes its record first: the lane held at its address ends, or goes over to it (R340,
R352). -/
def State.cancelHere (s : State) (c : CoreRef) (y : RayLane) : State :=
  if y.begun then s.cancelLane c y
  else
    match y.cont with
    | .resume _ _ _ => let r := s.takeHeld c y; r.1.cancelLane c r.2.1
    | _ =>
      let s := match (s.core c).rays.find? fun z => z.held && z.team == y.team && z.addr == y.addr with
        | some z => s.supersede c z
        | none => s
      s.cancelLane c { y with begun := true }

/-- A lane at a stopping point where it must stop; none where it may go on. -/
def State.stopLane (s : State) (c : CoreRef) (y : RayLane) : Option State :=
  if s.mustCancel c y then some (s.cancelHere c y)
  else if s.mustSwitch c y then some (s.switchLane c y)
  else none

/-- Every lane of a core that must stop does so. -/
def State.switchLanes (s : State) (c : CoreRef) : State :=
  (s.core c).rays.foldl (fun s y => if s.mustSwitch c y then s.switchLane c y else s) s

/-! ### Fetches, steps and polls -/

/-- A lane in the traversal, running. -/
def RayLane.walking (y : RayLane) : Bool := y.begun && y.state == .running

/-- A lane back from a switch goes on from its record: the slots and the object ray are read again, then the leaf's node, or the
loop follows; a lane whose record shows no work begins with its root (R347, R353). -/
def State.goBack (s : State) (c : CoreRef) (y : RayLane) (leaf : Bool) : State :=
  let r := y.rec'
  let x := (s.reenter c y).bind fun y s =>
    if leaf then
      match y.ref (recLvl r) with
      | none => .fault 38 s
      | some ref =>
        (fetchNode c y s ref (recCurn r).node).bind fun n s =>
          match n with
          | none => .wait s
          | some raw => .ok (y.leafAgain raw (recTri r)) s
    else
      let fresh := recD r = 0 ∧ recSp r = 0 ∧ recOvf r = false ∧ recPark r 0 = 0 ∧ recLvl r = 0
      .ok { y with cont := if fresh then .visit 0 0 0 else .loop } s
  match x with
  | .ok y s => s.putLane c y
  | .wait s => s
  | .fault d s => s.faultLane c y d

/-- The next fetch of a lane. -/
def State.fetchOrBack (s : State) (c : CoreRef) (y : RayLane) : State :=
  match y.cont with
  | .back leaf => s.goBack c y leaf
  | _ => s.fetchLane c y

def execLanternFetch (c : CoreRef) (tag : Word) (lane : Lane) (s : State) : Host.Outcome State Fault Refusal :=
  .next (
    match s.ray? c tag lane with
    | none => s
    | some y =>
      let poll : Bool := match y.cont with
        | .resolve _ => true
        | _ => false
      match s.stopLane c y with
      | some s => s
      | none => if !y.walking || y.node.isSome || poll then s else s.fetchOrBack c y)

def execLanternLoopStep (c : CoreRef) (tag : Word) (lane : Lane) (s : State) : Host.Outcome State Fault Refusal :=
  .next (
    match s.ray? c tag lane with
    | none => s
    | some y => (s.stopLane c y).getD (if y.walking then s.stepLane c y else s))

/-- A parked lane reads its root again; once no parked child is fenced it goes on (R351). -/
def execLanternParkPoll (c : CoreRef) (tag : Word) (lane : Lane) (s : State) : Host.Outcome State Fault Refusal :=
  .next (
    match s.ray? c tag lane with
    | none => s
    | some y =>
      match y.cont with
      | .resolve bottom =>
        if let some s := s.stopLane c y then s
        else if !y.walking ∨ y.poll ≠ 0 then s
        else
          let s := s.fetchLane c y
          match s.ray? c tag lane with
          | none => s
          | some y =>
            match y.node with
            | none => s
            | some raw =>
              let lvl := if bottom then 1 else 0
              if y.state = .running then
                if bitsOf raw 888 8 &&& recPark y.rec' lvl = 0 then s.putLane c (y.resolved lvl raw)
                else s.putLane c { y with node := none, poll := 512 }
              else s
      | _ => s)

/-- A traversal command whose lanes have all ended or suspended ends: with status 1 when a request to cancel arrived before they
had (R361, R364). -/
def execTraversalCommandEnd (c : CoreRef) (tag : Word) (s : State) : Host.Outcome State Fault Refusal :=
  .next (
    match s.cmd? c tag with
    | none => s
    | some x =>
      let k := s.core c
      if x.eng ≠ .lantern ∨ x.phase ≠ .started ∨ !k.lanesOver tag then s
      else s.endCmd c tag (if x.cancel then 1 else 0))

/-! ### Cancellation (R241, R282, R295, R353, R364) -/

/-- A request to cancel reaches a started command: the pieces named are still done (R241). -/
def execEngineCancellation (c : CoreRef) (tag : Word) (pieces : List Nat) (s : State) :
    Host.Outcome State Fault Refusal :=
  .next (
    match s.cmd? c tag with
    | none => s
    | some x =>
      if !x.cancel ∨ x.phase ≠ .started then s
      else
        match x.eng with
        | .copy => s.cancelCopy c x pieces
        | .matrix => s.cancelMatrix c x
        | .epilogue => s.cancelEpi c x pieces.length
        | .lantern =>
          ((s.core c).rays.filter fun y => y.tag == tag && y.state == .running).foldl (fun s y =>
            if s.mustCancel c y then s.cancelHere c y else s) s
        | _ => s)

end Sys2Proof.Machine
end

