-- ==== Sys2Proof/Machine/Preempt.lean ====
section
/-! DEFINITION. Preemption: the request (R391), where groups and commands stop (R392, R393, R395), and when the save may
begin. -/

namespace Sys2Proof.Machine

/-! ### The request (R391) -/

/-- The open bins of a launch form. -/
def Die.formAll (d : Die) (key : Nat) : Die :=
  { d with bins := d.bins.filter (·.launch != key), formed := d.formed ++ d.bins.filter (·.launch == key) }

/-- The open bins of a launch form, and its formed groups are set aside, which frees their bins. -/
def State.setAside (s : State) (d : Fin 2) (key : Nat) : State :=
  let x := (s.die d).formAll key
  let out := x.formed.filter (·.launch == key)
  (s.setDie d { x with formed := x.formed.filter (·.launch != key) }).modLaunch key fun l =>
    { l with pre := l.pre.map fun p => { p with bins := p.bins ++ out.map fun b => (d, b) } }

/-- The first of the launch's spill ring on a die, and its length. -/
def State.spillOf (s : State) (d : Fin 2) (key : Nat) : Nat × Nat :=
  match s.launch? key with
  | some l => let p := l.spill.get d; (p.1, p.2 - p.1)
  | none => (0, 0)

/-- The bins of a launch on a die form, then what its spill area holds goes into bins, and those form too, until no record is left
or none can be taken: a read waits for the pager, or other launches hold the bins. -/
def State.gatherDie (s : State) (d : Fin 2) (key : Nat) : Nat → State
  | 0 => s.setAside d key
  | n + 1 =>
    let s := s.setAside d key
    let t := s.unspill d key (s.spillOf d key).2
    if (t.spillOf d key).1 = (s.spillOf d key).1 then t else t.gatherDie d key n

/-- The same on both dies. -/
def State.gatherAll (s : State) (key : Nat) : State :=
  let gather (d : Fin 2) (s : State) : State := s.gatherDie d key (s.spillOf d key).2
  gather 1 (gather 0 s)

/-- A group that stops at once: STOP 3 when Placed, STOP 4 when Waiting (R392). -/
def Group.stopNow (g : Group) : Group :=
  match g.run with
  | .placed => g.suspend 3 none
  | .waiting _ w => g.suspend 4 (some w)
  | _ => g

/-- More than 4,096 cycles are left to the job under R296: it stops at its next K-block boundary (R310). -/
def Job.long (j : Job) (now : Nat) : Bool := decide (now + 4096 < j.ends)

/-- A job of a launch that has long to go is told to stop. -/
def Core.stopJob (k : Core) (key now : Nat) : Core :=
  match k.mx.job with
  | some j =>
    if k.cmds.any fun x => x.tag == j.tag && x.launch == key && x.shape.isSome then
      { k with mx := { k.mx with job := some { j with stop := j.long now } } }
    else k
  | none => k

/-- Cores that hold a team of a launch. -/
def State.coresOf (s : State) (key : Nat) : List CoreRef :=
  allCores.filter fun c => s.teams.any fun t => t.launch == key && t.die == c.die && t.core == c.core

/-- Everything of a launch that stops at once does so (R391, R392, R395). -/
def State.stopAll (s : State) (key : Nat) : State :=
  let s := (s.gatherAll key).mapGroups fun g => if g.launch == key then g.stopNow else g
  (s.coresOf key).foldl (fun s c => (s.modCore c fun k => k.stopJob key (s.die c.die).clock).switchLanes c) s

/-- PREEMPT: the launch begins to stop. One that is aborting, being preempted or saved is refused; one that its context
does not hold has status 3 (R391, R417). The save address is a physical one (notes/assumptions/41). -/
def execPreempt (die : Fin 2) (rec' : BitVec 64) (s : State) : Host.Outcome State Fault Refusal :=
  .next (s.command die rec' 2 fun x =>
    let mine (l : Launch) : Bool := l.ctx == x.ctx && l.record.lid == x.lid && match l.phase with
      | .ended _ => false
      | _ => true
    match s.launches.find? mine with
    | none => s.endCmdRec die x.addr 3
    | some l =>
      match l.pre with
      | some p => if p.die = die ∧ p.addr = x.addr then s else s.endCmdRec die x.addr 2
      | none =>
        if l.phase ≠ .running ∨ s.row x.addr' = .nothing then s.endCmdRec die x.addr 2
        else
          (s.modLaunch l.key fun l => { l with pre := some ⟨die, x.addr, x.addr', x.arg1, 0, false, []⟩ }).stopAll l.key)

/-! ### The deadline (R392, R393) -/

/-- The deadline of a preemption: the groups of the launch that still run stop where they are. -/
def execPreemptDeadline (launch : Nat) (s : State) : Host.Outcome State Fault Refusal :=
  .next (
    match (s.launch? launch).bind Launch.pre with
    | none => s
    | some p =>
      if p.since < p.dl ∨ p.forced then s
      else
        (s.mapGroups fun g => if g.launch == launch then g.forceStop else g).modLaunch launch fun l =>
          { l with pre := some { p with forced := true } })

/-! ### What the save waits for (R393, R395) -/

/-- An element of a result that still waits for the pager. -/
def State.elemHeld (s : State) (g : Group) (p : Pend) (a : LaneAcc) : Bool :=
  let d := s.die g.die
  match p.kind with
  | .seal _ _ _ => d.awaitsPager (.seal g.ref p.seq)
  | _ => d.awaitsPager (.load g.ref p.seq a.lane)

/-- STATE 1 of a log entry: what is left of it waits for the pager (R376). -/
def State.pendHeld (s : State) (g : Group) (p : Pend) : Bool :=
  !p.performed && p.lanes.all fun a => a.val.isSome || s.elemHeld g p a

/-- Some earlier access of the group waits for the pager: what stands behind it waits as well. -/
def State.behindHeld (s : State) (g : Group) (seq : Nat) : Bool := g.log.any fun p => decide (p.seq < seq) && s.pendHeld g p

/-- The head of the FIFO is held by a fault that waits for the pager. -/
def State.headHeld (s : State) (g : Group) : Bool :=
  match g.fifo with
  | [] => false
  | e :: _ => !e.sent && (s.behindHeld g e.seq || e.lanes.any fun a =>
      (s.die g.die).awaitsPager (.store g.ref e.seq a.lane))

/-- A result that is saved instead of being waited for. -/
def State.pendSaved (s : State) (g : Group) (p : Pend) : Bool :=
  !p.performed && (s.pendHeld g p || s.behindHeld g p.seq || g.fifo.any fun e => e.seq == p.seq)

/-- A stopped group has nothing left to wait for (R393). -/
def State.drained (s : State) (g : Group) : Bool :=
  g.run == .suspended && g.log.all (s.pendSaved g) && (g.fifo.isEmpty || s.headHeld g)

/-- A started command of a launch that has stopped, or that is saved as not started since it waits for the pager past the
deadline (R395). -/
def State.cmdStopped (s : State) (c : CoreRef) (p : Preempt) (x : Cmd) : Bool :=
  let late := decide (p.dl ≤ p.since) && (s.die c.die).awaitsPager (.command c x.tag 0)
  x.phase != .started ||
    match x.eng with
    | .copy => late
    | .epilogue => late
    | .lantern => !(s.core c).lanesOver x.tag && (s.core c).rays.all fun y =>
        y.tag != x.tag || !y.begun || y.state != .running
    | _ => false

/-- Everything of the launch on a core has stopped, and its stores have reached L2. -/
def State.coreStopped (s : State) (key : Nat) (ctx : BitVec 12) (p : Preempt) (c : CoreRef) : Bool :=
  let k := s.core c
  (k.cmds.all fun x => x.launch != key || s.cmdStopped c p x) && k.path.all (·.ctx != ctx)

/-- The gatherer of a die has accepted every spilled record of the launch; past the deadline one that waits for the pager
stays in the spill area, from which the launch goes on when it is restored (R391, R393; notes/assumptions/124). -/
def State.gathered (s : State) (l : Launch) (p : Preempt) (d : Fin 2) : Bool :=
  let sp := l.spill.get d
  decide (sp.2 ≤ sp.1) || (decide (p.dl ≤ p.since) && (s.die d).awaitsPager (.gather d l.key))

/-- The save may begin. -/
def State.allStopped (s : State) (l : Launch) (p : Preempt) : Bool :=
  s.gathered l p 0 && s.gathered l p 1 &&
  (s.groups.all fun g => g.launch != l.key || !g.active || s.drained g)
    && (s.coresOf l.key).all fun c => s.coreStopped l.key l.ctx p c

end Sys2Proof.Machine
end

