-- ==== Sys2Proof/Machine/Save.lean ====
section
/-! DEFINITION. The context save area (R396 to R400), and the save of a stopped launch (R393, R395, R402). -/

namespace Sys2Proof.Machine

/-- Bytes up to a multiple of 128. -/
def pad128 (bs : List Byte) : List Byte := bs ++ List.replicate ((128 - bs.length % 128) % 128) 0

def zeros (n : Nat) : List Byte := List.replicate n 0

/-- Little-endian words of a width. -/
def lePack (n : Nat) (xs : List Nat) : List Byte := xs.flatMap (leBytes n)

/-! ### Group areas (R392, R397) -/

/-- WAITA, WAITB and WAIT of what a stop has cut short. -/
def waitCode : Option Wait → Nat × Nat × Nat
  | none => (0, 0, 0)
  | some (.handle _ _) => (0, 0, 1)
  | some (.seq ch n _) => (ch.toNat, n.toNat, 2)
  | some (.window n _) => (n.toNat, 0, 3)
  | some (.barrier _ _ _ n) => (n, 0, 4)
  | some (.sleep n) => (0, n, 5)

/-- The bit of ARRB that stands for a barrier (R399). -/
def arrBit (b : BarRef) (opened : Bool) : Nat :=
  match b with
  | .team _ _ id => id.val + (if opened then 0 else 21)
  | .cluster _ _ id => id.val + (if opened then 16 else 37)
  | .grid _ => if opened then 20 else 41

/-- ARRB (R399). -/
def State.arrb (s : State) (g : Group) : Nat :=
  (g.arrived.map fun a => 2 ^ arrBit a.1 (a.2 == (s.bar a.1).phase)).sum

/-- The area holds every register, and at STOP 1 those that the LIVE word names (R24, R392). -/
def Group.keeps (g : Group) (f : LiveWord → Bool) : Bool :=
  g.stop != 1 || match g.live with
    | some l => f l
    | none => false

/-- GINFO (R397). -/
def Group.ginfo (g : Group) (tidx : Nat) : Nat :=
  g.stop.val + (waitCode g.waits).2.2 * 2 ^ 8 + g.slot.val * 2 ^ 11 + (g.valloc / 32 - 1) * 2 ^ 22 + tidx * 2 ^ 24
    + g.groupid.toNat * 2 ^ 32

/-- PFC and PFI: the fault recorded while the group stopped (R393). -/
def Group.pfc (g : Group) : Nat × Nat :=
  match earliest g.deferred with
  | some d => (d.code.toNat + d.sub.toNat * 2 ^ 8 + 2 ^ 16, d.info.toNat)
  | none => (0, 0)

def liveNone : Nat := 0xFFFFFFFFFFFFFFC0

/-- The 20,480 bytes of a group area (R397). -/
def State.groupArea (s : State) (g : Group) (tidx : Nat) : List Byte :=
  let w := waitCode g.waits
  let live := match g.live with
    | some l => if g.stop = 1 then l.bits.toNat else liveNone
    | none => liveNone
  let batch := match (s.core g.coreRef).batches.find? fun b => b.g == g.ref && !b.closed with
    | some b => b.count % 64 + b.tag.toNat * 2 ^ 32
    | none => 0
  lePack 8 [(g.regionBase ++ g.planeAddr).toNat, live]
    ++ lePack 4 [g.sc.toNat, g.status.toNat, g.exec.toNat, g.exitm.toNat]
    ++ lePack 4 (g.fmt.toList.map BitVec.toNat) ++ lePack 4 [g.wdog.toNat, g.wcnt]
    ++ lePack 8 [g.trapbase.toNat, g.xpc.toNat, g.xcause.toNat, g.xinfo.toNat, g.xscratch.toNat]
    ++ lePack 8 [(g.pln.toList.mapIdx fun i p => p.toNat * 4 ^ i).sum, g.ginfo tidx, w.1, w.2.1, g.pfc.1, g.pfc.2, batch,
                 s.arrb g]
    ++ zeros 96
    ++ lePack 4 ((List.finRange 8).map fun n =>
        if g.keeps (fun l => l.lk.getLsbD n.val) || n == 0 then (g.readK n).toNat else 0)
    ++ zeros 96
    ++ lePack 8 ((List.finRange 16).map fun n =>
        if g.keeps fun l => l.lh.getLsbD n.val then (g.handle n).word.toNat else 0)
    ++ lePack 8 ((List.finRange 64).map fun n =>
        if g.keeps fun l => l.ls.getLsbD (n.val / 8) then (g.readS n).toNat else 0)
    ++ ((List.finRange 128).flatMap fun n =>
        if g.keeps (fun l => l.lv.getLsbD (n.val / 8)) && decide (n.val < g.valloc) then
          lePack 4 ((g.v.get n).toList.map BitVec.toNat)
        else zeros 128)
    ++ zeros 3072

/-! ### Core areas (R398 to R400) -/

/-- What one core area is made of; COREID is 0xFF for a formed group that no core holds (notes/assumptions/43). -/
structure SaveUnit where
  die    : Fin 2
  coreid : Nat
  core   : CoreRef
  teams  : List Team
  groups : List Group
  kept   : KeptCore
deriving DecidableEq, Repr

/-- STATE of a lane, 0 for one that has not begun (R340). -/
def RayLane.lst (y : RayLane) : Nat := if y.begun then y.state.code else 0

/-- SST; a command that is started at the save has stopped (R395, R398). -/
def CmdPhase.sst (p : CmdPhase) (waits : Bool) : Nat :=
  match p with
  | .stopped | .started => 2
  | .waiting => if waits then 1 else 0

/-- A command descriptor with its captured registers (R398); the operand values, the bits [127:64] of the word, and after
them what else was read at issue (notes/assumptions/44). -/
def cmdArea (kc : KeptCore) (x : Cmd) : List Byte :=
  let rays := kc.rays.filter (·.tag == x.tag)
  let cap := x.cap.map BitVec.toNat
  let open' := kc.batches.any fun b => !b.closed && b.members.contains x.tag
  let bit (b : Bool) : Nat := if b then 1 else 0
  let e (i : Nat) : Nat := ((x.ext[i]?).getD 0).toNat
  zeros 18
    ++ lePack 1 [bit open' + bit x.pred.isSome * 2 + x.phase.sst x.pred.isSome * 4 + x.eng.code.toNat * 16, x.g.slot.val]
    ++ lePack 4 [x.tag.toNat]
    ++ leBytes 16 (rays.map fun y => y.lst * 16 ^ y.lane.val).sum
    ++ lePack 4 [(rays.map fun y => 2 ^ y.lane.val).sum, 4 * cap.length,
                 match x.pred with
                 | some t => t.tag.toNat
                 | none => 0,
                 x.fmt.toNat]
    ++ lePack 8 ([x.instr.word.toNat, e 0, e 1, e 2, x.instr.hi.toNat] ++ (List.range 4).map fun i => e (3 + i))
    ++ lePack 4 cap

/-- The ACC block: the accumulators of the stopped command, its tag, next block and tile (R398). -/
def accBlock (kc : KeptCore) : List Byte :=
  match kc.halted.head? with
  | none => zeros (65536 + 128)
  | some j =>
    match (kc.cmds.find? (·.tag == j.tag)).bind Cmd.shape with
    | none => zeros (65536 + 128)
    | some h =>
      let acc := lePack 4 (j.acc.map BitVec.toNat)
      zeros (512 * h.row) ++ acc ++ zeros (65536 - 512 * h.row - acc.length)
        ++ lePack 4 [j.tag.toNat] ++ lePack 1 [j.kb, h.tile] ++ zeros 122

/-- Destination operand code of a result (R376). -/
def Dest.code : Dest → Nat
  | .none => 0
  | .s n => (Operand.s n).code.toNat
  | .v n => (Operand.v n).code.toNat
  | .vpair n => (Operand.v n).code.toNat

/-- Values of 32 lanes, zero for a lane without an element. -/
def laneValues (es : List LaneAcc) (f : LaneAcc → Nat) : List Nat :=
  (List.finRange 32).map fun i => ((es.find? fun a => a.lane == i).map f).getD 0

/-- A log entry (R376). -/
def State.logEntry (s : State) (g : Group) (p : Pend) : List Byte :=
  zeros 12 ++ lePack 1 [p.dst.code, if s.pendHeld g p then 1 else 2] ++ lePack 2 [p.fpos]
    ++ lePack 4 [(lanesMask p.lanes).toNat, p.off.toNat] ++ lePack 8 [p.instr.word.toNat]
    ++ lePack 8 (laneValues p.lanes LaneAcc.addr)

/-- A store FIFO entry (R400). -/
def fifoEntry (head : Bool) (e : FifoEntry) : List Byte :=
  let kind := match e.kind with
    | .store => 1
    | .atomic _ => 2
    | .qput _ _ _ => 3
  let data := match e.kind with
    | .qput _ bs _ => (bs ++ zeros 256).take 256
    | _ => lePack 8 (laneValues e.lanes fun a => a.data.toNat % 256 ^ e.width)
  let cmp := match e.kind with
    | .qput ch _ idx => [ch.toNat, (idx.map (· + 1)).getD 0] ++ List.replicate 30 0
    | .atomic .cas => laneValues e.lanes fun a => a.cmp.toNat % 256 ^ e.width
    | _ => List.replicate 32 0
  lePack 8 [e.instr.word.toNat] ++ lePack 4 [(lanesMask e.lanes).toNat] ++ lePack 2 [e.fpos, kind]
    ++ lePack 8 [if head then 1 else 0, 0] ++ lePack 8 (laneValues e.lanes LaneAcc.addr) ++ data ++ lePack 8 cmp

/-- Groups of a unit with their index among all group areas. -/
def SaveUnit.indexed (u : SaveUnit) (first : Nat) : List (Nat × Group) := u.groups.mapIdx fun i g => (first + i, g)

def State.logBlocks (s : State) (u : SaveUnit) (first : Nat) : List (List Byte) :=
  ((u.indexed first).filter fun x => !x.2.log.isEmpty).map fun x =>
    lePack 4 [x.1] ++ lePack 1 [x.2.log.length] ++ zeros 3 ++ x.2.log.flatMap (s.logEntry x.2)

/-- The entry is held by a fault of its own. -/
def State.faultHeld (s : State) (g : Group) (e : FifoEntry) : Bool :=
  e.lanes.any fun a => (s.die g.die).awaitsPager (.store g.ref e.seq a.lane)

def State.fifoBlocks (s : State) (u : SaveUnit) (first : Nat) : List (List Byte) :=
  ((u.indexed first).filter fun x => !x.2.fifo.isEmpty).map fun x =>
    lePack 4 [x.1] ++ lePack 1 [x.2.fifo.length] ++ zeros 27
      ++ (x.2.fifo.mapIdx fun i e => fifoEntry (i == 0 && s.faultHeld x.2 e) e).flatten

/-- Groups that have exited and have not arrived at the barrier's open phase, those that the device has forgotten among them. -/
def State.exits (s : State) (b : BarRef) : Nat :=
  let x := s.bar b
  let lost := x.here.filter fun m => !(s.meets b).any fun g => g.seat == m
  ((s.meets b).filter fun g => g.hasExited && !x.here.contains g.seat).length + (x.gone - lost.length)

/-- Groups that have exited, those that the device has forgotten among them, once the retired ones of a barrier are forgotten
too. -/
def State.allExits (s : State) (x : Barrier) : Nat := ((s.meets x.ref).filter Group.hasExited).length + x.gone

/-- Arrivals counted at the open phase, and exits for a phase with the default count (R399). -/
def State.narr (s : State) (b : BarRef) : Nat :=
  let x := s.bar b
  x.here.length + x.past + if x.count.isNone then s.exits b else 0

/-- An entry of the barrier block (R399). -/
def State.barEntry (s : State) (b : BarRef) : List Byte :=
  lePack 4 [s.narr b] ++ lePack 2 [((s.bar b).count).getD 0] ++ zeros 10

def State.barBlock (s : State) (u : SaveUnit) : List Byte :=
  u.teams.flatMap fun t =>
    let own := (List.finRange 16).flatMap fun i => s.barEntry (.team u.core t.key i)
    let cl := (List.finRange 4).flatMap fun i =>
      if t.rootTeam = t.key then s.barEntry (.cluster u.core t.key i) else zeros 16
    own ++ cl

/-- A window whole. -/
def wholeWindow (m : Mem) (n : Nat) : List Byte := pad128 (m.bytes 0 n)

def teamWindows (t : Team) : List Byte :=
  pad128 (leBytes 8 t.idx.toNat) ++ wholeWindow t.l t.lsize ++ wholeWindow t.a t.asize ++ wholeWindow t.w t.wsize
    ++ wholeWindow t.c t.csize

/-- Offsets of parts that follow one another, from an offset on. -/
def offsets (at' : Nat) : List (List Byte) → List Nat
  | [] => []
  | p :: ps => at' :: offsets (at' + p.length) ps

/-- A core area: its header, then its parts, each at a multiple of 128 (R398); offsets count from the area's start
(notes/assumptions/43). -/
def State.coreArea (s : State) (u : SaveUnit) (first : Nat) : List Byte :=
  let mx := if u.coreid = 0xFF then Core.reset.mx else (s.core u.core).mx
  let logs := s.logBlocks u first
  let fifos := s.fifoBlocks u first
  let parts := [pad128 (mx.tt0.bytes 0 24608), pad128 (mx.tt1.bytes 0 24608), accBlock u.kept,
    pad128 (u.kept.cmds.flatMap (cmdArea u.kept)), pad128 logs.flatten, pad128 fifos.flatten, pad128 (s.barBlock u),
    u.teams.flatMap teamWindows]
  pad128 (lePack 1 [u.die.val, u.coreid, u.teams.length, logs.length] ++ lePack 2 [u.kept.cmds.length]
    ++ lePack 1 [fifos.length, 0] ++ lePack 8 (offsets 128 parts)) ++ parts.flatten

/-! ### The area (R396) -/

/-- What the device keeps of a launch on a core. -/
def State.keepCore (s : State) (key : Nat) (c : CoreRef) : KeptCore :=
  let k := s.core c
  let cmds := k.cmds.filter (·.launch == key)
  let mine (t : Word) : Bool := cmds.any (·.tag == t)
  let refs := (s.groups.filter fun g => g.launch == key && g.active && g.coreRef == c).map Group.ref
  { core := c, cmds, rays := k.rays.filter (·.launch == key), sb := k.sb.filter fun h => mine h.tag
    batches := k.batches.filter fun b => refs.contains b.g, halted := k.mx.halted.filter fun j => mine j.tag }

/-- The groups of a launch on a core, by slot. -/
def State.groupsOn (s : State) (key : Nat) (c : CoreRef) : List Group :=
  (List.finRange 32).filterMap fun n => s.groups.find? fun g => g.launch == key && g.active && g.ref == ⟨c.die, c.core, n⟩

def State.coreUnit (s : State) (key : Nat) (c : CoreRef) : SaveUnit :=
  { die := c.die, coreid := c.core.val, core := c
    teams := s.teams.filter fun t => t.launch == key && t.die == c.die && t.core == c.core
    groups := s.groupsOn key c, kept := s.keepCore key c }

/-- A formed group that is not placed, as one that has not started, under its spawn sequence number (R172, R391, R392). -/
def Launch.binUnit (l : Launch) (d : Fin 2) (b : Bin) (num : Nat) : SaveUnit :=
  let c : CoreRef := ⟨d, 0⟩
  let t : Team := { key := 0, launch := l.key, die := d, core := 0, idx := 0xFFFFFFFF, cluster := 0xFFFFFFFF, root := 0,
                    rootTeam := 0, spawned := true, reserved := false, groups := 1, lsize := l.record.slsz * 4096,
                    asize := 0, wsize := 0, csize := 0, l := [], a := [], w := [], c := [] }
  { die := d, coreid := 0xFF, core := c, teams := [t]
    groups := [(l.spawnedGroup c 0 0 0 l.regions b num).suspend 3 none], kept := ⟨c, [], [], [], [], []⟩ }

/-- The groups of a launch that have formed and are not placed, on a die: those set aside for a save in their order (R391). -/
def Launch.unplaced (l : Launch) (d : Fin 2) : List Bin :=
  ((l.pre.elim [] Preempt.bins).filter (·.1 == d)).map Prod.snd

/-- The core areas of a launch in ascending order (R396). -/
def State.units (s : State) (l : Launch) : List SaveUnit :=
  [0, 1].flatMap fun d =>
    ((s.coresOf l.key).filter (·.die == d)).map (s.coreUnit l.key)
      ++ (l.unplaced d).mapIdx fun i b => l.binUnit d b (l.spawnSeq.get d + i)

/-- The index of each unit's first group area. -/
def firsts (n : Nat) : List SaveUnit → List (Nat × SaveUnit)
  | [] => []
  | u :: us => (n, u) :: firsts (n + u.groups.length) us

/-- TIDX of a group. -/
def SaveUnit.tidx (u : SaveUnit) (g : Group) : Nat := u.teams.findIdx fun t => t.key == g.team

def State.groupAreas (s : State) (us : List SaveUnit) : List Byte :=
  us.flatMap fun u => u.groups.flatMap fun g => s.groupArea g (u.tidx g)

/-- The header (R396), DONE and CCLK still 0. -/
def State.areaHeader (s : State) (l : Launch) (us : List SaveUnit) (total : Nat) : List Byte :=
  let gs := us.flatMap (·.groups)
  let garr := if l.record.coop then s.narr (.grid l.key) else 0
  leBytes 256 (garr * 2 ^ 104 + (gs.filter (·.stop == 2)).length * 2 ^ 264 + l.ctx.toNat * 2 ^ 340
    + l.record.lid.toNat * 2 ^ 352 + gs.length * 2 ^ 384 + us.length * 2 ^ 416 + l.lrec * 2 ^ 448
    + (256 + 20480 * gs.length) * 2 ^ 512 + total * 2 ^ 576)

/-- The whole area as bytes, DONE and CCLK still 0. -/
def State.saveArea (s : State) (l : Launch) : List Byte :=
  let us := s.units l
  let body := s.groupAreas us ++ ((firsts 0 us).map fun u => s.coreArea u.2 u.1).flatten
  s.areaHeader l us (256 + body.length) ++ body

/-! ### The save (R393, R395) -/

/-- What has been read of an outstanding access goes to its registers; the rest stays outstanding (R393). -/
def Group.deliverPart (g : Group) : Group :=
  g.log.foldl (fun g p =>
    let m := lanesMask (p.lanes.filter fun a => a.val.isSome)
    if m = 0 then g
    else
      let h := g.deliver { p with due := p.due &&& m, dueHi := p.dueHi &&& m }
      let q := { p with due := p.due &&& ~~~m, dueHi := p.dueHi &&& ~~~m, lanes := p.lanes.filter fun a => a.val.isNone }
      { h with log := h.log.takeWhile (fun r => decide (r.seq < p.seq)) ++ q :: h.log.dropWhile (fun r => decide (r.seq < p.seq)) }) g

/-- The scoreboard entries that a copy or an EPI has before it starts (R249, R263, R309). -/
def State.firstHolds (s : State) (x : Cmd) : List Hold :=
  let h (sp : Space) (lo len : Nat) (w : Bool) : Hold := ⟨x.marks, x.tag, x.team, sp, lo, len, w⟩
  let size (sp : Space) := s.sizeOf x.team sp
  match x.instr with
  | .copyIn a => [h (spaceOf a.st) (x.op 2) (size (spaceOf a.st) - x.op 2) true]
  | .copyOut a => [h (spaceOf a.st) (x.op 2) (size (spaceOf a.st) - x.op 2) false]
  | .epi _ => [h .c (65536 * x.epiTile) 65536 false, h .l 0 (size .l) false, h .a 0 (size .a) true, h .l (x.op 0) 256 true]
  | _ => []

/-- A copy or an EPI that has started is saved as not started (R395). -/
def State.unstart (s : State) (c : CoreRef) (x : Cmd) : State :=
  if x.phase = .started ∧ (x.eng = .copy ∨ x.eng = .epilogue) then
    let hs := s.firstHolds x
    (s.modCmd c x.tag fun y => { y with phase := .waiting, recs := [], done := [] }).modCore c fun k =>
      { k with
        sb := if hs.isEmpty then k.sb else (k.sb.filter (·.tag != x.tag)) ++ hs
        mx := if x.eng = .epilogue then { k.mx with epi := none } else k.mx }
  else s

/-- The state that the area is written from. -/
def State.readyToSave (s : State) (key : Nat) : State :=
  let s := s.mapGroups fun g => if g.launch == key && g.active then g.deliverPart else g
  (s.coresOf key).foldl (fun s c =>
    ((s.core c).cmds.filter (·.launch == key)).foldl (fun s x => s.unstart c x) s) s

/-- A saved launch leaves its cores; the command and fault tables forget it. -/
def State.leaveCores (s : State) (key : Nat) : State :=
  let refs := (s.groups.filter fun g => g.launch == key && g.active).map Group.ref
  let keys := (s.teams.filter (·.launch == key)).map Team.key
  let s := s.dropRequests (s.ofLaunch key refs)
  { s with
    g := if s.g.launch = key then Group.blank else s.g
    rest := s.rest.filter (·.launch != key)
    cores := mapVec (mapVec fun k => if k.cmds.isEmpty && k.batches.isEmpty && k.rays.isEmpty then k else
      { k.dropLaunch key refs with rays := k.rays.filter (·.launch != key) }) s.cores
    dies := mapVec (fun (d : Die) => { d with formed := d.formed.filter (·.launch != key) }) s.dies
    teams := s.teams.filter (·.launch != key)
    bars := s.bars.filter fun b => !BarRef.ofKeys keys key b.ref }

/-- What the device keeps of the launch. -/
def State.keep (s : State) (l : Launch) : Kept :=
  let keys := (s.teams.filter (·.launch == l.key)).map Team.key
  { groups := (s.coresOf l.key).flatMap (s.groupsOn l.key)
    teams := s.teams.filter (·.launch == l.key)
    bars := (s.bars.filter fun b => BarRef.ofKeys keys l.key b.ref).map fun x => { x with gone := s.allExits x }
    cores := (s.coresOf l.key).map (s.keepCore l.key)
    bins := [0, 1].flatMap fun d => (l.unplaced d).map fun b => (d, b) }

/-- Memory holds a whole range of physical addresses. -/
def State.holdsRange (s : State) (pa n : Nat) : Bool := s.row pa != .nothing && s.row (pa + n - 1) == s.row pa

/-- The area of a stopped launch is formed; from then on it is off its cores. An area that memory does not hold is never
written (notes/assumptions/41). -/
def State.beginSave (s : State) (l : Launch) (p : Preempt) : State :=
  let area := s.saveArea l
  if s.holdsRange p.sva area.length then
    let kept := s.keep l
    (s.leaveCores l.key).modLaunch l.key fun l =>
      { l with
        kept := some kept, saving := (p.sva, area)
        spawnSeq := Vector.ofFn fun d => l.spawnSeq.get d + (l.unplaced d).length }
  else s

/-- The next `n` bytes of an area that is being written. -/
def State.saveBytes (s : State) (l : Launch) (n : Nat) : State :=
  (s.writeL2 l.ctx l.saving.1 (l.saving.2.take n)).modLaunch l.key fun l =>
    { l with saving := (l.saving.1 + n, l.saving.2.drop n) }

/-- The rest of the area is written, then CCLK, DONE last, and the command completes (R396, R402). -/
def State.endSave (s : State) (l : Launch) (p : Preempt) : State :=
  ((((s.saveBytes l l.saving.2.length).writeL2 l.ctx (p.sva + 80) (leBytes 8 (s.clock 0).toNat)).writeL2 l.ctx p.sva [1]).modLaunch
    l.key fun l =>
    { l with phase := .saved, pre := none, saving := (0, []) }).endCmdRec p.die p.addr 1

/-- The save of a launch: once every group and every started command of it has stopped its area is formed, and then
written by `write`. A launch that has ended meanwhile is not saved (R393, R395, R396; notes/assumptions/130). -/
def State.saveStep (s : State) (launch : Nat) (write : State → Launch → Preempt → State) : State :=
  match s.launch? launch with
  | none => s
  | some l =>
    match l.pre with
    | none => s
    | some p =>
      if !l.held then s
      else if l.kept.isSome then write s l p
      else
        let s := (s.coresOf launch).foldl (fun s c => s.switchLanes c) (s.gatherAll launch)
        let l := (s.launch? launch).getD l
        if s.allStopped l p then
          let t := (s.readyToSave launch).beginSave l p
          match t.launch? launch with
          | some l => if l.kept.isSome then write t l p else t
          | none => t
        else s

def execContextSave (launch : Nat) (s : State) : Host.Outcome State Fault Refusal :=
  .next (s.saveStep launch State.endSave)

/-- One line of the area is written; the last bytes wait for the end of the save. -/
def State.saveLine (s : State) (launch : Nat) : State := s.saveStep launch fun s l _ => s.saveBytes l 128

end Sys2Proof.Machine
end

