-- ==== Sys2Proof/Machine/Clock.lean ====
section
/-! DEFINITION. Time and turns: the cycle of the arithmetic clock (R11), what falls due by itself, and what moves when no
turn is planned (notes/assumptions/1). -/

namespace Sys2Proof

/-- A step of the device that is no instruction word. -/
def Instr.isStep : Instr → Bool
  | .variableLatencyResult .. | .watchdogExpiry .. | .sleepExpiry .. | .storeFifoLeave .. | .storeReachL2 ..
  | .atomicEngineService .. | .cflushComplete .. | .l2Writeback .. | .l2Scrub .. | .linkRetry .. | .pageWalk ..
  | .faultRecordWrite .. | .pagerRetry .. | .pagerDecline .. | .launch .. | .mwait .. | .mwaitPoll ..
  | .msignal .. | .ticketTake .. | .ticketSteal .. | .teamStart .. | .groupRetire .. | .barrierArrivalCount ..
  | .barrierRelease .. | .spawnRecordAccept .. | .binTimerExpiry .. | .spawnedGroupPlace ..
  | .copyCommandStart .. | .copyCommandEnd .. | .engineCancellation .. | .matrixCommandStart ..
  | .matrixKblockEnd .. | .matrixCommandEnd .. | .epilogueStart .. | .epilogueEnd .. | .traceLaneStart ..
  | .trresLaneResume .. | .lanternFetch .. | .lanternLoopStep .. | .lanternParkPoll ..
  | .traversalCommandEnd .. | .qputRingWaitEnd .. | .chainRecordStart .. | .chainRecordComplete ..
  | .waitvWake .. | .build .. | .skim .. | .switch .. | .reclaim .. | .reclaimPoll .. | .put .. | .fwd ..
  | .signal .. | .allreduce .. | .allgather .. | .flitAdmit .. | .wicklineFlitArrival .. | .lamplighterAck ..
  | .collectiveAbort .. | .collectiveTimeout .. | .windowBoundary .. | .waitwWake .. | .ptpLock ..
  | .ptpLockLoss .. | .hostWrite .. | .hostRead .. | .hostSnoop .. | .peerWindowRead .. | .registerWrite ..
  | .pgraWrite .. | .pgrsWrite .. | .nstatClear .. | .nmaskWrite .. | .killLaunch .. | .killContext ..
  | .preempt .. | .preemptDeadline .. | .contextSave .. | .restore .. | .tlbinv .. | .ctxinv .. | .chreset ..
  | .chstate .. | .powerSample .. | .thermalStep .. | .coreClockGate .. | .coreWake .. | .moduleReset ..
  | .attestationRequest .. | .hcmdRefused .. | .peerWindowWrite .. => true
  | _ => false

end Sys2Proof

namespace Sys2Proof.Machine

/-- One cycle of the arithmetic clock for a group: its watchdog and its sleep count down (R28, R73). -/
def Group.tick (g : Group) : Group :=
  let g := if g.wdog != 0 && g.resident then { g with wcnt := g.wcnt - 1 } else g
  match g.run with
  | .waiting c (.sleep n) => { g with run := .waiting c (.sleep (n - 1)) }
  | _ => g

/-- One cycle for a core: the polls of its parked lanes come nearer (R351). -/
def Core.tick (k : Core) : Core :=
  if k.rays.isEmpty then k
  else { k with rays := k.rays.map fun y => { y with poll := y.poll - 1 } }

/-- One cycle for a die: its clock, and the timers of its bins (R11, R171). -/
def Die.tick (d : Die) : Die :=
  { d with clock := d.clock + 1, bins := d.bins.map fun b => { b with timer := b.timer + 1 } }

/-- One cycle for a record that waits: the time that it has waited, for an MWAIT from its start on, and the time until its next
poll (R333, R422, R437). -/
def ChainRec.tick (r : ChainRec) : ChainRec :=
  if (r.begun ∨ r.eng = 0) ∧ r.status.isNone then
    { r with since := r.since + 1, next := if r.eng = 0 ∨ r.eng = 2 then r.next - 1 else r.next }
  else r

/-- One cycle for a launch: the time since its preemption was asked for (R391). -/
def Launch.tick (l : Launch) : Launch :=
  match l.pre with
  | some p => { l with pre := some { p with since := p.since + 1 } }
  | none => l

/-- The core's resident groups all wait, and none of its engines has a command in progress (R449). -/
def State.coreIdle (s : State) (c : CoreRef) : Bool :=
  (s.groups.all fun g => !(g.coreRef == c && g.resident) || g.run.wait?.isSome)
    && !(s.core c).cmds.any fun x => x.phase == .started

/-- A group of the core is Ready, or a command can start (R449). -/
def State.mustWake (s : State) (c : CoreRef) : Bool :=
  (s.groups.any fun g => g.coreRef == c && g.resident && g.run.wait?.isNone)
    || (s.core c).cmds.any fun x => x.phase == .started || s.cmdReady c x

/-- Idle cycles of every core. -/
def State.countIdle (s : State) : State :=
  allCores.foldl (fun s c =>
    let n := if s.coreIdle c then (s.core c).idle + 1 else 0
    if n = (s.core c).idle then s else s.modCore c fun k => { k with idle := n }) s

/-- A die is held in reset: the two start on one reset edge, so that neither runs (R450, R451). -/
def State.inReset (s : State) : Bool := s.plat.hold.toList.any Option.isSome

/-- Every launch ends as a host KILL ends it (R402, R450). -/
def State.killAll (s : State) : State :=
  ((s.launches.filter Launch.held).map Launch.key).foldl (State.kill · (s.die 0).clock) s

/-- Some launch's report is still to be written. -/
def State.reports (s : State) : Bool := s.launches.any fun l =>
  match l.phase with
  | .reporting _ => true
  | _ => false

/-- Above 105 degrees every launch ends, and once every report stands both dies are held (R174, R450). -/
def State.overheat (s : State) : State :=
  let s := s.killAll
  if s.reports then s else { s with plat := { s.plat with trip := false, hold := Vector.replicate 2 (some .heat) } }

/-- What a cycle ends with: the second grants of YIELD (R169), the records that freed bins take from the spill areas (R171), event
records that wait (R380), and what excess heat has begun (R450). -/
def State.endCycle (s : State) : State :=
  let s := allCores.foldl (fun s c => if (s.core c).issue.yields.isEmpty then s else s.giveYields c) s
  let s := [0, 1].foldl (fun s d =>
    let s := if s.spilled d && (s.die d).freeBin.isSome then s.drainSpill d else s
    if (s.die d).events.isEmpty then s else s.writeEvents d) s
  if s.plat.trip then s.overheat else s

/-- One cycle of the arithmetic clock (R11); dies in reset count none. -/
def State.elapse (s : State) : State :=
  if s.inReset then s
  else
    let s := s.endCycle
    { s.mapGroups Group.tick with
      cores := mapVec (mapVec Core.tick) s.cores, dies := mapVec Die.tick s.dies, recs := s.recs.map ChainRec.tick
      launches := s.launches.map Launch.tick }.countIdle

/-- Dies in reset do nothing; their controllers and the host's accesses go on (R450, R451). -/
def State.mayAct (s : State) (a : Act) : Bool :=
  !s.inReset || match a with
    | .readCounters _ | .readCertificate _ | .event (.moduleReset _ _ _) | .event (.thermalStep _ _) | .event (.hostWrite _ _) | .event (.hostRead _ _)
    | .event (.powerSample _) | .event (.attestationRequest _ _) => true
    | _ => false

/-- What a group's counts make due. -/
def Group.due (g : Group) : Option Instr :=
  if g.wdog != 0 && g.resident && g.wcnt == 0 then some (.watchdogExpiry g.ref)
  else
    match g.run with
    | .waiting _ (.sleep 0) => some (.sleepExpiry g.ref)
    | _ => none

/-- A bin of a die whose timer has run out (R171). -/
def State.dueBin (s : State) (d : Fin 2) : Option Instr :=
  ((s.die d).bins.find? fun b => decide (s.binTime b ≤ b.timer)).map fun b => .binTimerExpiry d b.num

/-- What a record's times make due: a poll, or the end of a collective (R333, R422, R437). -/
def State.dueRec (s : State) (r : ChainRec) : Option Instr :=
  if !r.begun || r.status.isSome then none
  else if r.eng = 0 ∧ r.kind = 2 ∧ r.next = 0 then some (.mwaitPoll r.c)
  else if (s.die r.c.die).awaitsPager (.chain r.c) then none
  else if r.eng = 2 ∧ r.next = 0 ∧ s.hasTurn r then some (.reclaimPoll r.c)
  else if r.eng = 3 ∧ r.expired then some (.collectiveTimeout r.c)
  else none

/-- A preemption whose deadline has come (R393). -/
def Launch.due (l : Launch) : Option Instr :=
  l.pre.bind fun p => if p.dl ≤ p.since ∧ p.forced = false then some (.preemptDeadline l.key) else none

/-- A team stands Placed on the core (R449). -/
def State.placedOn (s : State) (c : CoreRef) : Bool := s.groups.any fun g => g.coreRef == c && g.run == .placed

/-- A core whose clock must be gated after 1,024 idle cycles, or a gated one that must wake (R449). -/
def State.dueGate (s : State) : Option Instr :=
  allCores.findSome? fun c =>
    let k := s.core c
    if k.gated then if s.mustWake c || s.placedOn c then some (.coreWake c) else none
    else if 1024 ≤ k.idle then if s.coreIdle c then some (.coreClockGate c) else none
    else none

/-- The first step that a count has made due. -/
def State.due (s : State) : Option Instr :=
  if s.inReset then none
  else
    ((((s.groups.findSome? Group.due).or (s.dueBin 0)).or (s.dueBin 1)).or (s.recs.findSome? s.dueRec)).or
      ((s.launches.findSome? Launch.due).or s.dueGate)

/-- The two counters of a place, on the management port: corrected errors, then uncorrectable ones (R453; notes/assumptions/153). -/
def State.readCounters (s : State) (p : ErrPlace) : State :=
  let n := (s.errs.find? (·.place == p)).getD ⟨p, 0, 0⟩
  { s with answer := some ⟨leBytes 8 n.corrected.toNat ++ leBytes 8 n.uncorrectable.toNat, false⟩ }

/-- A line, entry or translation leaves a cache or TLB by replacement (R182, R386). -/
def State.replace (s : State) (a : Act) : State :=
  match a with
  | .dropL1 c l => s.dropL1Line c l
  | .dropRo c l => s.modCore c fun k => { k with ro := k.ro.filter (·.line != l) }
  | .dropTlb c ctx va =>
    let out (es : List TlbEntry) := es.filter fun e => !e.covers ctx va
    s.modCore c fun k => { k with itlb := out k.itlb, dtlb := out k.dtlb, tlb2 := out k.tlb2 }
  | .dropEngineTlb d ctx va => s.modDie d fun x => { x with etlb := x.etlb.filter fun e => !e.covers ctx va }
  | .copyPiece c tag k => s.copyAhead c tag k
  | .epiRow c => s.epiRows c 1
  | .release c => s.releaseAgain c
  | .saveLine l => s.saveLine l
  | .flitAgain d n => s.landAgain d n false
  | .ask c => s.ask c
  | .hostAtom d n => s.hostAtom d n
  | .buildHalf c => s.otherHalf c
  | .control d dev f => s.control d dev f
  | .readCounters p => s.readCounters p
  | .readCertificate d => { s with answer := some ⟨Config.certificate d, false⟩ }
  | .upset u => s.upset u
  | .unready r =>
    (s.openCycle ⟨r.die, r.core⟩).modCore ⟨r.die, r.core⟩ fun k =>
      { k with issue := { k.issue with unready := r.slot :: k.issue.unready } }
  | _ => s

end Sys2Proof.Machine
end

