-- ==== Sys2Proof/Machine/Digest.lean ====
section
/-! DEFINITION. SHA-384, which R451 and R452 name (FIPS 180-4; notes/assumptions/47). -/

namespace Sys2Proof.Machine

/-- The largest r with r ^ k ≤ n that has `b` more bits below those of `r`. -/
def rootBelow (k n : Nat) : Nat → Nat → Nat
  | 0, r => r
  | b + 1, r => rootBelow k n b (if (r + 2 ^ b) ^ k ≤ n then r + 2 ^ b else r)

/-- The first 80 primes. -/
def primes80 : List Nat := (List.range 410).filter fun n => decide (2 ≤ n) && (List.range 19).all fun d => d + 2 = n || n % (d + 2) ≠ 0

/-- The first 64 bits of the fraction of a prime's k-th root. -/
def rootFraction (k p : Nat) : BitVec 64 := BitVec.ofNat 64 (rootBelow k (p * 2 ^ (64 * k)) 69 0)

/-- The constants of the 80 rounds, and the hash that SHA-384 begins with. -/
def roundConstants : List (BitVec 64) := primes80.map (rootFraction 3)
def firstHash : List (BitVec 64) := ((primes80.drop 8).take 8).map (rootFraction 2)

/-- Bytes as a big-endian number. -/
def beNat (bs : List Byte) : Nat := bs.foldl (fun n b => n * 256 + b.toNat) 0

/-- Words w + 1 to w + n of the message schedule, from the sixteen before them, the latest first. -/
def extendSchedule : Nat → List (BitVec 64) → List (BitVec 64)
  | 0, w => w
  | n + 1, w =>
    let x (i : Nat) : BitVec 64 := (w[i]?).getD 0
    let a := x 14
    let b := x 1
    let s0 := a.rotateRight 1 ^^^ a.rotateRight 8 ^^^ a >>> 7
    let s1 := b.rotateRight 19 ^^^ b.rotateRight 61 ^^^ b >>> 6
    extendSchedule n ((x 15 + s0 + x 6 + s1) :: w)

/-- One round on the eight working words. -/
def shaRound (v : List (BitVec 64)) (kw : BitVec 64 × BitVec 64) : List (BitVec 64) :=
  match v with
  | [a, b, c, d, e, f, g, h] =>
    let s1 := e.rotateRight 14 ^^^ e.rotateRight 18 ^^^ e.rotateRight 41
    let t1 := h + s1 + ((e &&& f) ^^^ (~~~e &&& g)) + kw.1 + kw.2
    let s0 := a.rotateRight 28 ^^^ a.rotateRight 34 ^^^ a.rotateRight 39
    [t1 + s0 + ((a &&& b) ^^^ (a &&& c) ^^^ (b &&& c)), a, b, c, d + t1, e, f, g]
  | v => v

/-- A block of 128 bytes goes into the hash. -/
def shaBlock (ks hash : List (BitVec 64)) (block : List Byte) : List (BitVec 64) :=
  let w := (List.range 16).map fun i => BitVec.ofNat 64 (beNat ((block.drop (8 * i)).take 8))
  (hash.zip ((ks.zip (extendSchedule 64 w.reverse).reverse).foldl shaRound hash)).map fun x => x.1 + x.2

/-- The blocks of a message from the front, at most `n`. -/
def shaBlocks (ks : List (BitVec 64)) : Nat → List (BitVec 64) → List Byte → List (BitVec 64)
  | 0, hash, _ => hash
  | n + 1, hash, bs => if bs.isEmpty then hash else shaBlocks ks n (shaBlock ks hash (bs.take 128)) (bs.drop 128)

end Sys2Proof.Machine

namespace Sys2Proof
open Machine

/-- SHA-384 of bytes; byte 0 of the digest is the low byte of the value (R452). -/
def Config.sha384 (bs : List Byte) : BitVec 384 :=
  let fill := (239 - bs.length % 128) % 128
  let m := bs ++ [0x80] ++ List.replicate fill 0 ++ (leBytes 16 (8 * bs.length)).reverse
  let hash := shaBlocks roundConstants (m.length / 128) firstHash m
  BitVec.ofNat 384 (leNat ((hash.take 6).flatMap fun x => (leBytes 8 x.toNat).reverse))

end Sys2Proof
end

