-- ==== Sys2Proof/Machine/Restore.lean ====
section
/-! DEFINITION. The restore of a saved launch (R394, R399 to R401). -/

namespace Sys2Proof.Machine

/-! ### Reading the area -/

/-- `n` bytes at an offset of an area read as one number. -/
def areaNum (m off n : Nat) : Nat := bitsOf m (8 * off) (8 * n)

/-- The reserved bits of a header, of a group area and of a core header are zero (R396 to R398, R401). -/
def headerClean (m : Nat) : Bool :=
  bitsOf m 704 1344 == 0 && bitsOf m 296 44 == 0 && bitsOf m 136 128 == 0 && bitsOf m 8 96 == 0

def groupClean (m : Nat) : Bool :=
  areaNum m 0xA0 96 == 0 && areaNum m 0x120 96 == 0 && areaNum m 0x4400 3072 == 0 && bitsOf (areaNum m 0x68 8) 16 6 == 0
    && bitsOf (areaNum m 0x98 8) 42 22 == 0

def coreClean (m : Nat) : Bool := bitsOf m 56 8 == 0 && areaNum m 72 56 == 0

def cmdClean (m : Nat) : Bool := bitsOf m 0 144 == 0

def fifoClean (m : Nat) : Bool := areaNum m 24 8 == 0 && bitsOf (areaNum m 16 8) 1 63 == 0

def logClean (m : Nat) : Bool := bitsOf m 0 96 == 0

def barClean (m : Nat) : Bool := bitsOf m 48 80 == 0

/-- The header of a FIFO block. -/
def fifoHeadClean (m : Nat) : Bool := areaNum m 5 27 == 0

/-- The numbers of `n` piecesAt of a size that follow one another. -/
def piecesAt (m off size n : Nat) : List Nat := (List.range n).map fun i => areaNum m (off + size * i) size

/-! ### Commands, cores and slots anew (R401) -/

/-- Where a core area goes: its core, its groups' slots, and the tags of its commands. -/
structure Place where
  old   : CoreRef
  new   : CoreRef
  slots : List (Fin 32 × Fin 32)
  tags  : List (Word × Word)
deriving DecidableEq, Repr

def Place.slot (p : Place) (n : Fin 32) : Fin 32 := ((p.slots.find? (·.1 == n)).map (·.2)).getD n
def Place.tag (p : Place) (t : Word) : Word := ((p.tags.find? (·.1 == t)).map (·.2)).getD t

/-- A core and a group under the new places. -/
def newCore (ps : List Place) (c : CoreRef) : CoreRef := ((ps.find? (·.old == c)).map Place.new).getD c

def newRef (ps : List Place) (r : GroupRef) : GroupRef :=
  match ps.find? fun p => p.old == ⟨r.die, r.core⟩ with
  | some p => ⟨p.new.die, p.new.core, p.slot r.slot⟩
  | none => r

def newBar (ps : List Place) (b : BarRef) : BarRef :=
  match b with
  | .team c t id => .team (newCore ps c) t id
  | .cluster c t id => .cluster (newCore ps c) t id
  | .grid l => .grid l

def Place.marks (p : Place) (ms : List (Fin 32 × Nat)) : List (Fin 32 × Nat) := ms.map fun m => (p.slot m.1, m.2)

def Place.hold (p : Place) (h : Hold) : Hold := { h with tag := p.tag h.tag, marks := p.marks h.marks }

/-- A saved command, from its descriptor and under its new tag (R398). -/
def Place.cmd (p : Place) (ps : List Place) (x : Cmd) (m : Nat) : Cmd :=
  let words := (List.range x.ext.length).map fun i =>
    BitVec.ofNat 64 (if i < 3 then areaNum m (64 + 8 * i) 8 else areaNum m (72 + 8 * i) 8)
  { x with
    tag := p.tag x.tag, g := newRef ps x.g, ext := words, fmt := BitVec.ofNat 32 (areaNum m 52 4)
    pred := x.pred.map fun t => { t with tag := p.tag (BitVec.ofNat 32 (areaNum m 48 4)) }
    marks := p.marks x.marks
    cap := x.cap.mapIdx fun i _ => BitVec.ofNat 32 (areaNum m (128 + 4 * i) 4) }

def Place.batch (p : Place) (ps : List Place) (b : Batch) : Batch :=
  { b with tag := p.tag b.tag, g := newRef ps b.g, members := b.members.map p.tag }

/-- Where a lane goes on from its record: before its first step, in a leaf, or in the loop (notes/assumptions/25). -/
def Cont.fromRecord (k : Cont) : Cont :=
  match k with
  | .start => .start
  | .resume m t uv => .resume m t uv
  | .leaf .. => .back true
  | .back b => .back b
  | _ => .back false

/-- A lane that has not begun starts from what its command has captured: the ray of a TRACE, t and uv of a TRRES; `i` is its number
among the lanes of the command (R398). -/
def RayLane.recapture (y : RayLane) (x : Cmd) (i : Nat) : RayLane :=
  let w (n : Nat) : Word := (x.cap[n]?).getD 0
  if y.begun then y
  else
    match y.cont with
    | .start => { y with rec' := freshRec ((List.range 10).map fun n => w (10 * i + n)) }
    | .resume mode t _ => { y with cont := .resume mode (t.map fun _ => w (2 * i)) (w (2 * i + 1)) }
    | _ => y

/-- A lane of the lane table; one that was switched out goes on from its record (R353). -/
def Place.ray (p : Place) (ps : List Place) (t : Team) (y : RayLane) : RayLane :=
  let y := { y with tag := p.tag y.tag, trace := p.tag y.trace, g := newRef ps y.g }
  if y.state = .switched then
    { y with state := .running, rec' := setState (t.l.nat y.addr 128) 1, cont := y.cont.fromRecord, node := none, part := [],
             top := none, bot := none, obj := none }
  else y

/-! ### Groups (R392, R394, R397) -/

/-- A handle word read back (R236). -/
def Handle.ofWord (w : Nat) : Handle where
  state := match bitsOf w 54 2 with
    | 1 => .pending
    | 2 => .complete
    | _ => .empty
  eng := match bitsOf w 48 4 with
    | 1 => .copy
    | 2 => .batch
    | 3 => .matrix
    | 4 => .epilogue
    | 5 => .lantern
    | _ => .none
  status := BitVec.ofNat 8 (bitsOf w 40 8)
  tag := BitVec.ofNat 32 w
  bare := false

/-- Outstanding accesses with the lanes and addresses of their log block (R376, R398). -/
def logBack (ps : List Pend) (m : Nat) : List Pend :=
  ps.mapIdx fun i p =>
    let e := areaNum m (8 + 288 * i) 288
    let lanes := areaNum e 16 4
    { p with lanes := (p.lanes.filter fun a => bitsOf lanes a.lane.val 1 == 1).map fun a =>
        { a with addr := areaNum e (32 + 8 * a.lane.val) 8 } }

/-- Entries of the FIFO with the lanes, addresses and data of their block (R400). -/
def fifoBack (es : List FifoEntry) (m : Nat) : List FifoEntry :=
  es.mapIdx fun i e =>
    let b := areaNum m (32 + 800 * i) 800
    let w (off : Nat) (j : Lane) : Nat := areaNum b (off + 8 * j.val) 8
    { e with
      kind := match e.kind with
        | .qput _ bs _ => .qput (BitVec.ofNat 12 (w 544 0)) (leBytes bs.length (areaNum b 288 64))
            (if w 544 1 = 0 then none else some (w 544 1 - 1))
        | k => k
      lanes := (e.lanes.filter fun a => bitsOf (areaNum b 8 4) a.lane.val 1 == 1).map fun a =>
        { a with addr := w 32 a.lane, data := BitVec.ofNat 64 (w 288 a.lane), cmp := BitVec.ofNat 64 (w 544 a.lane) } }

/-- The place that PCW names (R30, R106). -/
def Group.placeAt (g : Group) (pcw : Nat) : Group :=
  let off := bitsOf pcw 0 32
  match g.regions.find? fun r => r.base == bitsOf pcw 32 32 && bitsOf pcw 32 32 != 0 with
  | some r =>
    let o := off - r.base
    { g with pc := BitVec.ofNat 32 (r.base + o % r.stride), plane := Fin.ofNat 4 (o / r.stride), fresh := true, issued := false }
  | none => g.goto (BitVec.ofNat 32 off)

/-- The barriers at which a group of a team can have arrived, each with its bit for an open phase and for a completed one (R399). -/
def Team.arrBits (t : Team) : List (BarRef × Nat × Nat) :=
  let refs : List BarRef := (List.finRange 16).map (.team ⟨t.die, t.core⟩ t.key ·)
    ++ (List.finRange 4).map (.cluster ⟨t.die, t.root⟩ t.rootTeam ·) ++ [.grid t.launch]
  refs.map fun b => (b, arrBit b true, arrBit b false)

/-- The phase that a barrier of a saved launch resumes with: one more than it had, so that a completed one lies before it. -/
def Kept.phase (k : Kept) (b : BarRef) : Nat := ((k.bars.find? (·.ref == b)).map Barrier.phase).getD 0 + 1

/-- The arrivals that ARRB of a group's area names (R399). -/
def Kept.arrivals (k : Kept) (ps : List Place) (g : Group) (arrb : Nat) : List (BarRef × Nat) :=
  match k.teams.find? (·.key == g.team) with
  | none => []
  | some t => t.arrBits.filterMap fun b =>
      if bitsOf arrb b.2.1 1 = 1 then some (newBar ps b.1, k.phase b.1)
      else if bitsOf arrb b.2.2 1 = 1 then some (newBar ps b.1, k.phase b.1 - 1)
      else none

/-- A register that the LIVE word of a stop at a safe point does not name holds after it what it held, or zero as the area
has it: which of the two is open for each register on its own. Registers are numbered K, H, S, V (R24, R26, R392;
notes/assumptions/108). -/
def Group.holdsOn (g : Group) (now : Nat) (reg : Nat) (f : LiveWord → Bool) : Bool :=
  !g.keeps f && Config.keepsUnnamed now (128 * g.slot.val + g.core.val) reg

/-- A group as its area describes it, at its new place. `g` is what the device kept of it, `arrived` what ARRB names, `log` and
`fifo` their blocks (R392, R394, R397). -/
def Place.group (p : Place) (now : Nat) (g : Group) (m : Nat) (arrived : List (BarRef × Nat)) (log fifo : Nat) : Group :=
  let w4 (off : Nat) : Word := BitVec.ofNat 32 (areaNum m off 4)
  let w8 (off : Nat) : Word64 := BitVec.ofNat 64 (areaNum m off 8)
  let info := areaNum m 0x68 8
  let wait := bitsOf info 8 3
  let pfc := areaNum m 0x80 8
  let handle (n : Fin 16) : Handle :=
    let h := if g.holdsOn now (8 + n.val) fun l => l.lh.getLsbD n.val then g.h.get n
      else Handle.ofWord (areaNum m (0x180 + 8 * n.val) 8)
    if h.state = .empty then h else { h with tag := p.tag h.tag, bare := (g.h.get n).bare }
  let g := { g with
    core := p.new.core, slot := p.slot g.slot
    sc := BitVec.ofNat 4 (areaNum m 0x10 4), status := w4 0x14, exec := w4 0x18, exitm := w4 0x1C
    fmt := Vector.ofFn fun i => w4 (0x20 + 4 * i.val)
    wdog := w4 0x30, wcnt := areaNum m 0x34 4
    trapbase := w8 0x38, xpc := w8 0x40, xcause := w8 0x48, xinfo := w8 0x50, xscratch := w8 0x58
    pln := Vector.ofFn fun i => BitVec.ofNat 2 (bitsOf (areaNum m 0x60 8) (2 * i.val) 2)
    groupid := BitVec.ofNat 32 (bitsOf info 32 32)
    k := Vector.ofFn fun n => if g.holdsOn now n.val fun l => l.lk.getLsbD n.val then g.k.get n else w4 (0x100 + 4 * n.val)
    h := Vector.ofFn handle
    s := Vector.ofFn fun n =>
      if g.holdsOn now (24 + n.val) fun l => l.ls.getLsbD (n.val / 8) then g.s.get n else w8 (0x200 + 8 * n.val)
    v := Vector.ofFn fun n => if g.holdsOn now (88 + n.val) fun l => l.lv.getLsbD (n.val / 8) then g.v.get n
      else Vector.ofFn fun i => w4 (0x400 + 128 * n.val + 4 * i.val)
    log := logBack g.log log, fifo := fifoBack g.fifo fifo
    deferred := if bitsOf pfc 16 1 = 1 then
        [⟨0, 0, BitVec.ofNat 8 (bitsOf pfc 0 8), BitVec.ofNat 8 (bitsOf pfc 8 8), w8 0x88,
          (earliest g.deferred).any Deferred.ofWrite⟩] else []
    arrived
    stop := 0, waits := none, settled := false, live := none, wdue := false, errs := []
    waitw := if wait = 3 then some (w8 0x70) else none
    run := if bitsOf info 0 8 = 3 then .placed else .parked (if wait = 5 then .sleep none (areaNum m 0x78 8) false else .switch false) }
  let g := g.placeAt (areaNum m 0 8)
  if wait = 4 then g.oweAt else g

/-! ### Finding room (R165, R401) -/

/-- Core areas that must move together: those that a cluster ties to the ones of a list (R401). -/
def Kept.tied (k : Kept) (cs : List CoreRef) : Nat → List CoreRef
  | 0 => cs
  | n + 1 =>
    let roots := (k.teams.filter fun t => cs.contains ⟨t.die, t.core⟩).map Team.rootTeam
    let more := (k.teams.filter fun t => roots.contains t.rootTeam).map fun t => (⟨t.die, t.core⟩ : CoreRef)
    k.tied (cs ++ more).eraseDups n

/-- Core areas in sets that move together. -/
def Kept.sets (k : Kept) : List (List CoreRef) :=
  (k.cores.map fun c => (k.tied [c.core] 12)).foldl (fun l c => if l.any fun x => x.any c.contains then l else l ++ [c]) []

/-- A core can hold a whole core area. -/
def State.canRestore (s : State) (l : Launch) (k : Kept) (old new : CoreRef) : Bool :=
  let own := (k.teams.filter fun t => t.die == old.die && t.core == old.core && !t.reserved).foldl
    (fun x t => x.add (s.teamRoom t)) l.record.reserve
  let groups := (k.groups.filter fun g => g.coreRef == old).length
  ((s.taken new).add own).fits && decide (groups ≤ (s.freeSlots new).length)

/-- A set of core areas moved so that its first row and column come to a corner; none outside the mesh. -/
def shifted (cs : List CoreRef) (corner : Fin 128) : Option (List (CoreRef × CoreRef)) :=
  let x0 := (cs.map fun c => c.core.val % 16).foldl min 16
  let y0 := (cs.map fun c => c.core.val / 16).foldl min 8
  cs.mapM fun c =>
    let x := corner.val % 16 + (c.core.val % 16 - x0)
    let y := corner.val / 16 + (c.core.val / 16 - y0)
    if x < 16 ∧ y < 8 then some (c, ⟨c.die, Fin.ofNat 128 (16 * y + x)⟩) else none

/-- A core for every core area: sets one after another, each at the first corner, row by row, where all of it fits. -/
def State.findRoom (s : State) (l : Launch) (k : Kept) : List (List CoreRef) → List (CoreRef × CoreRef) →
    Option (List (CoreRef × CoreRef))
  | [], m => some m
  | cs :: rest, m =>
    let ok (x : CoreRef × CoreRef) : Bool := s.canRestore l k x.1 x.2 && !m.any fun y => y.2 == x.2
    match (List.finRange 128).findSome? fun c => (shifted cs c).filter fun xs => xs.all ok with
    | some xs => s.findRoom l k rest (m ++ xs)
    | none => none

/-- Places with the lowest free slots and new tags (R401). -/
def State.places (s : State) (k : Kept) (m : List (CoreRef × CoreRef)) : List Place :=
  k.cores.map fun kc =>
    let new := ((m.find? fun x => x.1 == kc.core).map (·.2)).getD kc.core
    let gs := (k.groups.filter fun g => g.coreRef == kc.core).map Group.slot
    let tags := (kc.cmds.map Cmd.tag ++ kc.rays.flatMap (fun y => [y.tag, y.trace]) ++ kc.batches.map Batch.tag).eraseDups
    { old := kc.core, new, slots := gs.zip (s.freeSlots new)
      tags := tags.mapIdx fun i t => (t, (s.core new).tag + BitVec.ofNat 32 i) }

/-! ### Putting everything back (R399, R401) -/

/-- The blocks of a core area by the groups that they belong to. -/
structure Parts where
  off   : Nat
  parts : List Nat
  cmds  : List Nat
  logs  : List (Nat × Nat)
  fifos : List (Nat × Nat)

/-- Blocks of `size` bytes for each entry behind a header, one after another. -/
def blocks (m head size : Nat) : Nat → Nat → List (Nat × Nat)
  | _, 0 => []
  | off, n + 1 =>
    let k := areaNum m (off + 4) 1
    let len := head + size * k
    (areaNum m off 4, areaNum m off len) :: blocks m head size (off + len) n

/-- Command descriptors, each with its captured registers. -/
def descriptors (m : Nat) : Nat → Nat → List Nat
  | _, 0 => []
  | off, n + 1 => let len := 128 + areaNum m (off + 44) 4; areaNum m off len :: descriptors m (off + len) n

/-- The parts of the core area at an offset of the whole area. -/
def partsAt (m off : Nat) : Parts :=
  let parts := (List.range 8).map fun i => off + areaNum m (off + 8 + 8 * i) 8
  let p (i : Nat) := (parts[i]?).getD 0
  { off, parts
    cmds := descriptors m (p 3) (areaNum m (off + 4) 2)
    logs := blocks m 8 288 (p 4) (areaNum m (off + 3) 1)
    fifos := blocks m 32 800 (p 5) (areaNum m (off + 6) 1) }

/-- Bytes of a core area up to its windows' end. -/
def windowsSize (ts : List Team) : Nat := (ts.map fun t => 128 + t.lsize + t.asize + t.wsize + t.csize).sum

/-- Core areas follow one another: those of a die's cores, then those of its formed groups, each of which has one window of
`slsz` bytes. -/
def areasFrom (m : Nat) (k : Kept) (slsz : Nat) : Nat → List (Option KeptCore) → List Parts
  | _, [] => []
  | off, u :: rest =>
    let p := partsAt m off
    let last := (p.parts[7]?).getD 0
    match u with
    | some kc =>
      let ts := k.teams.filter fun t => t.die == kc.core.die && t.core == kc.core.core
      p :: areasFrom m k slsz (last + windowsSize ts) rest
    | none => areasFrom m k slsz (last + 128 + slsz) rest

/-- The core areas in their order; none stands for a formed group. -/
def Kept.order (k : Kept) : List (Option KeptCore) :=
  [0, 1].flatMap fun d =>
    ((k.cores.filter fun kc => kc.core.die == d).map some) ++ (k.bins.filter (·.1 == d)).map fun _ => none

/-- The core areas of cores, or those of formed groups, in the order of what the device keeps. -/
def coreAreas (m : Nat) (k : Kept) (slsz : Nat) (formed : Bool) : List Parts :=
  ((k.order.zip (areasFrom m k slsz (bitsOf m 512 64) k.order)).filter fun x => x.1.isNone == formed).map (·.2)

/-- A store of bytes as memory. -/
def memOf (bs : List Byte) : Mem := (bs.mapIdx fun i b => (i, b)).filter fun c => c.2 != 0

/-- A team at its new core, with its windows from an offset of the area. -/
def teamBack (ps : List Place) (m off : Nat) (t : Team) : Team :=
  let win (o n : Nat) : Mem := memOf (leBytes n (areaNum m o n))
  let l := off + 128
  let a := l + t.lsize
  let w := a + t.asize
  let c := w + t.wsize
  { t with core := (newCore ps ⟨t.die, t.core⟩).core, root := (newCore ps ⟨t.die, t.root⟩).core
           l := win l t.lsize, a := win a t.asize, w := win w t.wsize, c := win c t.csize, errs := [] }

def teamsBack (ps : List Place) (m : Nat) : Nat → List Team → List Team
  | _, [] => []
  | off, t :: ts => teamBack ps m off t :: teamsBack ps m (off + windowsSize [t]) ts

/-- A barrier with the counts of its entry: what no group of `gs` has arrived for is an exit at the default count, an arrival of a
group that has left at an explicit one (R157, R399). -/
def Kept.barBack (k : Kept) (ps : List Place) (gs : List Group) (b : BarRef) (narr cnt : Nat) : Barrier :=
  let x := (k.bars.find? (·.ref == b)).getD ⟨b, 0, none, [], 0, 0, [], []⟩
  let here := (gs.filter fun g => g.arrived.contains (newBar ps b, k.phase b)).map Group.seat
  { ref := newBar ps b, phase := k.phase b, here
    count := if cnt = 0 then none else some cnt
    past := if cnt = 0 then 0 else narr - here.length
    gone := if cnt = 0 then narr - here.length else x.gone
    sent := x.sent.map fun a => { a with g := newRef ps a.g }, owed := x.owed }

/-- The barriers of a saved launch: of its teams, of its clusters at their roots, and of its grid (R399). -/
def Kept.refs (k : Kept) (l : Launch) : List BarRef :=
  (k.teams.flatMap fun t => (t.arrBits.map (·.1)).filter fun b =>
    match b with
    | .team .. => true
    | .cluster _ r _ => r == t.key
    | .grid _ => false) ++ if l.record.coop then [.grid l.key] else []

/-- NARR and CNT of a barrier: its entry in the block of its team's core area, or GARR for the grid's. -/
def barCounts (m : Nat) (k : Kept) (areas : List Parts) (b : BarRef) : Nat × Nat :=
  let find (c : CoreRef) (t i : Nat) : Nat × Nat :=
    let n := k.cores.findIdx fun kc => kc.core == c
    let ts := k.teams.filter fun u => u.die == c.die && u.core == c.core
    let off := (((areas[n]?).bind fun p => p.parts[6]?).getD 0) + 320 * (ts.findIdx fun u => u.key == t) + 16 * i
    (areaNum m off 4, areaNum m (off + 4) 2)
  match b with
  | .team c t id => find c t id.val
  | .cluster c t id => find c t (16 + id.val)
  | .grid _ => (bitsOf m 104 32, ((k.bars.find? (·.ref == b)).bind Barrier.count).getD 0)

/-- The barriers of a launch as they resume: those with a count, and those at which some group has arrived (R399). -/
def Kept.barsBack (k : Kept) (l : Launch) (m : Nat) (areas : List Parts) (ps : List Place) (gs : List Group) : List Barrier :=
  (k.refs l).filterMap fun b =>
    let c := barCounts m k areas b
    if c.1 ≠ 0 ∨ c.2 ≠ 0 ∨ (k.bars.any (·.ref == b)) ∨ gs.any (fun g => g.arrived.any (·.1 == newBar ps b)) then
      some (k.barBack ps gs b c.1 c.2)
    else none

/-- One core area comes back on its core: TT0, TT1, ACC, commands and lanes (R401). -/
def State.coreBack (s : State) (ps : List Place) (m : Nat) (kc : KeptCore) (a : Parts) (p : Place)
    (teams : List Team) : State :=
  let part (i : Nat) : Nat := (a.parts[i]?).getD 0
  let acc := part 2
  let cmds := kc.cmds.mapIdx fun i x => p.cmd ps x ((a.cmds[i]?).getD 0)
  let begin (y : RayLane) : RayLane :=
    let i := (kc.rays.filter (·.tag == y.tag)).findIdx fun z => z.lane == y.lane
    match cmds.find? (·.tag == p.tag y.tag) with
    | some x => y.recapture x i
    | none => y
  let rays := kc.rays.map fun y => match teams.find? (·.key == y.team) with
    | some t => p.ray ps t (begin y)
    | none => y
  let halted := kc.halted.map fun j =>
    let row := (((kc.cmds.find? (·.tag == j.tag)).bind Cmd.shape).map Shape.row).getD 0
    { j with tag := p.tag j.tag, kb := areaNum m (acc + 65536 + 4) 1,
             acc := j.acc.mapIdx fun i _ => BitVec.ofNat 32 (areaNum m (acc + 512 * row + 4 * i) 4) }
  (s.clearMatrix p.new).modCore p.new fun x =>
    { x with
      tag := x.tag + BitVec.ofNat 32 p.tags.length
      cmds := x.cmds ++ cmds, rays := x.rays ++ rays, sb := x.sb ++ kc.sb.map p.hold
      batches := x.batches ++ kc.batches.map (p.batch ps), l1 := []
      mx := { x.mx with tt0 := memOf (leBytes 24608 (areaNum m (part 0) 24608)), tt1 := memOf (leBytes 24608 (areaNum m (part 1) 24608))
                        errs := x.mx.errs.filter fun e => e != .tt 0 && e != .tt 1
                        halted := x.mx.halted ++ halted } }

/-- Groups of a kept launch in the order of their areas. -/
def Kept.areaOf (k : Kept) (g : Group) : Nat :=
  let before (c : CoreRef) : Nat := (k.bins.filter fun b => decide (b.1.val < c.die.val)).length
  k.groups.findIdx (fun h => h.ref == g.ref) + before g.coreRef

/-- No reserved field of the area is set (R401). -/
def areaOk (m : Nat) (k : Kept) (areas : List Parts) : Bool :=
  headerClean m && (piecesAt m 256 20480 (k.groups.length + k.bins.length)).all groupClean
    && areas.all fun a =>
      coreClean (areaNum m a.off 128) && a.cmds.all cmdClean
        && (a.logs.all fun b => (piecesAt b.2 8 288 (areaNum b.2 4 1)).all logClean)
        && (a.fifos.all fun b => fifoHeadClean b.2 && (piecesAt b.2 32 800 (areaNum b.2 4 1)).all fifoClean)
        && (piecesAt m ((a.parts[6]?).getD 0) 16 (20 * areaNum m (a.off + 2) 1)).all barClean

/-- The groups of the launch as they come back. -/
def groupsBack (m now : Nat) (k : Kept) (ps : List Place) (areas : List Parts) : List Group :=
  k.groups.filterMap fun g =>
    (ps.find? fun p => p.old == g.coreRef).map fun p =>
      let i := k.areaOf g
      let block (bs : Parts → List (Nat × Nat)) : Nat :=
        (((areas.flatMap bs).find? fun b => b.1 == i).map (·.2)).getD 0
      let area := areaNum m (256 + 20480 * i) 20480
      p.group now g area (k.arrivals ps g (areaNum area 0x98 8)) (block Parts.logs) (block Parts.fifos)

/-- A restored group goes on as after a park: a fault recorded while it stopped is taken first (R394). -/
def State.goOnGroup (s : State) (r : GroupRef) : State :=
  s.atGroup r fun s =>
    match s.g.run with
    | .parked b => s.boundary b
    | _ => s

/-- Place everything but the formed groups, in the order of R401. -/
def State.putBack (s : State) (l : Launch) (k : Kept) (m : Nat) (areas : List Parts) (ps : List Place) : State :=
  let teams := (k.cores.zip areas).flatMap fun x =>
    teamsBack ps m ((x.2.parts[7]?).getD 0) (k.teams.filter fun t => t.die == x.1.core.die && t.core == x.1.core.core)
  let gs := groupsBack m (s.die 0).clock k ps areas
  let bars := k.barsBack l m areas ps gs
  let s := ((k.cores.zip areas).zip ps).foldl (fun s x => s.coreBack ps m x.1.1 x.1.2 x.2 teams)
    { s with teams := s.teams ++ teams, bars := s.bars ++ bars }
  let s := { s with rest := s.rest ++ gs }
  let s := s.modLaunch l.key fun l => { l with phase := .running, kept := none }
  (gs.map Group.ref).foldl State.goOnGroup s

/-- The areas of formed groups: behind those of their die's groups. -/
def Kept.binAreas (k : Kept) : List Nat :=
  let g0 := (k.groups.filter (·.die == 0)).length
  let b0 := (k.bins.filter (·.1 == 0)).length
  k.bins.mapIdx fun i b => if b.1 = 0 then g0 + i else k.groups.length + b0 + (i - b0)

/-- A formed group goes as its area describes it, Placed, to the core where the gatherer would place it; none while no core has
room (R172, R401). -/
def State.formedBack (s : State) (l : Launch) (d : Fin 2) (b : Bin) (m i off : Nat) : Option State :=
  (s.spawnTarget d l).bind fun t =>
    let c : CoreRef := ⟨d, t.1⟩
    (s.freeSlots c).head?.map fun n =>
      let p : Place := ⟨⟨d, 0⟩, c, [], []⟩
      let g := l.spawnedGroup c n s.key (s.core c).grant (s.readTable l c) b 0
      let g := p.group (s.die 0).clock g (areaNum m (256 + 20480 * i) 20480) [] 0 0
      { s with teams := s.teams ++ [teamBack [p] m off (l.spawnTeam ⟨d, 0⟩ s.key t.2)], rest := s.rest ++ [g], key := s.key + 1 }

/-- The formed groups of an area, one after another. -/
def State.formedAll (s : State) (l : Launch) (k : Kept) (m : Nat) (formed : List Parts) : Option State :=
  ((k.bins.zip k.binAreas).zip formed).foldl (fun s x =>
    s.bind fun s => s.formedBack l x.1.1.1 x.1.1.2 m x.1.2 ((x.2.parts[7]?).getD 0)) (some s)

/-- RESTORE: refused with status 2 in the cases of R401; while no room is free it waits (R401, R417). -/
def execRestore (die : Fin 2) (rec' : BitVec 64) (s : State) : Host.Outcome State Fault Refusal :=
  .next (s.command die rec' 3 fun x =>
    let sva := x.addr'
    let total := s.mem.nat (sva + 72) 8
    let m := s.mem.nat sva total
    let ctx := BitVec.ofNat 12 (bitsOf m 340 12)
    let lid := BitVec.ofNat 32 (bitsOf m 352 32)
    let refused := s.endCmdRec die x.addr 2
    if !s.holdsRange sva 256 ∨ bitsOf m 0 8 ≠ 1 ∨ total < 256 ∨ !s.holdsRange sva total ∨ s.poisoned sva total
      ∨ (s.desc die ctx).valid = false then refused
    else
      match s.launches.find? fun l => l.ctx == ctx && l.record.lid == lid && l.phase == .saved with
      | none => refused
      | some l =>
        match l.kept with
        | none => refused
        | some k =>
          let areas := coreAreas m k (l.record.slsz * 4096) false
          let formed := coreAreas m k (l.record.slsz * 4096) true
          if !areaOk m k (areas ++ formed) then refused
          else
            match (s.findRoom l k k.sets []).bind fun room =>
              (s.putBack l k m areas (s.places k room)).formedAll l k m formed with
            | some s => s.endCmdRec die x.addr 1
            | none => s)

end Sys2Proof.Machine
end

