-- ==== Sys2Proof/Machine/Platform.lean ====
section
/-! DEFINITION. The management controllers: power, clocks and heat (R447 to R450), reset and boot (R451), attestation
(R452). -/

namespace Sys2Proof.Machine

/-! ### The arithmetic clock (R447, R448, R450) -/

/-- Steps of 50 MHz above 0.6 GHz at which both dies run: the lowest ceiling holds. -/
def Platform.steps (p : Platform) : Nat := min p.power.val (min (p.heat.get 0).val (p.heat.get 1).val)

/-- The arithmetic clock in MHz, of both dies. -/
def State.clockMHz (s : State) : Nat := 600 + 50 * s.plat.steps

def lower (n : Nat) : Fin 27 := Fin.ofNat 27 (n - 1)
def raise (n : Fin 27) : Fin 27 := if n.val < 26 then Fin.ofNat 27 (n.val + 1) else n

/-- One power sample: above PLIM in the mean of 10 ms the clock goes down by a step; with the mean below 95 % of PLIM for
10 ms it goes up by one (R448; notes/assumptions/45). -/
def execPowerSample (milliwatts : Nat) (s : State) : Host.Outcome State Fault Refusal :=
  .next (
    let p := s.plat
    let ws := (milliwatts :: p.watts).take 100
    let plim := 1000 * s.boot.plim.toNat
    let calm := if 100 * ws.sum < 95 * plim * ws.length then p.calm + 1 else 0
    let power := if plim * ws.length < ws.sum then lower p.steps else if 100 ≤ calm then raise p.power else p.power
    { s with plat := { p with watts := ws, calm, power } })

/-- The hottest reading of a die, once a millisecond (R450; notes/assumptions/45). -/
def execThermalStep (die : Fin 2) (centi : Nat) (s : State) : Host.Outcome State Fault Refusal :=
  .next (
    let p := s.plat
    let n := if centi < 9000 then p.cool.get die + 1 else 0
    let h := p.heat.get die
    let h := if 9500 ≤ centi then lower h.val else if 10 ≤ n then raise h else h
    let s := { s with plat := { p with
      hottest := p.hottest.set die centi, cool := p.cool.set die (if 10 ≤ n then 0 else n), heat := p.heat.set die h
      trip := p.trip || (decide (10500 < centi) && !s.inReset) } }
    if s.plat.trip then s.overheat else s)

/-! ### Clock gating (R449) -/

def execCoreClockGate (c : CoreRef) (s : State) : Host.Outcome State Fault Refusal :=
  .next (if 1024 ≤ (s.core c).idle ∧ s.coreIdle c then s.modCore c fun k => { k with gated := true } else s)

/-- A gated core wakes when a group is Ready, a command can start or a team stands Placed. -/
def execCoreWake (c : CoreRef) (s : State) : Host.Outcome State Fault Refusal :=
  .next (if (s.core c).gated ∧ (s.mustWake c ∨ s.placedOn c) then s.modCore c fun k => { k with gated := false, idle := 0 } else s)

/-! ### Reset and boot (R451) -/

/-- BOOTCFG as the 16 bytes of its record. -/
def BootCfg.bytes (b : BootCfg) : List Byte :=
  leBytes 16 (b.resLo.toNat + b.plim.toNat * 2 ^ 11 + b.wlu.toNat * 2 ^ 23 + b.ipart.toNat * 2 ^ 32
    + b.devnum.toNat * 2 ^ 40 + b.resHi.toNat * 2 ^ 52 + b.rta.toNat * 2 ^ 64)

/-- BOOTCFG from its record. -/
def bootCfg (raw : Nat) : BootCfg where
  rta := BitVec.ofNat 64 (bitsOf raw 64 64)
  resHi := BitVec.ofNat 12 (bitsOf raw 52 12)
  devnum := BitVec.ofNat 12 (bitsOf raw 40 12)
  ipart := BitVec.ofNat 8 (bitsOf raw 32 8)
  wlu := BitVec.ofNat 9 (bitsOf raw 23 9)
  plim := BitVec.ofNat 12 (bitsOf raw 11 12)
  resLo := BitVec.ofNat 11 (bitsOf raw 0 11)

/-- No reserved bit is set and every field is in its range. -/
def bootOk (b : BootCfg) : Bool :=
  b.resHi == 0 && b.resLo == 0 && decide (b.ipart.toNat ≤ 186) && decide (2 ≤ b.wlu.toNat ∧ b.wlu.toNat ≤ 256)
    && decide (600 ≤ b.plim.toNat ∧ b.plim.toNat ≤ 3600) && decide (Config.leastWlu b.rta ≤ b.wlu.toNat)

/-- Host memory as it stands when the caches are lost: a line dirty in L2 holds what the host has. -/
def State.hostMemory (s : State) : Mem :=
  let m := s.dirty.foldl (fun m l => m.copyFrom s.gddr (l.1 * 128) 128) s.mem
  m.filter fun c => decide (2 ^ 51 ≤ c.1 ∧ c.1 < 2 ^ 52)

/-- What a die's ROM reads from host memory: the firmware image, and BOOTCFG. -/
def bootRead (image : ImageSrc) (cfg : Nat) (m : Mem) : List Byte × BootCfg := (m.bytes image.addr image.len, bootCfg (m.nat cfg 16))

/-- Why a die stays in reset: its image's signature does not verify, or its BOOTCFG fails the check, by itself or in that DEVNUM or
IPART differs from the other die's. -/
def bootFails (d : Fin 2) (own other : List Byte × BootCfg) : Option ResetCause :=
  if !Config.imageSigned d own.1 then some .signature
  else if bootOk own.2 && own.2.devnum == other.2.devnum && own.2.ipart == other.2.ipart then none
  else some .config

/-- The device right after a module reset: device memory zero, caches, TLBs and tables empty, CLOCK 0; host memory, BOOTN,
the heat and the plan of what comes next stay. A die that stays in reset keeps its BOOTCFG and runs no image. -/
def State.rebooted (s : State) (read : Fin 2 → List Byte × BootCfg) (hold : Fin 2 → Option ResetCause) : State :=
  { State.reset with
    agenda := s.agenda
    mem := s.hostMemory
    poison := s.poison.filter fun l => decide (2 ^ 51 ≤ l * 128)
    boots := Vector.ofFn fun d => if (hold d).isNone then (read d).2 else s.boots.get d
    plat := { State.reset.plat with
      hottest := s.plat.hottest, bootn := s.plat.bootn + 1, signed := s.plat.signed, hold := Vector.ofFn hold
      images := Vector.ofFn fun d => if (hold d).isNone then (read d).1 else []
      refused := (List.finRange 2).filter fun d => hold d == some .signature }
    key := s.key }

/-- Module reset: each die reads its image and BOOTCFG from host memory, and verifies the image's signature, then BOOTCFG; a failure
holds it in reset, and that of a signature is reported. Dies held for heat are reset only once every reading is below 85 degrees (R450,
R451). -/
def execModuleReset (image0 image1 : ImageSrc) (cfgs : Vector Nat 2) (s : State) : Host.Outcome State Fault Refusal :=
  .next (
    if s.plat.hold.toList.contains (some .heat) ∧ s.plat.hottest.toList.any (fun t => decide (8500 ≤ t)) then s
    else
      let m := s.hostMemory
      let read (d : Fin 2) := bootRead (if d = 0 then image0 else image1) (cfgs.get d) m
      s.rebooted read fun d => bootFails d (read d) (read (otherDie d)))

/-! ### Attestation (R452) -/

/-- Bits [1279:0] of a report. -/
def State.reportBody (s : State) (die : Fin 2) (nonce : BitVec 384) : List Byte :=
  leBytes 48 (Config.sha384 (s.plat.images.get die)).toNat ++ leBytes 48 (Config.sha384 (BootCfg.bytes (s.boots.get die))).toNat
    ++ leBytes 48 nonce.toNat
    ++ leBytes 16 (s.boot.devnum.toNat * 2 ^ 12 + die.val * 2 ^ 24 + (Config.romVersion die).toNat * 2 ^ 32
        + s.plat.bootn.toNat * 2 ^ 64)

/-- R and S are big-endian. -/
def bigEndian (x : BitVec 384) : List Byte := (leBytes 48 x.toNat).reverse

/-- The report, with its signature, on the management port. -/
def execAttestationRequest (die : Fin 2) (nonce : BitVec 384) (s : State) : Host.Outcome State Fault Refusal :=
  .next (
    let body := s.reportBody die nonce
    let sig := Config.signature die body s.plat.signed
    { s with
      answer := some ⟨body ++ bigEndian sig.1 ++ bigEndian sig.2, false⟩
      plat := { s.plat with signed := s.plat.signed + 1 } })

end Sys2Proof.Machine
end

