-- ==== Sys2Proof/Machine/Dispatch.lean ====
section
/-! DEFINITION. One arm for each row of the table of operations (R49, 95_what_each_step_holds): what executing it does. -/

namespace Sys2Proof.Machine

def exec (i : Instr) (s : State) : Host.Outcome State Fault Refusal :=
  match i with
  | .sadd a0 => Sys2Proof.Machine.execSadd a0 s
  | .ssub a0 => Sys2Proof.Machine.execSsub a0 s
  | .smul a0 => Sys2Proof.Machine.execSmul a0 s
  | .smulh a0 => Sys2Proof.Machine.execSmulh a0 s
  | .smulhn a0 => Sys2Proof.Machine.execSmulhn a0 s
  | .sdiv a0 => Sys2Proof.Machine.execSdiv a0 s
  | .sdivn a0 => Sys2Proof.Machine.execSdivn a0 s
  | .srem a0 => Sys2Proof.Machine.execSrem a0 s
  | .sremn a0 => Sys2Proof.Machine.execSremn a0 s
  | .sand a0 => Sys2Proof.Machine.execSand a0 s
  | .sor a0 => Sys2Proof.Machine.execSor a0 s
  | .sxor a0 => Sys2Proof.Machine.execSxor a0 s
  | .sandn a0 => Sys2Proof.Machine.execSandn a0 s
  | .sshl a0 => Sys2Proof.Machine.execSshl a0 s
  | .sshr a0 => Sys2Proof.Machine.execSshr a0 s
  | .ssra a0 => Sys2Proof.Machine.execSsra a0 s
  | .srot a0 => Sys2Proof.Machine.execSrot a0 s
  | .smin a0 => Sys2Proof.Machine.execSmin a0 s
  | .smax a0 => Sys2Proof.Machine.execSmax a0 s
  | .sminn a0 => Sys2Proof.Machine.execSminn a0 s
  | .smaxn a0 => Sys2Proof.Machine.execSmaxn a0 s
  | .scmp a0 => Sys2Proof.Machine.execScmp a0 s
  | .ssel a0 => Sys2Proof.Machine.execSsel a0 s
  | .smov a0 => Sys2Proof.Machine.execSmov a0 s
  | .sli a0 => Sys2Proof.Machine.execSli a0 s
  | .sbfx a0 => Sys2Proof.Machine.execSbfx a0 s
  | .sbfi a0 => Sys2Proof.Machine.execSbfi a0 s
  | .spopc a0 => Sys2Proof.Machine.execSpopc a0 s
  | .sclz a0 => Sys2Proof.Machine.execSclz a0 s
  | .sctz a0 => Sys2Proof.Machine.execSctz a0 s
  | .sbrev a0 => Sys2Proof.Machine.execSbrev a0 s
  | .br a0 => Sys2Proof.Machine.execBr a0 s
  | .brc a0 => Sys2Proof.Machine.execBrc a0 s
  | .brz a0 => Sys2Proof.Machine.execBrz a0 s
  | .brnz a0 => Sys2Proof.Machine.execBrnz a0 s
  | .brmz a0 => Sys2Proof.Machine.execBrmz a0 s
  | .brma a0 => Sys2Proof.Machine.execBrma a0 s
  | .call a0 => Sys2Proof.Machine.execCall a0 s
  | .calli a0 => Sys2Proof.Machine.execCalli a0 s
  | .ret a0 => Sys2Proof.Machine.execRet a0 s
  | .jmpi a0 => Sys2Proof.Machine.execJmpi a0 s
  | .mset a0 => Sys2Proof.Machine.execMset a0 s
  | .mget a0 => Sys2Proof.Machine.execMget a0 s
  | .mand a0 => Sys2Proof.Machine.execMand a0 s
  | .mor a0 => Sys2Proof.Machine.execMor a0 s
  | .mandn a0 => Sys2Proof.Machine.execMandn a0 s
  | .mxor a0 => Sys2Proof.Machine.execMxor a0 s
  | .mpop a0 => Sys2Proof.Machine.execMpop a0 s
  | .mffs a0 => Sys2Proof.Machine.execMffs a0 s
  | .fmtset a0 => Sys2Proof.Machine.execFmtset a0 s
  | .fmtget a0 => Sys2Proof.Machine.execFmtget a0 s
  | .getsr a0 => Sys2Proof.Machine.execGetsr a0 s
  | .setsr a0 => Sys2Proof.Machine.execSetsr a0 s
  | .trap a0 => Sys2Proof.Machine.execTrap a0 s
  | .tret a0 => Sys2Proof.Machine.execTret a0 s
  | .bkpt a0 => Sys2Proof.Machine.execBkpt a0 s
  | .nop a0 => Sys2Proof.Machine.execNop a0 s
  | .pidle a0 => Sys2Proof.Machine.execPidle a0 s
  | .yield a0 => Sys2Proof.Machine.execYield a0 s
  | .sleep a0 => Sys2Proof.Machine.execSleep a0 s
  | .live a0 => Sys2Proof.Machine.execLive a0 s
  | .skipCode a0 => Sys2Proof.Machine.execSkipCode a0 s
  | .illegalInstruction a0 a1 => Sys2Proof.Machine.execIllegalInstruction a0 a1 s
  | .vadd a0 => Sys2Proof.Machine.execVadd a0 s
  | .vsub a0 => Sys2Proof.Machine.execVsub a0 s
  | .vmul a0 => Sys2Proof.Machine.execVmul a0 s
  | .vmulh a0 => Sys2Proof.Machine.execVmulh a0 s
  | .vmulhn a0 => Sys2Proof.Machine.execVmulhn a0 s
  | .vmad a0 => Sys2Proof.Machine.execVmad a0 s
  | .vand a0 => Sys2Proof.Machine.execVand a0 s
  | .vor a0 => Sys2Proof.Machine.execVor a0 s
  | .vxor a0 => Sys2Proof.Machine.execVxor a0 s
  | .vandn a0 => Sys2Proof.Machine.execVandn a0 s
  | .vshl a0 => Sys2Proof.Machine.execVshl a0 s
  | .vshr a0 => Sys2Proof.Machine.execVshr a0 s
  | .vsra a0 => Sys2Proof.Machine.execVsra a0 s
  | .vmin a0 => Sys2Proof.Machine.execVmin a0 s
  | .vmax a0 => Sys2Proof.Machine.execVmax a0 s
  | .vminn a0 => Sys2Proof.Machine.execVminn a0 s
  | .vmaxn a0 => Sys2Proof.Machine.execVmaxn a0 s
  | .vabs a0 => Sys2Proof.Machine.execVabs a0 s
  | .vaddsat a0 => Sys2Proof.Machine.execVaddsat a0 s
  | .vsubsat a0 => Sys2Proof.Machine.execVsubsat a0 s
  | .vcmp a0 => Sys2Proof.Machine.execVcmp a0 s
  | .vsel a0 => Sys2Proof.Machine.execVsel a0 s
  | .vmov a0 => Sys2Proof.Machine.execVmov a0 s
  | .vbfx a0 => Sys2Proof.Machine.execVbfx a0 s
  | .vbfi a0 => Sys2Proof.Machine.execVbfi a0 s
  | .vpopc a0 => Sys2Proof.Machine.execVpopc a0 s
  | .vclz a0 => Sys2Proof.Machine.execVclz a0 s
  | .vdot4 a0 => Sys2Proof.Machine.execVdot4 a0 s
  | .vmulw a0 => Sys2Proof.Machine.execVmulw a0 s
  | .vadd64 a0 => Sys2Proof.Machine.execVadd64 a0 s
  | .vfadd a0 => Sys2Proof.Machine.execVfadd a0 s
  | .vfsub a0 => Sys2Proof.Machine.execVfsub a0 s
  | .vfmul a0 => Sys2Proof.Machine.execVfmul a0 s
  | .vfma a0 => Sys2Proof.Machine.execVfma a0 s
  | .vfmin a0 => Sys2Proof.Machine.execVfmin a0 s
  | .vfmax a0 => Sys2Proof.Machine.execVfmax a0 s
  | .vfabs a0 => Sys2Proof.Machine.execVfabs a0 s
  | .vfneg a0 => Sys2Proof.Machine.execVfneg a0 s
  | .vfcmp a0 => Sys2Proof.Machine.execVfcmp a0 s
  | .vfrcp a0 => Sys2Proof.Machine.execVfrcp a0 s
  | .vfrsq a0 => Sys2Proof.Machine.execVfrsq a0 s
  | .vfsqrt a0 => Sys2Proof.Machine.execVfsqrt a0 s
  | .vfdiv a0 => Sys2Proof.Machine.execVfdiv a0 s
  | .vfexp2 a0 => Sys2Proof.Machine.execVfexp2 a0 s
  | .vflog2 a0 => Sys2Proof.Machine.execVflog2 a0 s
  | .vfsin a0 => Sys2Proof.Machine.execVfsin a0 s
  | .vfcos a0 => Sys2Proof.Machine.execVfcos a0 s
  | .vftanh a0 => Sys2Proof.Machine.execVftanh a0 s
  | .vfrnd a0 => Sys2Proof.Machine.execVfrnd a0 s
  | .vfclass a0 => Sys2Proof.Machine.execVfclass a0 s
  | .vhfma a0 => Sys2Proof.Machine.execVhfma a0 s
  | .vhadd a0 => Sys2Proof.Machine.execVhadd a0 s
  | .vhmul a0 => Sys2Proof.Machine.execVhmul a0 s
  | .vfdot2 a0 => Sys2Proof.Machine.execVfdot2 a0 s
  | .vcvt a0 => Sys2Proof.Machine.execVcvt a0 s
  | .vqnt a0 => Sys2Proof.Machine.execVqnt a0 s
  | .vdqnt a0 => Sys2Proof.Machine.execVdqnt a0 s
  | .vamax a0 => Sys2Proof.Machine.execVamax a0 s
  | .vpack a0 => Sys2Proof.Machine.execVpack a0 s
  | .vunpk a0 => Sys2Proof.Machine.execVunpk a0 s
  | .vlane a0 => Sys2Proof.Machine.execVlane a0 s
  | .vbcast a0 => Sys2Proof.Machine.execVbcast a0 s
  | .vshuf a0 => Sys2Proof.Machine.execVshuf a0 s
  | .vswz a0 => Sys2Proof.Machine.execVswz a0 s
  | .vscan a0 => Sys2Proof.Machine.execVscan a0 s
  | .vred a0 => Sys2Proof.Machine.execVred a0 s
  | .vballot a0 => Sys2Proof.Machine.execVballot a0 s
  | .vvote a0 => Sys2Proof.Machine.execVvote a0 s
  | .vrdlane a0 => Sys2Proof.Machine.execVrdlane a0 s
  | .vwrlane a0 => Sys2Proof.Machine.execVwrlane a0 s
  | .kop a0 => Sys2Proof.Machine.execKop a0 s
  | .kmov a0 => Sys2Proof.Machine.execKmov a0 s
  | .pset a0 => Sys2Proof.Machine.execPset a0 s
  | .pselk a0 => Sys2Proof.Machine.execPselk a0 s
  | .pget a0 => Sys2Proof.Machine.execPget a0 s
  | .lds a0 => Sys2Proof.Machine.execLds a0 s
  | .sts a0 => Sys2Proof.Machine.execSts a0 s
  | .ldv a0 => Sys2Proof.Machine.execLdv a0 s
  | .stv a0 => Sys2Proof.Machine.execStv a0 s
  | .ldl a0 => Sys2Proof.Machine.execLdl a0 s
  | .stl a0 => Sys2Proof.Machine.execStl a0 s
  | .lda a0 => Sys2Proof.Machine.execLda a0 s
  | .sta a0 => Sys2Proof.Machine.execSta a0 s
  | .ldc a0 => Sys2Proof.Machine.execLdc a0 s
  | .stc a0 => Sys2Proof.Machine.execStc a0 s
  | .ldro a0 => Sys2Proof.Machine.execLdro a0 s
  | .prf a0 => Sys2Proof.Machine.execPrf a0 s
  | .atoms a0 => Sys2Proof.Machine.execAtoms a0 s
  | .atomv a0 => Sys2Proof.Machine.execAtomv a0 s
  | .atoml a0 => Sys2Proof.Machine.execAtoml a0 s
  | .fence a0 => Sys2Proof.Machine.execFence a0 s
  | .sealPages a0 => Sys2Proof.Machine.execSealPages a0 s
  | .unseal a0 => Sys2Proof.Machine.execUnseal a0 s
  | .cflush a0 => Sys2Proof.Machine.execCflush a0 s
  | .cinv a0 => Sys2Proof.Machine.execCinv a0 s
  | .mma a0 => Sys2Proof.Machine.execMma a0 s
  | .mmas a0 => Sys2Proof.Machine.execMmas a0 s
  | .mmav a0 => Sys2Proof.Machine.execMmav a0 s
  | .mmab a0 => Sys2Proof.Machine.execMmab a0 s
  | .mtap a0 => Sys2Proof.Machine.execMtap a0 s
  | .mldt a0 => Sys2Proof.Machine.execMldt a0 s
  | .msort a0 => Sys2Proof.Machine.execMsort a0 s
  | .mzero a0 => Sys2Proof.Machine.execMzero a0 s
  | .mstat a0 => Sys2Proof.Machine.execMstat a0 s
  | .epi a0 => Sys2Proof.Machine.execEpi a0 s
  | .copyIn a0 => Sys2Proof.Machine.execCopyIn a0 s
  | .copyOut a0 => Sys2Proof.Machine.execCopyOut a0 s
  | .copyXs a0 => Sys2Proof.Machine.execCopyXs a0 s
  | .bseal a0 => Sys2Proof.Machine.execBseal a0 s
  | .waith a0 => Sys2Proof.Machine.execWaith a0 s
  | .testh a0 => Sys2Proof.Machine.execTesth a0 s
  | .canh a0 => Sys2Proof.Machine.execCanh a0 s
  | .movh a0 => Sys2Proof.Machine.execMovh a0 s
  | .qput a0 => Sys2Proof.Machine.execQput a0 s
  | .qget a0 => Sys2Proof.Machine.execQget a0 s
  | .waitv a0 => Sys2Proof.Machine.execWaitv a0 s
  | .waitw a0 => Sys2Proof.Machine.execWaitw a0 s
  | .bar a0 => Sys2Proof.Machine.execBar a0 s
  | .barc a0 => Sys2Proof.Machine.execBarc a0 s
  | .barg a0 => Sys2Proof.Machine.execBarg a0 s
  | .spawn a0 => Sys2Proof.Machine.execSpawn a0 s
  | .exit a0 => Sys2Proof.Machine.execExit a0 s
  | .lexit a0 => Sys2Proof.Machine.execLexit a0 s
  | .trace a0 => Sys2Proof.Machine.execTrace a0 s
  | .trres a0 => Sys2Proof.Machine.execTrres a0 s
  | .trstat a0 => Sys2Proof.Machine.execTrstat a0 s
  | .variableLatencyResult a0 a1 => Sys2Proof.Machine.execVariableLatencyResult a0 a1 s
  | .watchdogExpiry a0 => Sys2Proof.Machine.execWatchdogExpiry a0 s
  | .sleepExpiry a0 => Sys2Proof.Machine.execSleepExpiry a0 s
  | .collectiveTimeout a0 => Sys2Proof.Machine.execCollectiveTimeout a0 s
  | .preemptDeadline a0 => Sys2Proof.Machine.execPreemptDeadline a0 s
  | .coreClockGate a0 => Sys2Proof.Machine.execCoreClockGate a0 s
  | .coreWake a0 => Sys2Proof.Machine.execCoreWake a0 s
  | .storeFifoLeave a0 => Sys2Proof.Machine.execStoreFifoLeave a0 s
  | .storeReachL2 a0 a1 => Sys2Proof.Machine.execStoreReachL2 a0 a1 s
  | .atomicEngineService a0 a1 => Sys2Proof.Machine.execAtomicEngineService a0 a1 s
  | .cflushComplete a0 => Sys2Proof.Machine.execCflushComplete a0 s
  | .l2Writeback a0 a1 => Sys2Proof.Machine.execL2Writeback a0 a1 s
  | .l2Scrub a0 a1 a2 a3 => Sys2Proof.Machine.execL2Scrub a0 a1 a2 a3 s
  | .linkRetry a0 a1 => Sys2Proof.Machine.execLinkRetry a0 a1 s
  | .pageWalk a0 a1 => Sys2Proof.Machine.execPageWalk a0 a1 s
  | .faultRecordWrite a0 => Sys2Proof.Machine.execFaultRecordWrite a0 s
  | .pagerRetry a0 a1 => Sys2Proof.Machine.execPagerRetry a0 a1 s
  | .pagerDecline a0 a1 => Sys2Proof.Machine.execPagerDecline a0 a1 s
  | .launch a0 => Sys2Proof.Machine.execLaunch a0 s
  | .mwait a0 => Sys2Proof.Machine.execMwait a0 s
  | .mwaitPoll a0 => Sys2Proof.Machine.execMwaitPoll a0 s
  | .msignal a0 => Sys2Proof.Machine.execMsignal a0 s
  | .ticketTake a0 a1 => Sys2Proof.Machine.execTicketTake a0 a1 s
  | .ticketSteal a0 a1 => Sys2Proof.Machine.execTicketSteal a0 a1 s
  | .teamStart a0 a1 a2 => Sys2Proof.Machine.execTeamStart a0 a1 a2 s
  | .groupRetire a0 => Sys2Proof.Machine.execGroupRetire a0 s
  | .barrierArrivalCount a0 => Sys2Proof.Machine.execBarrierArrivalCount a0 s
  | .barrierRelease a0 => Sys2Proof.Machine.execBarrierRelease a0 s
  | .spawnRecordAccept a0 => Sys2Proof.Machine.execSpawnRecordAccept a0 s
  | .binTimerExpiry a0 a1 => Sys2Proof.Machine.execBinTimerExpiry a0 a1 s
  | .spawnedGroupPlace a0 => Sys2Proof.Machine.execSpawnedGroupPlace a0 s
  | .copyCommandStart a0 a1 => Sys2Proof.Machine.execCopyCommandStart a0 a1 s
  | .copyCommandEnd a0 a1 => Sys2Proof.Machine.execCopyCommandEnd a0 a1 s
  | .engineCancellation a0 a1 a2 => Sys2Proof.Machine.execEngineCancellation a0 a1 a2 s
  | .matrixCommandStart a0 a1 => Sys2Proof.Machine.execMatrixCommandStart a0 a1 s
  | .matrixKblockEnd a0 => Sys2Proof.Machine.execMatrixKblockEnd a0 s
  | .matrixCommandEnd a0 => Sys2Proof.Machine.execMatrixCommandEnd a0 s
  | .epilogueStart a0 a1 => Sys2Proof.Machine.execEpilogueStart a0 a1 s
  | .epilogueEnd a0 => Sys2Proof.Machine.execEpilogueEnd a0 s
  | .traceLaneStart a0 a1 a2 => Sys2Proof.Machine.execTraceLaneStart a0 a1 a2 s
  | .trresLaneResume a0 a1 a2 => Sys2Proof.Machine.execTrresLaneResume a0 a1 a2 s
  | .lanternFetch a0 a1 a2 => Sys2Proof.Machine.execLanternFetch a0 a1 a2 s
  | .lanternLoopStep a0 a1 a2 => Sys2Proof.Machine.execLanternLoopStep a0 a1 a2 s
  | .lanternParkPoll a0 a1 a2 => Sys2Proof.Machine.execLanternParkPoll a0 a1 a2 s
  | .traversalCommandEnd a0 a1 => Sys2Proof.Machine.execTraversalCommandEnd a0 a1 s
  | .qputRingWaitEnd a0 => Sys2Proof.Machine.execQputRingWaitEnd a0 s
  | .chainRecordStart a0 => Sys2Proof.Machine.execChainRecordStart a0 s
  | .chainRecordComplete a0 => Sys2Proof.Machine.execChainRecordComplete a0 s
  | .waitvWake a0 => Sys2Proof.Machine.execWaitvWake a0 s
  | .build a0 => Sys2Proof.Machine.execBuild a0 s
  | .skim a0 => Sys2Proof.Machine.execSkim a0 s
  | .switch a0 => Sys2Proof.Machine.execSwitch a0 s
  | .reclaim a0 => Sys2Proof.Machine.execReclaim a0 s
  | .reclaimPoll a0 => Sys2Proof.Machine.execReclaimPoll a0 s
  | .put a0 => Sys2Proof.Machine.execPut a0 s
  | .fwd a0 => Sys2Proof.Machine.execFwd a0 s
  | .signal a0 => Sys2Proof.Machine.execSignal a0 s
  | .allreduce a0 => Sys2Proof.Machine.execAllreduce a0 s
  | .allgather a0 => Sys2Proof.Machine.execAllgather a0 s
  | .flitAdmit a0 a1 => Sys2Proof.Machine.execFlitAdmit a0 a1 s
  | .wicklineFlitArrival a0 a1 a2 a3 => Sys2Proof.Machine.execWicklineFlitArrival a0 a1 a2 a3 s
  | .lamplighterAck a0 a1 => Sys2Proof.Machine.execLamplighterAck a0 a1 s
  | .collectiveAbort a0 a1 => Sys2Proof.Machine.execCollectiveAbort a0 a1 s
  | .windowBoundary => Sys2Proof.Machine.execWindowBoundary s
  | .waitwWake a0 => Sys2Proof.Machine.execWaitwWake a0 s
  | .ptpLock a0 => Sys2Proof.Machine.execPtpLock a0 s
  | .ptpLockLoss => Sys2Proof.Machine.execPtpLockLoss s
  | .hostWrite a0 a1 => Sys2Proof.Machine.execHostWrite a0 a1 s
  | .hostRead a0 a1 => Sys2Proof.Machine.execHostRead a0 a1 s
  | .peerWindowRead a0 a1 => Sys2Proof.Machine.execPeerWindowRead a0 a1 s
  | .registerWrite a0 a1 a2 => Sys2Proof.Machine.execRegisterWrite a0 a1 a2 s
  | .pgraWrite a0 a1 => Sys2Proof.Machine.execPgraWrite a0 a1 s
  | .pgrsWrite a0 a1 => Sys2Proof.Machine.execPgrsWrite a0 a1 s
  | .nstatClear a0 a1 => Sys2Proof.Machine.execNstatClear a0 a1 s
  | .nmaskWrite a0 a1 => Sys2Proof.Machine.execNmaskWrite a0 a1 s
  | .killLaunch a0 a1 => Sys2Proof.Machine.execKillLaunch a0 a1 s
  | .killContext a0 a1 => Sys2Proof.Machine.execKillContext a0 a1 s
  | .preempt a0 a1 => Sys2Proof.Machine.execPreempt a0 a1 s
  | .contextSave a0 => Sys2Proof.Machine.execContextSave a0 s
  | .restore a0 a1 => Sys2Proof.Machine.execRestore a0 a1 s
  | .tlbinv a0 a1 => Sys2Proof.Machine.execTlbinv a0 a1 s
  | .ctxinv a0 a1 => Sys2Proof.Machine.execCtxinv a0 a1 s
  | .chreset a0 a1 => Sys2Proof.Machine.execChreset a0 a1 s
  | .chstate a0 a1 => Sys2Proof.Machine.execChstate a0 a1 s
  | .powerSample a0 => Sys2Proof.Machine.execPowerSample a0 s
  | .thermalStep a0 a1 => Sys2Proof.Machine.execThermalStep a0 a1 s
  | .moduleReset a0 a1 a2 => Sys2Proof.Machine.execModuleReset a0 a1 a2 s
  | .attestationRequest a0 a1 => Sys2Proof.Machine.execAttestationRequest a0 a1 s
  | .hostSnoop a0 => Sys2Proof.Machine.execHostSnoop a0 s
  | .hcmdRefused a0 a1 => Sys2Proof.Machine.execHcmdRefused a0 a1 s
  | .peerWindowWrite a0 a1 => Sys2Proof.Machine.execPeerWindowWrite a0 a1 s

end Sys2Proof.Machine
end

