-- ==== Sys2Proof/Machine/Issue.lean ====
section
/-! DEFINITION. The issue choice of a core in a cycle (R105, R168 to R170), and what moves when no turn is planned
(notes/assumptions/1). -/

namespace Sys2Proof

/-- What a word takes when it issues: a unit of R168, or nothing at all for a skip code and PIDLE (R52, R105). -/
inductive IssueUnit where
  | free | scalar | vector | port
deriving DecidableEq, Repr

/-- UnitOf, by opcode (R168). -/
def Instr.unit (i : Instr) : IssueUnit :=
  match i with
  | .skipCode _ | .pidle _ => .free
  | i =>
    let op := (i.word.extractLsb' 6 8).toNat
    if op < 0x40 ∨ op = 0x90 ∨ op = 0x91 then .scalar else if op < 0xA0 then .vector else .port

end Sys2Proof

namespace Sys2Proof.Machine

/-- A unit has room in the cycle: two words for the scalar unit, and a vector pipe or the port where it is not held (R119, R140,
R143, R168). -/
def IssueCycle.room (q : IssueCycle) : IssueUnit → Bool
  | .free => true
  | .scalar => decide (q.scalar < 2)
  | .vector => decide ((q.pipes.filter (q.clk < ·)).length < 2)
  | .port => decide (q.port ≤ q.clk)

/-- A word takes its unit for `n` cycles. -/
def IssueCycle.take (q : IssueCycle) (u : IssueUnit) (n : Nat) : IssueCycle :=
  match u with
  | .free => q
  | .scalar => { q with scalar := q.scalar + 1 }
  | .vector => { q with pipes := q.pipes ++ [q.clk + n] }
  | .port => { q with port := q.clk + n }

/-- The distinct lines among the addresses of the lanes that execute (R140). -/
def Group.lineCount (g : Group) (gd : Guard) (c : Ctl) (a b : Operand) : Nat :=
  (((lanesOf (g.executing gd)).map fun i => lineOf (g.laneAddr c a b i).toNat).eraseDups).length

/-- Cycles for which a word holds its vector pipe or the port (R119, R140, R143). -/
def Group.occupancy (g : Group) (i : Instr) : Nat :=
  match i with
  | .vfrcp _ | .vfrsq _ | .vfexp2 _ | .vflog2 _ | .vfsin _ | .vfcos _ | .vftanh _ => 4
  | .vfdiv _ | .vfsqrt _ => 8
  | .vqnt x => if x.mx then 2 else 1
  | .vscan _ | .vred _ => 2
  | .ldv x => max 1 (g.lineCount x.g x.c x.a x.b)
  | .stv x => max 1 (g.lineCount x.g x.c x.a x.b)
  | _ => 1

/-- The group has not issued: it stands where it stood, stalled or parked before its word (R21, R22). -/
def Group.held (g h : Group) : Bool :=
  g.pc == h.pc && g.plane == h.plane && !h.fresh && g.spawnq == h.spawnq && (h.run == .ready || h.run == .parked .wait)

/-- The group has left an offset of a region at which no plane issued: that costs one opportunity (R105). -/
def State.emptyOffset (s t : State) : Bool := s.g.region.isSome && !s.g.issued && t.g.fresh

/-- The word of a group that is Ready issues once its operands are there: nothing stalls it, and it comes to more than a skip
code; its unit (R52, R105, R168). An offset at which no plane issues makes the group a candidate that needs no unit. -/
def State.ready? (t : State) : Option IssueUnit :=
  match t.issueNext false with
  | .none _ => none
  | .pass u => if t.emptyOffset u then some .free else none
  | .run (.skipCode _) _ => none
  | .run i u =>
    match exec i u with
    | .next v =>
      if i.unit = .free then if t.emptyOffset v then some .free else none
      else if u.g.held v.g then none else some i.unit
    | _ => none

/-- A group of the list has the turn before the focused one: it is a candidate of this cycle that its core has not chosen, of
lower grant and slot, and its unit is free (R168, R169). -/
def State.turnOf (s : State) (q : IssueCycle) (h : Group) : Bool :=
  h.coreRef == s.g.coreRef && h.run == .ready
    && decide (h.grant < s.g.grant ∨ (h.grant = s.g.grant ∧ h.slot < s.g.slot))
    && !q.slots.contains h.slot && !q.spent.contains h.slot && !q.unready.contains h.slot
    && match (s.focus h.ref).bind State.ready? with
       | some u => q.room u
       | none => false

/-- The core may choose the focused group now: four slots, the units, one word of a group in a cycle, and the order of grant and
slot among the candidates (R168, R169). Whether a word is fetched and its fixed-latency operands are available is timing,
which the agenda gives (notes/assumptions/101). -/
def State.mayChoose (s : State) (u : IssueUnit) : Bool :=
  let q := ((s.openCycle s.g.coreRef).core s.g.coreRef).issue
  let g := s.g
  !q.slots.contains g.slot && !q.spent.contains g.slot && !q.unready.contains g.slot
    && decide (q.slots.length < 4) && q.room u
    && (match q.last with
        | some l => decide (l.1 < g.grant ∨ (l.1 = g.grant ∧ l.2 < g.slot.val))
        | none => true)
    && !s.rest.any (s.turnOf q)

/-- The core chooses the focused group: its unit, for `n` cycles, and slot are taken, and its next grant is the last (R169). -/
def State.choose (s : State) (u : IssueUnit) (n : Nat) : State :=
  let s := s.openCycle s.g.coreRef
  let g := s.g
  { s.modCore g.coreRef fun k =>
      { k with issue := { k.issue.take u n with slots := k.issue.slots ++ [g.slot], last := some (g.grant, g.slot.val) } }
    with g := { g with issued := u != IssueUnit.free } }.regrant

/-- A group issues its next word, where one issues and its core chooses it (R168, R169). -/
def State.issueStep (s : State) (r : GroupRef) (old : Bool) : Host.Outcome State Fault Refusal :=
  match s.focus r with
  | none => .next s
  | some t =>
    let pass (u : State) : State := if t.emptyOffset u then if t.mayChoose .free then u.choose .free 0 else s else u
    match t.issueNext old with
    | .none u => .next u
    | .pass u => .next (pass u)
    | .run i u =>
      match i, i.unit with
      | .skipCode _, _ => exec i u
      | i, .free =>
        match exec i u with
        | .next v => .next (pass v)
        | o => o
      | i, k =>
        if !u.mayChoose k then .next s
        else
          match exec i (u.choose k (u.g.occupancy i)) with
          | .next v => if u.g.held v.g then exec i u else .next v
          | o => o

/-- The group is a candidate: its word is fetched, and nothing stalls it (R168). -/
def State.candidate (s : State) (g : Group) : Bool :=
  g.run == .ready && !((s.openCycle g.coreRef).core g.coreRef).issue.unready.contains g.slot
    && ((s.focus g.ref).bind State.ready?).isSome

/-- The first group of a list by grant, then by slot (R169). -/
def firstGrant : List Group → Option Group
  | [] => none
  | g :: gs =>
    match firstGrant gs with
    | none => some g
    | some h => if g.grant < h.grant ∨ (g.grant = h.grant ∧ g.slot ≤ h.slot) then some g else some h

/-- The kinds of turn that the device takes in rotation for a group when no turn is planned: its core's issue choice, or a
fetch for a group that is no candidate. -/
def State.rota (s : State) (g : Group) : List Act :=
  let r := g.ref
  let issue := match firstGrant (s.groups.filter fun h => h.coreRef == g.coreRef && s.candidate h) with
    | some h => [Act.issue h.ref false]
    | none => []
  let fetch := if g.run == .ready && !s.candidate g then [Act.issue r false] else []
  issue ++ fetch ++ [.event (.variableLatencyResult r 0), .event (.storeFifoLeave r),
    .event (.storeReachL2 ⟨r.die, r.core⟩ 0), .event (.pageWalk r.die 0), .event (.groupRetire r)]

/-- The turn taken when none is planned: the kinds in rotation by the clock, the groups in rotation behind them
(notes/assumptions/1). -/
def State.idleAct (s : State) : Option Act :=
  let n := (s.die 0).clock
  let gs := s.groups
  match gs[n / 7 % gs.length]? with
  | none => none
  | some g => let acts := s.rota g; acts[n % acts.length]?

end Sys2Proof.Machine
end

