-- ==== Sys2Proof/Machine/Step.lean ====
section
/-! DEFINITION. One step of the device: the turn that the agenda gives, or time passing (R11, R14, R168, R169;
notes/assumptions/1). -/

namespace Sys2Proof.Machine

/-- Whose turn it is does what it does. -/
def State.act (s : State) (a : Act) : Host.Outcome State Fault Refusal :=
  if !s.mayAct a then .next s
  else
  match a with
  | .issue r old => s.issueStep r old
  | .event i => if i.isStep then exec i s else .next s
  | a => .next (s.replace a)

/-- One step: the turn at the head of the agenda when it is due; else one cycle passes, unless a count has reached its
end. With no turn planned the device goes on by itself. -/
def step (s : State) : Host.Outcome State Fault Refusal :=
  match s.agenda with
  | [] =>
    match s.due with
    | some i => exec i s
    | none =>
      match s.elapse.idleAct with
      | some a => s.elapse.act a
      | none => .next s.elapse
  | ⟨0, a⟩ :: rest => { s with agenda := rest }.act a
  | ⟨n + 1, a⟩ :: rest =>
    match s.due with
    | some i => exec i s
    | none => .next { s with agenda := ⟨n, a⟩ :: rest }.elapse

/-- The state with an instruction stored where step fetches next: the focused group is Ready at offset 0 of a code
segment at virtual address 0, mapped to the first page of die 0, and its turn comes next. -/
def State.withFetchWord (s : State) (nbits w : Nat) : State :=
  let g := { s.g with
    run := .ready, pc := 0, plane := 0, fresh := true, issued := false, cbase := 0, csize := 32, regions := [], settled := false, spawnq := [] }
  let code := leBytes 16 (w % 2 ^ nbits)
  let e : TlbEntry := { ctx := g.ctx, sz := 0, va := 0, pa := 0, x := true, w := false, r := false }
  let s := (s.modCore g.coreRef fun k =>
    { k with
      itlb := e :: k.itlb, gated := false
      issue := { k.issue with scalar := 0, pipes := [], port := 0, slots := [], last := none, spent := [], unready := [] } }).dropRequests
      (Requester.ofGroups [g.ref])
  { s with
    g := g
    plat := { s.plat with hold := Vector.replicate 2 none }
    agenda := [⟨0, .issue g.ref false⟩]
    poison := s.poison.filter (· != 0)
    launches := s.launches.map fun l => if l.key = g.launch then { l with code := l.code.writes 0 code } else l
    mem := s.mem.writes 0 code }

end Sys2Proof.Machine
end

