-- ==== Sys2Proof/WellFormed.lean ====
section
/-! DEFINITION. Which instructions a word can hold (R34 to R52): operand kinds, types, reserved values, lengths and the
fields that an entry leaves unused, said on the syntax alone and not through the decoder. -/

namespace Sys2Proof

/-! ### Lengths, literals and operands -/

/-- What stands above bit 63 lies within the form's length (R15, R37). -/
def Ctl.wfLit (c : Ctl) : Bool :=
  match c.len with
  | .l64 => c.lit == 0
  | .l96 => c.lit.extractLsb' 32 32 == 0
  | .l128 => true

/-- A literal form names its literal in one of its sources, and LIT64 only where the class has it (R44, R45). -/
def Ctl.wfSrcs (c : Ctl) (wide : Bool) (srcs : List Operand) : Bool :=
  c.wfLit && match c.len with
    | .l64 => true
    | .l96 => srcs.contains .lit32
    | .l128 => wide && srcs.contains .lit64

/-- 64 bits only, as branches have it (R44). -/
def Ctl.wf64 (c : Ctl) : Bool := c.len == .l64 && c.lit == 0

/-- Classes 6 and 7: 64 bits, or 128 bits where the entry has an extension; no 96-bit form (R44). -/
def Ctl.wfExt (c : Ctl) (ext : Bool) : Bool := c.wf64 || (ext && c.len == .l128)

/-- An operand can stand in a word of this length under an allocation (R39, R40). -/
def Operand.wf (valloc : Nat) (c : Ctl) : Operand → Bool
  | .v n => decide (n.val < valloc)
  | .lit32 => c.len == .l96
  | .lit64 => c.len == .l128
  | _ => true

/-- A V destination or source: within the allocation, an even register for a pair (R40). -/
def wfV (valloc : Nat) (pair : Bool) (n : Fin 128) : Bool := decide (n.val < valloc) && (!pair || n.val % 2 == 0)

/-- The V register of an operand is even where it names a pair (R40). -/
def Operand.evenPair (pair : Bool) : Operand → Bool
  | .v n => !pair || n.val % 2 == 0
  | _ => true

/-- A lane source of class 2 or 4 (R116, R142), and of class 3 (R116). -/
def Operand.wfLane (valloc : Nat) (c : Ctl) (wide : Bool) (o : Operand) : Bool :=
  (o.isV || o.isSImm32 || o == .pln || o == .laneid || (wide && o == .lit64)) && o.wf valloc c && o.evenPair wide
/-- A source of VADD64 (R126). -/
def Operand.wfPair (valloc : Nat) (c : Ctl) (o : Operand) : Bool :=
  (o.isV || o.isSImm) && o.wf valloc c && o.evenPair true
def Operand.wfFloat (valloc : Nat) (c : Ctl) (o : Operand) : Bool := (o.isV || o.isSImm32) && o.wf valloc c

/-- A uniform source: S, inline, LIT32 (R150), with LIT64 for the offsets of class 5 (R217). -/
def Operand.wfUni (c : Ctl) (o : Operand) : Bool := o.isSImm32 && o.wf 128 c
def Operand.wfSImm (c : Ctl) (o : Operand) : Bool := o.isSImm && o.wf 128 c

/-- Data of a once-per-group store or atomic (R41, R217). -/
def Operand.wfDataS (c : Ctl) (ty : Ty) (o : Operand) : Bool := (o.isSImm32 || (ty.takesLit64 && o == .lit64)) && o.wf 128 c

/-- A mask source (R68, R154), and a destination that is S or K. -/
def Operand.wfMask (c : Ctl) (o : Operand) : Bool := maskSrc o && o.wf 128 c
def Operand.isSK (o : Operand) : Bool := o.isS || o.isK

/-! ### Classes 0 and 1 -/

def Operand.wfScalar (c : Ctl) (ty : Ty) (whole : Bool) (o : Operand) : Bool := scalarSrc ty whole o && o.wf 128 c

/-- `whole` for the shifts and bit fields, whose B takes LIT64 under every type (R57). -/
def SInt.wf (whole : Bool) (x : SInt) : Bool :=
  x.c.wfSrcs true [x.a, x.b] && x.ty.isScalar && x.a.wfScalar x.c x.ty false && x.b.wfScalar x.c x.ty whole
def SUnary.wf (x : SUnary) : Bool := x.c.wfSrcs true [x.a] && x.ty.isScalar && x.a.wfScalar x.c x.ty false
def SCompare.wf (x : SCompare) : Bool :=
  x.c.wfSrcs true [x.a, x.b] && x.ty.isScalar && x.a.wfScalar x.c x.ty false && x.b.wfScalar x.c x.ty false
def SSelect.wf (x : SSelect) : Bool :=
  x.c.wfSrcs true [x.a, x.b] && x.ty.isScalar && x.a.wfScalar x.c x.ty false && x.b.wfScalar x.c x.ty false
def SInsert.wf (x : SInsert) : Bool := x.c.wfSrcs true [x.a] && x.a.wfUni x.c

/-- `ok` tells the register tested or linked (R65). -/
def Branch.wf (ok : Operand → Bool) (x : Branch) : Bool := x.c.wf64 && ok x.r
def Jump.wf (ok : Operand → Bool) (x : Jump) : Bool := x.c.wfSrcs true [x.a] && ok x.a && x.a.wf 128 x.c
def MaskOp.wf (ok : Operand → Bool) (x : MaskOp) : Bool := x.c.wfSrcs true [x.m] && ok x.d && x.m.wfMask x.c
def MaskGet.wf (x : MaskGet) : Bool := x.c.wf64 && x.d.isSK
def TrapArgs.wf (x : TrapArgs) : Bool :=
  match x.a with
  | none => x.c.wf64
  | some o => x.c.wfSrcs true [o] && o.wfSImm x.c
/-- NOP has COND among the fields that are zero (R72). -/
def Plain.wfNop (x : Plain) : Bool := x.c.wf64 && x.cond == .al
/-- EXIT and LEXIT have SP zero (R160, R161). -/
def Ctl.wfExit (c : Ctl) : Bool := c.wf64 && !c.sp
/-- PIDLE takes any length, with SW and SP zero (R72). -/
def Ctl.wfPidle (c : Ctl) : Bool := c.wfLit && !c.sw && !c.sp

/-! ### Classes 2 and 3 -/

/-- `dw` and `sw`: the destination and the sources are pairs (R120). -/
def VBinary.wf (vl : Nat) (tys : Ty → Bool) (dw sw : Bool) (x : VBinary) : Bool :=
  x.c.wfSrcs sw [x.a, x.b] && tys x.ty && wfV vl dw x.d
    && if sw then x.a.wfPair vl x.c && x.b.wfPair vl x.c else x.a.wfLane vl x.c false && x.b.wfLane vl x.c false
def VTernary.wf (vl : Nat) (x : VTernary) : Bool :=
  x.c.wfSrcs false [x.a, x.b, x.cc] && x.ty.isW32 && wfV vl false x.d && x.a.wfLane vl x.c false
    && x.b.wfLane vl x.c false && x.cc.wfLane vl x.c false
def VUnary.wf (vl : Nat) (tys : Ty → Bool) (x : VUnary) : Bool :=
  let wide := x.ty == .b64
  x.c.wfSrcs wide [x.a] && tys x.ty && wfV vl wide x.d && x.a.wfLane vl x.c wide
def VAbs.wf (vl : Nat) (x : VAbs) : Bool :=
  x.c.wfSrcs false [x.a] && x.ty.isAbsType && wfV vl false x.d && x.a.wfLane vl x.c false
/-- CC of VCMP is below 6 (R124). -/
def VCompare.wf (vl : Nat) (x : VCompare) : Bool :=
  x.c.wfSrcs false [x.a, x.b] && x.ty.isW32 && decide (x.cc.val < 6) && x.a.wfLane vl x.c false
    && x.b.wfLane vl x.c false
def VSelect.wf (vl : Nat) (x : VSelect) : Bool :=
  x.c.wfSrcs false [x.a, x.b] && x.ty.isW32 && wfV vl false x.d && x.a.wfLane vl x.c false && x.b.wfLane vl x.c false
def VDot.wf (vl : Nat) (x : VDot) : Bool :=
  x.c.wfSrcs false [x.a, x.b, x.cc] && (x.ty == .s8 || x.ty == .n8) && wfV vl false x.d && x.a.wfLane vl x.c false
    && x.b.wfLane vl x.c false && x.cc.wfLane vl x.c false
def VFBinary.wf (vl : Nat) (tys : Ty → Bool) (x : VFBinary) : Bool :=
  x.c.wfSrcs false [x.a, x.b] && tys x.ty && wfV vl false x.d && x.a.wfFloat vl x.c && x.b.wfFloat vl x.c
def VFTernary.wf (vl : Nat) (tys : Ty → Bool) (x : VFTernary) : Bool :=
  x.c.wfSrcs false [x.a, x.b, x.cc] && tys x.ty && wfV vl false x.d && x.a.wfFloat vl x.c && x.b.wfFloat vl x.c
    && x.cc.wfFloat vl x.c
def VFUnary.wf (vl : Nat) (x : VFUnary) : Bool :=
  x.c.wfSrcs false [x.a] && x.ty.isLaneFloat && wfV vl false x.d && x.a.wfFloat vl x.c
def VUnary.wfFloat (vl : Nat) (x : VUnary) : Bool :=
  x.c.wfSrcs false [x.a] && x.ty.isLaneFloat && wfV vl false x.d && x.a.wfFloat vl x.c
def VFMinMax.wf (vl : Nat) (x : VFMinMax) : Bool :=
  x.c.wfSrcs false [x.a, x.b] && x.ty.isLaneFloat && wfV vl false x.d && x.a.wfFloat vl x.c && x.b.wfFloat vl x.c
def VCompare.wfFloat (vl : Nat) (x : VCompare) : Bool :=
  x.c.wfSrcs false [x.a, x.b] && x.ty.isLaneFloat && x.a.wfFloat vl x.c && x.b.wfFloat vl x.c

/-! ### Class 4 -/

def Convert.wf (vl : Nat) (x : Convert) : Bool :=
  x.c.wfSrcs false [x.a] && x.ty.inSetC && x.ty2.inSetC && wfV vl false x.d && x.a.wfLane vl x.c false
/-- In mode 1 B is absent and SAT zero; VDQNT has no SAT (R145, R146). -/
def Quant.wf (vl : Nat) (satUsed : Bool) (x : Quant) : Bool :=
  wfV vl false x.d && x.a.wfLane vl x.c false && match x.b with
    | none => x.mx && x.c.wfSrcs false [x.a] && x.ty.isMx && !x.sat
    | some b => !x.mx && x.c.wfSrcs false [x.a, b] && x.ty.isQuant && (satUsed || !x.sat) && b.wfLane vl x.c false
def Pack.wf (vl : Nat) (t1 t2 : Ty → Bool) (x : Pack) : Bool :=
  x.c.wfSrcs false [x.a, x.b] && t1 x.ty && t2 x.ty2 && wfV vl false x.d && x.a.wfLane vl x.c false
    && x.b.wfLane vl x.c false
def Permute.wf (vl : Nat) (perLane : Bool) (x : Permute) : Bool :=
  x.c.wfSrcs false [x.b] && wfV vl false x.d && wfV vl false x.a && (x.b.isSImm32 || (perLane && x.b.isV))
    && x.b.wf vl x.c
def LaneMove.wf (vl : Nat) (x : LaneMove) : Bool :=
  x.c.wfSrcs false [x.b] && wfV vl false x.d && wfV vl false x.a && x.b.wfUni x.c
/-- RM only for ADD of .f32, EXCL only for VSCAN (R141, R152). -/
def Reduce.wf (vl : Nat) (scan : Bool) (x : Reduce) : Bool :=
  x.c.wfSrcs false [x.a] && x.op.accepts x.ty && (scan || !x.excl) && ((x.op == .add && x.ty == .f32) || x.rm == .dyn)
    && wfV vl false x.d && x.a.wfLane vl x.c false
def Ballot.wf (vl : Nat) (x : Ballot) : Bool :=
  x.c.wfSrcs false [x.a] && (x.d.isV || x.d.isK) && x.d.wf vl x.c && x.a.wfLane vl x.c false
def Vote.wf (vl : Nat) (x : Vote) : Bool :=
  x.c.wfSrcs false [x.a] && (x.d.isV || x.d.isS) && x.d.wf vl x.c && x.a.wfLane vl x.c false
def ReadLane.wf (vl : Nat) (x : ReadLane) : Bool := x.c.wfSrcs false [x.b] && wfV vl false x.a && x.b.wfUni x.c
def WriteLane.wf (vl : Nat) (x : WriteLane) : Bool :=
  x.c.wfSrcs false [x.a, x.b] && wfV vl false x.d && x.a.wfUni x.c && x.b.wfUni x.c
def KOpArgs.wf (x : KOpArgs) : Bool :=
  x.c.wfSrcs false [x.a, x.b] && x.d.isSK && x.a.wfMask x.c && x.b.wfMask x.c
def KMovArgs.wf (x : KMovArgs) : Bool := x.c.wfSrcs false [x.a] && x.d.isSK && x.a.wfMask x.c
def PSetArgs.wf (vl : Nat) (x : PSetArgs) : Bool := x.c.wfSrcs false [x.a] && x.a.wfLane vl x.c false
def PGetArgs.wf (vl : Nat) (x : PGetArgs) : Bool :=
  x.c.wf64 && match x.d with
    | .v n => wfV vl false n
    | .k _ _ => true

/-! ### Class 5 -/

/-- SCO within the codes accepted, and group scope for a relaxed access (R136, R215). -/
def wfOrder (sco : Scope) (ord : Ord) (max : Nat) (ords : List Ord) : Bool :=
  decide (sco.code.toNat ≤ max) && ords.contains ord && (sco == .grp || ord != .relaxed)

/-- Base and offset of a lane access to global memory (R136). -/
def wfAddrV (vl : Nat) (c : Ctl) (a b : Operand) : Bool :=
  (a.isS || a.isV) && a.wf vl c && a.evenPair true && (b.isV || b.isSImm) && b.wf vl c
/-- Base and offset of an access to a typed store (R217). -/
def wfAddrL (vl : Nat) (c : Ctl) (a b : Operand) : Bool :=
  (a.isS || a.isV) && a.wf vl c && (b.isV || b.isSImm32) && b.wf vl c
/-- Data of a lane store or atomic (R136, R217). -/
def wfData (vl : Nat) (c : Ctl) (ty : Ty) (wide : Bool) (o : Operand) : Bool :=
  (o.isV || o.isSImm32 || (wide && o == .lit64)) && o.wf vl c && o.evenPair ty.isWide
/-- A V destination, or S in the scalar form, with guard 0b0000 and no V operand (R221). -/
def wfDestL (vl : Nat) (ty : Ty) (scalar : Bool) (g : Guard) (d a b : Operand) : Bool :=
  match d with
  | .v n => wfV vl ty.isWide n
  | .s _ => scalar && g == ⟨0, false⟩ && !a.isV && !b.isV
  | _ => false

def SLoad.wf (x : SLoad) : Bool :=
  x.c.wfSrcs true [x.b] && x.ty.isLoad && wfOrder x.sco x.ord 5 [.relaxed, .acq] && x.b.wfSImm x.c
def SStore.wf (x : SStore) : Bool :=
  x.c.wfSrcs true [x.b, x.data] && x.ty.isLoad && wfOrder x.sco x.ord 5 [.relaxed, .rel] && x.b.wfSImm x.c
    && x.data.wfDataS x.c x.ty
def VLoad.wfGlobal (vl : Nat) (x : VLoad) : Bool :=
  x.c.wfSrcs true [x.b] && x.ty.isLoad && wfOrder x.sco x.ord 5 [.relaxed, .acq]
    && wfDestL vl x.ty false x.g x.d x.a x.b && wfAddrV vl x.c x.a x.b
/-- LDL has a scalar form; LDA and LDC have none (R221). -/
def VLoad.wfTyped (vl : Nat) (tys : Ty → Bool) (form : Bool) (x : VLoad) : Bool :=
  x.c.wfSrcs true [x.b] && tys x.ty && wfOrder x.sco x.ord 1 [.relaxed, .acq] && x.cp == .ca
    && wfDestL vl x.ty form x.g x.d x.a x.b && wfAddrL vl x.c x.a x.b
/-- LDRO has no SCO, ORD and CP (R222). -/
def VLoad.wfReadOnly (vl : Nat) (x : VLoad) : Bool :=
  x.c.wfSrcs true [x.b] && x.ty.isLoad && x.sco == .grp && x.ord == .relaxed && x.cp == .ca
    && wfDestL vl x.ty true x.g x.d x.a x.b && wfAddrV vl x.c x.a x.b
def VStore.wfGlobal (vl : Nat) (x : VStore) : Bool :=
  x.c.wfSrcs true [x.b, x.data] && x.ty.isLoad && wfOrder x.sco x.ord 5 [.relaxed, .rel] && wfAddrV vl x.c x.a x.b
    && wfData vl x.c x.ty false x.data
def VStore.wfTyped (vl : Nat) (tys : Ty → Bool) (x : VStore) : Bool :=
  x.c.wfSrcs true [x.b, x.data] && tys x.ty && wfOrder x.sco x.ord 1 [.relaxed, .rel] && x.cp == .ca
    && wfAddrL vl x.c x.a x.b && wfData vl x.c x.ty false x.data
def Prefetch.wf (x : Prefetch) : Bool := x.c.wfSrcs true [x.b] && x.cp != .cs && x.b.wfSImm x.c
/-- CAS returns its value (R225). -/
def SAtomic.wf (x : SAtomic) : Bool :=
  x.c.wfSrcs true [x.b, x.data] && x.aop.accepts x.ty && wfOrder x.sco x.ord 5 Ord.all
    && (x.d.isSome || x.aop != .cas) && x.b.wfSImm x.c && x.data.wfDataS x.c x.ty
def wfAtomDest (vl : Nat) (aop : Aop) (ty : Ty) : Option (Fin 128) → Bool
  | none => aop != .cas
  | some n => wfV vl ty.isWide n
def VAtomic.wfGlobal (vl : Nat) (x : VAtomic) : Bool :=
  x.c.wfSrcs true [x.b, x.data] && x.aop.accepts x.ty && wfOrder x.sco x.ord 5 Ord.all && wfAtomDest vl x.aop x.ty x.d
    && wfAddrV vl x.c x.a x.b && wfData vl x.c x.ty x.ty.takesLit64 x.data
def VAtomic.wfTyped (vl : Nat) (x : VAtomic) : Bool :=
  x.c.wfSrcs true [x.b, x.data] && x.aop.accepts x.ty && wfOrder x.sco x.ord 1 Ord.all && wfAtomDest vl x.aop x.ty x.d
    && wfAddrL vl x.c x.a x.b && wfData vl x.c x.ty false x.data
/-- A fence orders something (R227). -/
def FenceArgs.wf (x : FenceArgs) : Bool := x.c.wf64 && x.ord != .relaxed
def SealArgs.wf (x : SealArgs) : Bool :=
  x.c.wfSrcs true [x.a, x.b] && (x.a.isS || x.a == .small 0 || x.a == .lit32 || x.a == .lit64) && x.a.wf 128 x.c
    && x.b.wfUni x.c

/-! ### Classes 6 and 7 -/

/-- An offset that the 128-bit form moves into EXT (R298). -/
def wfOffExt (c : Ctl) : Option Operand → Bool
  | none => c.len == .l128
  | some o => c.len == .l64 && o.isOff

/-- EXT of a block command: reserved bits, and the offsets that the command does not have (R298). -/
def Ctl.wfBlock (c : Ctl) (boff aoff : Bool) : Bool :=
  c.wfExt true && (c.len == .l64 || (c.lit.extractLsb' 50 14 == 0 && (boff || c.lit.extractLsb' 21 21 == 0)
    && (aoff || c.lit.extractLsb' 0 21 == 0)))

def MmaArgs.wf (x : MmaArgs) : Bool := x.c.wfBlock true true && wfOffExt x.c x.a && wfOffExt x.c x.b && wfOffExt x.c x.kb
def MmavArgs.wf (vl : Nat) (x : MmavArgs) : Bool :=
  x.c.wfBlock true false && wfV vl false x.a && wfOffExt x.c x.b && wfOffExt x.c x.kb
def MtapArgs.wf (x : MtapArgs) : Bool := x.c.wfBlock false true && wfOffExt x.c x.a && wfOffExt x.c x.kb
def MstatArgs.wf (x : MstatArgs) : Bool :=
  x.c.wf64 && x.a.isOff && match x.sel with
    | .rsf q => q.isOff
    | _ => true
def CopyArgs.wfIn (x : CopyArgs) : Bool := x.c.wf64 && x.st != .c && x.off.isOff
/-- The W-store is no source (R260). -/
def CopyArgs.wfOut (x : CopyArgs) : Bool := x.c.wf64 && (x.st == .l || x.st == .a) && x.off.isOff
def CopyXsArgs.wf (x : CopyXsArgs) : Bool :=
  x.c.wf64 && x.dst != .c && (x.src == .l || x.src == .a) && x.so.isOff && x.bytes.isOff && x.doff.isOff
def WaitWArgs.wf (x : WaitWArgs) : Bool := x.c.wfExt true && wfOffExt x.c x.n
/-- Ids and counts (R156). -/
def BarArgs.wf (ids : Nat) (counted : Bool) (x : BarArgs) : Bool :=
  x.c.wf64 && decide (x.id.val < ids) && match x.count with
    | none => true
    | some o => counted && (o.isS || o.isInline)
/-- 14 consecutive registers (R159). -/
def SpawnArgs.wf (vl : Nat) (x : SpawnArgs) : Bool :=
  x.c.wf64 && decide (x.a.val + 13 < vl) && (x.b.isV || x.b.isS || x.b.isInline) && x.b.wf vl x.c
/-- EXT of TRACE holds a 56-bit table address (R357). -/
def TraceArgs.wf (vl : Nat) (x : TraceArgs) : Bool :=
  x.c.wfExt true && wfV vl false x.d && wfV vl false x.a && x.base.isOff && match x.table with
    | none => x.c.len == .l128 && x.c.lit.extractLsb' 56 8 == 0
    | some _ => x.c.len == .l64
/-- An operand field that must be a register or constant other than V0, since 0x00 is "absent" (R38). -/
def wfOpt (vl : Nat) (c : Ctl) (ok : Operand → Bool) : Option Operand → Bool
  | none => true
  | some o => ok o && o.wf vl c && o != .v 0
/-- t only for SHORT and COMMIT, attributes only for COMMIT (R356). -/
def TrresArgs.wf (vl : Nat) (x : TrresArgs) : Bool :=
  x.c.wf64 && wfV vl false x.d && x.base.isOff && wfOpt vl x.c (fun o => o.isV || o.isS || o.isInline) x.t
    && wfOpt vl x.c (fun o => o.isV || o.isS) x.uv
    && (x.t.isNone || x.mode == .short || x.mode == .commit) && (x.uv.isNone || x.mode == .commit)
def TrstatArgs.wf (vl : Nat) (x : TrstatArgs) : Bool :=
  x.c.wf64 && match x.d with
    | .v n => wfV vl false n
    | .k _ _ => true

/-! ### All instructions -/

/-- The sub-causes that a word can have (R50). -/
def wfSub (sub : BitVec 8) : Bool := sub == 1 || sub == 2 || sub == 3 || sub == 4 || sub == 5 || sub == 8 || sub == 9

/-- An instruction that a word of a launch with `vl` V registers can hold; a step that is no word is always well
formed. -/
def Instr.wf (vl : Nat) : Instr → Bool
  | .sadd x => x.wf false
  | .ssub x => x.wf false
  | .smul x => x.wf false
  | .smulh x => x.wf false
  | .smulhn x => x.wf false
  | .sdiv x => x.wf false
  | .sdivn x => x.wf false
  | .srem x => x.wf false
  | .sremn x => x.wf false
  | .sand x => x.wf false
  | .sor x => x.wf false
  | .sxor x => x.wf false
  | .sandn x => x.wf false
  | .sshl x => x.wf true
  | .sshr x => x.wf true
  | .ssra x => x.wf true
  | .srot x => x.wf true
  | .smin x => x.wf false
  | .smax x => x.wf false
  | .sminn x => x.wf false
  | .smaxn x => x.wf false
  | .scmp x => x.wf
  | .ssel x => x.wf
  | .smov x => x.wf
  | .sli x => x.wf
  | .sbfx x => x.wf true
  | .sbfi x => x.wf true
  | .spopc x => x.wf
  | .sclz x => x.wf
  | .sctz x => x.wf
  | .sbrev x => x.wf
  | .br x => x.wf (· == .s 0)
  | .brc x => x.wf retSrc
  | .brz x => x.wf Operand.isS
  | .brnz x => x.wf Operand.isS
  | .brmz x => x.wf branchMask
  | .brma x => x.wf branchMask
  | .call x => x.wf (· == .s 0)
  | .calli x => x.wf Operand.isSImm
  | .ret x => x.wf retSrc
  | .jmpi x => x.wf Operand.isSImm
  | .mset x => x.wf Operand.isSK
  | .mget x => x.wf
  | .mand x => x.wf Operand.isSK
  | .mor x => x.wf Operand.isSK
  | .mandn x => x.wf Operand.isSK
  | .mxor x => x.wf Operand.isSK
  | .mpop x => x.wf Operand.isS
  | .mffs x => x.wf Operand.isS
  | .fmtset x => x.c.wfSrcs true [x.a] && x.a.wfUni x.c
  | .fmtget x => x.c.wf64
  | .getsr x => x.c.wf64
  | .setsr x => x.c.wfSrcs true [x.a] && x.a.wfSImm x.c
  | .trap x => x.wf
  | .tret x => x.c.wf64
  | .bkpt x => x.c.wf64
  | .nop x => x.wfNop
  | .pidle x => x.wfPidle
  | .yield x => x.c.wf64
  | .sleep x => x.wf Operand.isSImm
  | .live _ => true
  | .skipCode _ => true
  | .illegalInstruction sub _ => wfSub sub
  | .vadd x => x.wf vl Ty.isPackable false false
  | .vsub x => x.wf vl Ty.isPackable false false
  | .vmul x => x.wf vl Ty.isW32 false false
  | .vmulh x => x.wf vl Ty.isW32 false false
  | .vmulhn x => x.wf vl Ty.isW32 false false
  | .vmad x => x.wf vl
  | .vand x => x.wf vl Ty.isW32 false false
  | .vor x => x.wf vl Ty.isW32 false false
  | .vxor x => x.wf vl Ty.isW32 false false
  | .vandn x => x.wf vl Ty.isW32 false false
  | .vshl x => x.wf vl Ty.isW32 false false
  | .vshr x => x.wf vl Ty.isW32 false false
  | .vsra x => x.wf vl Ty.isW32 false false
  | .vmin x => x.wf vl Ty.isPackable false false
  | .vmax x => x.wf vl Ty.isPackable false false
  | .vminn x => x.wf vl Ty.isPackable false false
  | .vmaxn x => x.wf vl Ty.isPackable false false
  | .vabs x => x.wf vl
  | .vaddsat x => x.wf vl Ty.isSatType false false
  | .vsubsat x => x.wf vl Ty.isSatType false false
  | .vcmp x => x.wf vl
  | .vsel x => x.wf vl
  | .vmov x => x.wf vl Ty.isMovType
  | .vbfx x => x.wf vl Ty.isW32 false false
  | .vbfi x => x.wf vl Ty.isW32 false false
  | .vpopc x => x.wf vl Ty.isW32
  | .vclz x => x.wf vl Ty.isW32
  | .vdot4 x => x.wf vl
  | .vmulw x => x.wf vl Ty.isMulwType true false
  | .vadd64 x => x.wf vl Ty.isWide true true
  | .vfadd x => x.wf vl Ty.isLaneFloat
  | .vfsub x => x.wf vl Ty.isLaneFloat
  | .vfmul x => x.wf vl Ty.isLaneFloat
  | .vfma x => x.wf vl Ty.isLaneFloat
  | .vfmin x => x.wf vl
  | .vfmax x => x.wf vl
  | .vfabs x => x.wfFloat vl
  | .vfneg x => x.wfFloat vl
  | .vfcmp x => x.wfFloat vl
  | .vfrcp x => x.wf vl
  | .vfrsq x => x.wf vl
  | .vfsqrt x => x.wf vl
  | .vfdiv x => x.wf vl Ty.isLaneFloat
  | .vfexp2 x => x.wf vl
  | .vflog2 x => x.wf vl
  | .vfsin x => x.wf vl
  | .vfcos x => x.wf vl
  | .vftanh x => x.wf vl
  | .vfrnd x => x.wf vl
  | .vfclass x => x.wfFloat vl
  | .vhfma x => x.wf vl Ty.isHalf
  | .vhadd x => x.wf vl Ty.isHalf
  | .vhmul x => x.wf vl Ty.isHalf
  | .vfdot2 x => x.wf vl Ty.isHalf
  | .vcvt x => x.wf vl
  | .vqnt x => x.wf vl true
  | .vdqnt x => x.wf vl false
  | .vamax x => x.wf vl Ty.isLaneFloat false false
  | .vpack x => x.wf vl Ty.inSetP Ty.isUnpacked
  | .vunpk x => x.wf vl Ty.isUnpacked Ty.inSetP
  | .vlane x => x.wf vl
  | .vbcast x => x.wf vl false
  | .vshuf x => x.wf vl true
  | .vswz x => x.wf vl false
  | .vscan x => x.wf vl true
  | .vred x => x.wf vl false
  | .vballot x => x.wf vl
  | .vvote x => x.wf vl
  | .vrdlane x => x.wf vl
  | .vwrlane x => x.wf vl
  | .kop x => x.wf
  | .kmov x => x.wf
  | .pset x => x.wf vl
  | .pselk x => x.c.wf64
  | .pget x => x.wf vl
  | .lds x => x.wf
  | .sts x => x.wf
  | .ldv x => x.wfGlobal vl
  | .stv x => x.wfGlobal vl
  | .ldl x => x.wfTyped vl Ty.isLoad true
  | .stl x => x.wfTyped vl Ty.isLoad
  | .lda x => x.wfTyped vl Ty.isLoad false
  | .sta x => x.wfTyped vl Ty.isLoad
  | .ldc x => x.wfTyped vl Ty.isCst false
  | .stc x => x.wfTyped vl Ty.isCst
  | .ldro x => x.wfReadOnly vl
  | .prf x => x.wf
  | .atoms x => x.wf
  | .atomv x => x.wfGlobal vl
  | .atoml x => x.wfTyped vl
  | .fence x => x.wf
  | .sealPages x => x.wf
  | .unseal x => x.wf
  | .cflush x => x.c.wf64
  | .cinv x => x.c.wf64
  | .mma x => x.wf
  | .mmas x => x.wf
  | .mmav x => x.wf vl
  | .mmab x => x.m.wf
  | .mtap x => x.wf
  | .mldt x => x.c.wf64 && x.a.isOff
  | .msort x => x.c.wf64 && x.a.isOff && x.b.isOff
  | .mzero x => x.c.wf64
  | .mstat x => x.wf
  | .epi x => x.c.wf64 && x.a.isOff
  | .copyIn x => x.wfIn
  | .copyOut x => x.wfOut
  | .copyXs x => x.wf
  | .bseal x => x.c.wf64
  | .waith x => x.c.wf64
  | .testh x => x.c.wf64
  | .canh x => x.c.wf64
  | .movh x => x.c.wf64
  | .qput x => x.c.wf64 && x.ch.isOff && x.off.isOff
  | .qget x => x.c.wf64 && x.ch.isOff
  | .waitv x => x.c.wf64 && x.ch.isOff && x.n.isOff
  | .waitw x => x.wf
  | .bar x => x.wf 16 true
  | .barc x => x.wf 4 true
  | .barg x => x.wf 1 false
  | .spawn x => x.wf vl
  | .exit x => x.c.wfExit
  | .lexit x => x.c.wfExit
  | .trace x => x.wf vl
  | .trres x => x.wf vl
  | .trstat x => x.wf vl
  | .variableLatencyResult _ _ => true
  | .watchdogExpiry _ => true
  | .sleepExpiry _ => true
  | .collectiveTimeout _ => true
  | .preemptDeadline _ => true
  | .coreWake _ => true
  | .storeFifoLeave _ => true
  | .storeReachL2 _ _ => true
  | .atomicEngineService _ _ => true
  | .cflushComplete _ => true
  | .l2Writeback _ _ => true
  | .l2Scrub _ _ _ _ => true
  | .linkRetry _ _ => true
  | .pageWalk _ _ => true
  | .faultRecordWrite _ => true
  | .pagerRetry _ _ => true
  | .pagerDecline _ _ => true
  | .launch _ => true
  | .mwait _ => true
  | .mwaitPoll _ => true
  | .msignal _ => true
  | .ticketTake _ _ => true
  | .ticketSteal _ _ => true
  | .teamStart _ _ _ => true
  | .groupRetire _ => true
  | .barrierArrivalCount _ => true
  | .barrierRelease _ => true
  | .spawnRecordAccept _ => true
  | .binTimerExpiry _ _ => true
  | .spawnedGroupPlace _ => true
  | .copyCommandStart _ _ => true
  | .copyCommandEnd _ _ => true
  | .engineCancellation _ _ _ => true
  | .matrixCommandStart _ _ => true
  | .matrixKblockEnd _ => true
  | .matrixCommandEnd _ => true
  | .epilogueStart _ _ => true
  | .epilogueEnd _ => true
  | .traceLaneStart _ _ _ => true
  | .trresLaneResume _ _ _ => true
  | .lanternFetch _ _ _ => true
  | .lanternLoopStep _ _ _ => true
  | .lanternParkPoll _ _ _ => true
  | .traversalCommandEnd _ _ => true
  | .qputRingWaitEnd _ => true
  | .chainRecordStart _ => true
  | .chainRecordComplete _ => true
  | .waitvWake _ => true
  | .build _ => true
  | .skim _ => true
  | .switch _ => true
  | .reclaim _ => true
  | .reclaimPoll _ => true
  | .put _ => true
  | .fwd _ => true
  | .signal _ => true
  | .allreduce _ => true
  | .allgather _ => true
  | .flitAdmit _ _ => true
  | .wicklineFlitArrival _ _ _ _ => true
  | .lamplighterAck _ _ => true
  | .collectiveAbort _ _ => true
  | .windowBoundary => true
  | .waitwWake _ => true
  | .ptpLock _ => true
  | .ptpLockLoss => true
  | .hostWrite _ _ => true
  | .hostRead _ _ => true
  | .hostSnoop _ => true
  | .peerWindowRead _ _ => true
  | .registerWrite _ _ _ => true
  | .pgraWrite _ _ => true
  | .pgrsWrite _ _ => true
  | .nstatClear _ _ => true
  | .nmaskWrite _ _ => true
  | .killLaunch _ _ => true
  | .killContext _ _ => true
  | .preempt _ _ => true
  | .contextSave _ => true
  | .restore _ _ => true
  | .tlbinv _ _ => true
  | .ctxinv _ _ => true
  | .chreset _ _ => true
  | .chstate _ _ => true
  | .powerSample _ => true
  | .thermalStep _ _ => true
  | .coreClockGate _ => true
  | .moduleReset _ _ _ => true
  | .attestationRequest _ _ => true
  | .hcmdRefused _ _ => true
  | .peerWindowWrite _ _ => true

/-- An instruction that has an encoding of its own: every word but one that no instruction stands in. -/
def Instr.isWord (i : Instr) : Bool :=
  match i with
  | .sadd _ | .ssub _ | .smul _ | .smulh _ | .smulhn _ | .sdiv _ | .sdivn _ | .srem _ | .sremn _ | .sand _
  | .sor _ | .sxor _ | .sandn _ | .sshl _ | .sshr _ | .ssra _ | .srot _ | .smin _ | .smax _ | .sminn _
  | .smaxn _ | .scmp _ | .ssel _ | .smov _ | .sli _ | .sbfx _ | .sbfi _ | .spopc _ | .sclz _ | .sctz _
  | .sbrev _ | .br _ | .brc _ | .brz _ | .brnz _ | .brmz _ | .brma _ | .call _ | .calli _ | .ret _ | .jmpi _
  | .mset _ | .mget _ | .mand _ | .mor _ | .mandn _ | .mxor _ | .mpop _ | .mffs _ | .fmtset _ | .fmtget _
  | .getsr _ | .setsr _ | .trap _ | .tret _ | .bkpt _ | .nop _ | .pidle _ | .yield _ | .sleep _ | .live _
  | .skipCode _ | .vadd _ | .vsub _ | .vmul _ | .vmulh _ | .vmulhn _ | .vmad _ | .vand _ | .vor _ | .vxor _
  | .vandn _ | .vshl _ | .vshr _ | .vsra _ | .vmin _ | .vmax _ | .vminn _ | .vmaxn _ | .vabs _ | .vaddsat _
  | .vsubsat _ | .vcmp _ | .vsel _ | .vmov _ | .vbfx _ | .vbfi _ | .vpopc _ | .vclz _ | .vdot4 _ | .vmulw _
  | .vadd64 _ | .vfadd _ | .vfsub _ | .vfmul _ | .vfma _ | .vfmin _ | .vfmax _ | .vfabs _ | .vfneg _ | .vfcmp _
  | .vfrcp _ | .vfrsq _ | .vfsqrt _ | .vfdiv _ | .vfexp2 _ | .vflog2 _ | .vfsin _ | .vfcos _ | .vftanh _
  | .vfrnd _ | .vfclass _ | .vhfma _ | .vhadd _ | .vhmul _ | .vfdot2 _ | .vcvt _ | .vqnt _ | .vdqnt _
  | .vamax _ | .vpack _ | .vunpk _ | .vlane _ | .vbcast _ | .vshuf _ | .vswz _ | .vscan _ | .vred _
  | .vballot _ | .vvote _ | .vrdlane _ | .vwrlane _ | .kop _ | .kmov _ | .pset _ | .pselk _ | .pget _ | .lds _
  | .sts _ | .ldv _ | .stv _ | .ldl _ | .stl _ | .lda _ | .sta _ | .ldc _ | .stc _ | .ldro _ | .prf _
  | .atoms _ | .atomv _ | .atoml _ | .fence _ | .sealPages _ | .unseal _ | .cflush _ | .cinv _ | .mma _
  | .mmas _ | .mmav _ | .mmab _ | .mtap _ | .mldt _ | .msort _ | .mzero _ | .mstat _ | .epi _ | .copyIn _
  | .copyOut _ | .copyXs _ | .bseal _ | .waith _ | .testh _ | .canh _ | .movh _ | .qput _ | .qget _ | .waitv _
  | .waitw _ | .bar _ | .barc _ | .barg _ | .spawn _ | .exit _ | .lexit _ | .trace _ | .trres _ | .trstat _ => true
  | _ => false

end Sys2Proof
end

