-- ==== Sys2Proof/Safety.lean ====
section
/-! DEFINITION. What counts as a safe run, and the words in which statements are made: a word that has issued, an
instruction's condition, and what stays the same. -/

namespace Sys2Proof.Machine

/-- An outcome is a next state. -/
def goesOn (r : Host.Outcome State Fault Refusal) : Prop := ∃ t, r = .next t

/-- Memory at the point of coherence, and what GDDR7 holds, are in the canonical form: equal contents are equal data. -/
abbrev State.memOk (s : State) : Prop := s.mem.wf = true ∧ s.gddr.wf = true

/-- `n` steps from a state answer next states whose memory is in the canonical form. -/
def State.safeFor (s : State) : Nat → Prop
  | 0 => s.memOk
  | n + 1 => s.memOk ∧ ∃ t, step s = .next t ∧ t.safeFor n

/-- The word `c` has issued and left the focused group as `g`; what its SW, its SP and its place bring follows. -/
def State.issued (s : State) (c : Ctl) (g : Group) : Host.Outcome State Fault Refusal :=
  .next (State.advance { s with g := g } c)

/-- The word traps before any effect. -/
def State.traps (s : State) (t : TrapReq) : Host.Outcome State Fault Refusal := .next (s.boundary (.trap t))

/-- A word that marks no run boundary: SW clear, and no LIVE word behind it. -/
abbrev State.runsOn (s : State) (c : Ctl) : Prop := c.sw = false ∧ s.g.live = none

/-- A class-0 instruction that writes `val` to S(D), and SC from it when FS is 1 (R58, R59). -/
def State.wroteScalar (s : State) (c : Ctl) (d : Fin 64) (fs : Bool) (val : Word64) (cy v : Bool) :
    Host.Outcome State Fault Refusal :=
  s.issued c (if fs then (s.g.writeS d val).writeSc (mkSc (val.getLsbD 63) (val == 0) cy v) else s.g.writeS d val)

/-- A lane-executed word that writes `f` to V(D) on its executing lanes (R42, R96). -/
def State.wroteLanes (s : State) (c : Ctl) (gd : Guard) (d : Fin 128) (f : Lane → Word) :
    Host.Outcome State Fault Refusal :=
  s.issued c (s.g.writeV d (s.g.executing gd) f)

/-- Element `e` of width `w` of a lane's 32 bits (R80). -/
def elemOf (w e : Nat) (x : Word) : BitVec w := x.extractLsb' (w * e) w

/-- The whole device is as before but for the focused group. -/
def State.onlyGroup (s t : State) : Prop := t = { s with g := t.g }

/-- The place of a group in its program may change, and nothing else of it but what the update names. -/
def Group.moved (g h : Group) : Group :=
  { g with pc := h.pc, plane := h.plane, fresh := h.fresh, issued := h.issued, settled := h.settled }

/-- What a start condition leaves a command waiting for, and that it has failed at issue (R240). -/
def Group.startWaits (g : Group) (sh : Option (Fin 16)) : Option Tracked :=
  sh.bind fun n => if (g.h.get n).state = .pending then some ⟨(g.h.get n).eng == .batch, (g.h.get n).tag⟩ else none
def Group.startFailed (g : Group) (sh : Option (Fin 16)) : Bool :=
  sh.any fun n => (g.h.get n).state == .complete && (g.h.get n).status != 0

/-- The core holds one more command, with its scoreboard entries and the next tag; the group's handle H(d) is pending
with the command's tag, or the command has joined the group's open batch. -/
def State.withCmd (s : State) (k : Cmd) (holds : List Hold) (d : Option (Fin 16)) : State :=
  { s.modCore s.g.coreRef (fun x =>
      let y := { x with tag := x.tag + 1, cmds := x.cmds ++ [k], sb := x.sb ++ holds }
      if d.isNone then y.joinBatch s.g.ref k.tag else y) with
    g := { (match d with
      | some n => { s.g with h := s.g.h.set n ⟨.pending, k.eng, 0, k.tag, false⟩, errs := s.g.errs.filter (· != RegName.h n) }
      | none => s.g) with seq := s.g.seq + 1 } }

/-- The word makes a command of an engine, with the operand values, captured registers and ranges given, and goes on; a
command whose start condition has failed ends at once with status 2 (R237, R240, R242, R249). -/
def State.makesCmd (s : State) (i : Instr) (c : Ctl) (eng : Eng) (sh d : Option (Fin 16)) (ext : List Nat)
    (ranges : List (Space × Nat × Nat × Bool)) : Prop :=
  ∃ (k : Cmd) (holds : List Hold), k.tag = (s.core s.g.coreRef).tag ∧ k.g = s.g.ref ∧ k.instr = i ∧ k.eng = eng ∧
    k.ext = ext.map (BitVec.ofNat 64) ∧ k.fmt = s.g.fmt.get 0 ∧ k.phase = .waiting ∧ k.cancel = false ∧
    k.pred = s.g.startWaits sh ∧ k.seq = s.g.seq ∧
    holds.map (fun h => (h.sp, h.lo, h.len, h.write)) = ranges ∧ (∀ h ∈ holds, h.tag = k.tag ∧ h.team = s.g.team) ∧
    exec i s = .next (State.advance
      (if s.g.startFailed sh then (s.withCmd k holds d).endCmd s.g.coreRef k.tag 2 else s.withCmd k holds d) c)

/-- The core has room for a command of an engine that holds at most `n`, with `m` scoreboard entries (R242). -/
abbrev State.roomFor (s : State) (eng : Eng) (n m : Nat) : Prop :=
  s.g.cflush = none ∧ (s.core s.g.coreRef).sb.length + m ≤ 32 ∧
    ((s.core s.g.coreRef).cmds.filter (·.eng == eng)).length < n

/-- The focused group holds the slot `r`. -/
abbrev State.here (s : State) (r : GroupRef) : Prop := s.g.ref = r ∧ s.g.active = true

/-- Bytes `bs` stand at `pa` in `m'`, and every other byte reads as in `m`. -/
def Mem.wrote (m m' : Mem) (pa : Nat) (bs : List Byte) : Prop :=
  ∀ a, m'.read a = if pa ≤ a ∧ a < pa + bs.length then bs.getD (a - pa) 0 else m.read a

/-- Nothing waits for a die's walker or pager, nothing is sealed and nothing is poisoned. -/
abbrev State.quiet (s : State) (d : Fin 2) : Prop :=
  (s.die d).refused = [] ∧ (s.die d).walks = [] ∧ (s.die d).waiting = [] ∧ (s.die d).slots = [] ∧ (s.die d).seals = [] ∧
    s.poison = []

/-- No atomic waits at a slice, so that the next one that a port presents is served (R184). -/
abbrev State.noAtoms (s : State) : Prop := ∀ d, (s.die d).atom = []

/-- The die keeps the context: its descriptor and its seal table have been read (R187, R381). -/
abbrev State.keepsCtx (s : State) (d : Fin 2) (ctx : BitVec 12) : Prop :=
  (s.die d).ctxs.any (·.ctx == ctx) = true ∧ (s.die d).sealsOf.contains ctx = true

/-- A die's engines reach `va` of a context at `pa`, for reading and writing, through the engine TLB (R379, R386). -/
abbrev State.engineSees (s : State) (d : Fin 2) (ctx : BitVec 12) (va pa : Nat) : Prop :=
  s.quiet d ∧ s.keepsCtx d ctx ∧ va < 2 ^ 56 ∧ s.row pa ≠ .nothing ∧ ∀ at', tlbHit (s.die d).etlb ctx va .read at' = some pa ∧
    tlbHit (s.die d).etlb ctx va .write at' = some pa

/-- A core's engines reach `va` of a context at `pa` through its second-level TLB (R386). -/
abbrev State.coreSees (s : State) (c : CoreRef) (ctx : BitVec 12) (va pa : Nat) : Prop :=
  s.quiet c.die ∧ s.keepsCtx c.die ctx ∧ va < 2 ^ 56 ∧ s.row pa ≠ .nothing ∧ ∀ at', tlbHit (s.core c).tlb2 ctx va .read at' = some pa ∧
    tlbHit (s.core c).tlb2 ctx va .write at' = some pa

/-- A core's groups reach `va` of a context at `pa`, for reading and writing, through the TLBs of its loads and stores (R386). -/
abbrev State.groupSees (s : State) (c : CoreRef) (ctx : BitVec 12) (va pa : Nat) : Prop :=
  s.quiet c.die ∧ s.keepsCtx c.die ctx ∧ va < 2 ^ 56 ∧ s.row pa ≠ .nothing ∧
    ∀ at', tlbHit ((s.core c).dtlb ++ (s.core c).tlb2) ctx va .read at' = some pa ∧
      tlbHit ((s.core c).dtlb ++ (s.core c).tlb2) ctx va .write at' = some pa

end Sys2Proof.Machine
end

