-- ==== Sys2Proof/Certificates/Slice0/Obligations.lean ====
section
/-! DEFINITION. The statements for the provers. -/

open Sys2Proof Sys2Proof.Machine

/-! ### Class 0 -/

/-- SADD, SSUB and SCMP: the sum or difference at width W, with N, Z, C and V as R58 has them. SMUL, SMULH and SMULHN:
the low or the high half of the product, with C and V of SMUL. Division of class 0: with fewer than 16 results
outstanding, the quotient or remainder becomes an outstanding result for S(D), and for SC when FS is 1, with R60's
corner values and V; the group goes on. -/
def Obligations.ScalarArithmetic : Prop :=
  (∀ (x : SInt) (y : SCompare) (s : State),
     let w := scalarWidth x.ty
     let a := (s.g.src x.c x.ty x.a).setWidth w
     let b := (s.g.src x.c x.ty x.b).setWidth w
     let out (z : Int) := decide (z < -2 ^ (w - 1) ∨ 2 ^ (w - 1) ≤ z)
     (x.cond.holds s.g.sc = true →
       exec (.sadd x) s = s.wroteScalar x.c x.d x.fs (extendResult x.ty (BitVec.ofNat w (a.toNat + b.toNat)))
         (decide (2 ^ w ≤ a.toNat + b.toNat)) (out (a.toInt + b.toInt)) ∧
       exec (.ssub x) s = s.wroteScalar x.c x.d x.fs (extendResult x.ty (BitVec.ofInt w (a.toInt - b.toInt)))
         (decide (b.toNat ≤ a.toNat)) (out (a.toInt - b.toInt))) ∧
     (y = ⟨x.c, x.cond, x.ty, x.a, x.b⟩ → y.cond.holds s.g.sc = true →
       let d := extendResult x.ty (BitVec.ofInt w (a.toInt - b.toInt))
       exec (.scmp y) s = s.issued x.c (s.g.writeSc
         (mkSc (d.getLsbD 63) (decide (a = b)) (decide (b.toNat ≤ a.toNat)) (out (a.toInt - b.toInt)))))) ∧
  (∀ (x : SInt) (s : State), x.cond.holds s.g.sc = true →
     let w := scalarWidth x.ty
     let a := (s.g.src x.c x.ty x.a).setWidth w
     let b := (s.g.src x.c x.ty x.b).setWidth w
     let p := a.toInt * b.toInt
     exec (.smul x) s = s.wroteScalar x.c x.d x.fs (extendResult x.ty (BitVec.ofNat w (a.toNat * b.toNat)))
       (decide (2 ^ w ≤ a.toNat * b.toNat)) (decide (p < -2 ^ (w - 1) ∨ 2 ^ (w - 1) ≤ p)) ∧
     exec (.smulh x) s = s.wroteScalar x.c x.d x.fs (extendResult x.ty (BitVec.ofInt w (p / 2 ^ w))) false false ∧
     exec (.smulhn x) s = s.wroteScalar x.c x.d x.fs
       (extendResult x.ty (BitVec.ofNat w (a.toNat * b.toNat / 2 ^ w))) false false) ∧
  (∀ (x : SInt) (s : State), x.cond.holds s.g.sc = true → s.g.log.length < 16 →
     let w := scalarWidth x.ty
     let a := (s.g.src x.c x.ty x.a).setWidth w
     let b := (s.g.src x.c x.ty x.b).setWidth w
     let least := decide (a.toInt = -2 ^ (w - 1) ∧ b.toInt = -1)
     let given (i : Instr) (r : BitVec w) (v : Bool) : Prop := ∃ p : Pend,
       exec i s = s.issued x.c { s.g with log := s.g.log ++ [p], seq := s.g.seq + 1 } ∧
       p.seq = s.g.seq ∧ p.dst = .s x.d ∧ p.dueSc = x.fs ∧
       p.lanes.map (·.val) = [some (extendResult x.ty r)] ∧
       p.kind = .computed (if x.fs then
         some (mkSc ((extendResult x.ty r).getLsbD 63) (extendResult x.ty r == 0) false v) else none)
     given (.sdiv x) (if b = 0 then BitVec.allOnes w else if least then a else BitVec.ofInt w (a.toInt.tdiv b.toInt))
       (decide (b = 0) || least) ∧
     given (.sdivn x) (if b = 0 then BitVec.allOnes w else BitVec.ofNat w (a.toNat / b.toNat)) (decide (b = 0)) ∧
     given (.srem x) (if b = 0 then a else if least then 0 else BitVec.ofInt w (a.toInt.tmod b.toInt))
       (decide (b = 0) || least) ∧
     given (.sremn x) (if b = 0 then a else BitVec.ofNat w (a.toNat % b.toNat)) (decide (b = 0)))

/-- SAND, SOR, SXOR, SANDN bit by bit; SMIN, SMAX, SMINN, SMAXN by value; SMOV; none sets C or V. SBFX and SBFI: the
field of R63, bit by bit. SSEL selects by SCND on SC at issue; SLI replaces one half of S(D). Neither changes SC.
SPOPC, SCLZ, SCTZ and SBREV. -/
def Obligations.ScalarBits : Prop :=
  (∀ (x : SInt) (y : SUnary) (s : State), x.cond.holds s.g.sc = true → y.cond.holds s.g.sc = true →
     let w := scalarWidth x.ty
     let a := (s.g.src x.c x.ty x.a).setWidth w
     let b := (s.g.src x.c x.ty x.b).setWidth w
     let gives (i : Instr) (r : BitVec w) : Prop :=
       exec i s = s.wroteScalar x.c x.d x.fs (extendResult x.ty r) false false
     (∃ r1 r2 r3 r4 : BitVec w,
       (gives (.sand x) r1 ∧ ∀ i, r1.getLsbD i = (a.getLsbD i && b.getLsbD i)) ∧
       (gives (.sor x) r2 ∧ ∀ i, r2.getLsbD i = (a.getLsbD i || b.getLsbD i)) ∧
       (gives (.sxor x) r3 ∧ ∀ i, r3.getLsbD i = (a.getLsbD i != b.getLsbD i)) ∧
       (gives (.sandn x) r4 ∧ ∀ i, r4.getLsbD i = (a.getLsbD i && !b.getLsbD i))) ∧
     gives (.smin x) (BitVec.ofInt w (min a.toInt b.toInt)) ∧
     gives (.smax x) (BitVec.ofInt w (max a.toInt b.toInt)) ∧
     gives (.sminn x) (BitVec.ofNat w (min a.toNat b.toNat)) ∧
     gives (.smaxn x) (BitVec.ofNat w (max a.toNat b.toNat)) ∧
     exec (.smov y) s = s.wroteScalar y.c y.d y.fs
       (extendResult y.ty ((s.g.src y.c y.ty y.a).setWidth (scalarWidth y.ty))) false false) ∧
  (∀ (x : SInt) (s : State), x.cond.holds s.g.sc = true →
     let w := scalarWidth x.ty
     let a := (s.g.src x.c x.ty x.a).setWidth w
     let old := (s.g.readS x.d).setWidth w
     let bw := (s.g.srcWhole x.c x.b).toNat
     let pos := bw % 64
     let len := if pos < w then min (bw / 256 % 128) (w - pos) else 0
     ∃ e n : BitVec w,
       exec (.sbfx x) s = s.wroteScalar x.c x.d x.fs (extendResult x.ty e) false false ∧
       exec (.sbfi x) s = s.wroteScalar x.c x.d x.fs (extendResult x.ty n) false false ∧
       ∀ i, i < w →
         e.getLsbD i = (if i < len then a.getLsbD (pos + i)
           else decide (0 < len) && x.ty.isSigned && a.getLsbD (pos + len - 1)) ∧
         n.getLsbD i = (if pos ≤ i ∧ i < pos + len then a.getLsbD (i - pos) else old.getLsbD i)) ∧
  (∀ (x : SSelect) (y : SInsert) (s : State), x.cond.holds s.g.sc = true → y.cond.holds s.g.sc = true →
     let w := scalarWidth x.ty
     let src (o : Operand) := extendResult x.ty ((s.g.src x.c x.ty o).setWidth w)
     let a : Word64 := s.g.src y.c .s64 y.a
     let old := s.g.readS y.d
     exec (.ssel x) s = s.issued x.c (s.g.writeS x.d (if x.scnd.holds s.g.sc then src x.a else src x.b)) ∧
     exec (.sli y) s = s.issued y.c (s.g.writeS y.d (if y.w1
       then BitVec.ofNat 64 (a.toNat % 2 ^ 32 * 2 ^ 32 + old.toNat % 2 ^ 32)
       else BitVec.ofNat 64 (old.toNat / 2 ^ 32 * 2 ^ 32 + a.toNat % 2 ^ 32)))) ∧
  (∀ (x : SUnary) (s : State), x.cond.holds s.g.sc = true →
     let w := scalarWidth x.ty
     let a := (s.g.src x.c x.ty x.a).setWidth w
     let gives (i : Instr) (r : BitVec w) : Prop :=
       exec i s = s.wroteScalar x.c x.d x.fs (extendResult x.ty r) false false
     gives (.spopc x) (BitVec.ofNat w ((List.finRange w).filter fun i => a.getLsbD i.val).length) ∧
     gives (.sclz x) (BitVec.ofNat w (if a = 0 then w else w - 1 - a.toNat.log2)) ∧
     (∃ n, gives (.sctz x) (BitVec.ofNat w n) ∧ n ≤ w ∧ (∀ i, i < n → a.getLsbD i = false) ∧
       (n < w → a.getLsbD n = true)) ∧
     ∃ r : BitVec w, gives (.sbrev x) r ∧ ∀ i, i < w → r.getLsbD i = a.getLsbD (w - 1 - i))

/-- R61: the shifts at every amount, the whole 64-bit source read as unsigned. -/
def Obligations.ScalarShifts : Prop :=
  (∀ (x : SInt) (s : State), x.cond.holds s.g.sc = true →
    let w := scalarWidth x.ty
    let a := (s.g.src x.c x.ty x.a).setWidth w
    let n := (s.g.srcWhole x.c x.b).toNat
    let gives (i : Instr) (r : BitVec w) : Prop :=
      exec i s = s.wroteScalar x.c x.d x.fs (extendResult x.ty r) false false
    gives (.sshl x) (if n < w then BitVec.ofNat w (a.toNat * 2 ^ n) else 0) ∧
    gives (.sshr x) (if n < w then BitVec.ofNat w (a.toNat / 2 ^ n) else 0) ∧
    gives (.ssra x) (if n < w then BitVec.ofInt w (a.toInt / 2 ^ n)
      else if a.getLsbD (w - 1) then BitVec.allOnes w else 0) ∧
    ∃ r : BitVec w, gives (.srot x) r ∧ ∀ i, i < w → r.getLsbD i = a.getLsbD ((i + n) % w)) ∧
  ∀ (g : Group) (c : Ctl), (g.srcWhole c (.neg 0)).toNat = 2 ^ 64 - 1

/-! ### Class 1 -/

/-- R65's relative branches: what each tests, what it writes, and where it goes. The bytes 0x02 and 0x04 are the
causes of a target that no fetch can use, which `State.jump` gives. R66: CALLI, RET and JMPI, and the cause 0x02 of a
target with bits [63:32] or [1:0] set, which has no effect. A jump to a target that fetch can use: PC takes it, with
what else the instruction writes; a target in a copy of a region other than plane 0's is a region violation, sub-cause
3, without effect. That a LIT32 of CALLI, RET and JMPI is sign-extended is the model's reading
(notes/assumptions/125). -/
def Obligations.BranchesAndJumps : Prop :=
  (∀ (x : Branch) (s : State), x.cond.holds s.g.sc = true →
     let target : Word64 := (s.g.pc + BitVec.ofInt 32 (x.disp.toInt * 4)).setWidth 64
     let m := s.g.src32 x.c x.r
     let go (i : Instr) (taken : Bool) (f : Group → Group) : Prop :=
       exec i s = if taken then .next (s.jump x.c target f) else s.issued x.c (f s.g)
     go (.br x) true id ∧
     (∀ n, x.r = .s n → go (.brc x) (decide (s.g.readS n ≠ 1)) fun g => g.writeS n (s.g.readS n - 1)) ∧
     (∀ n, x.r = .s n → go (.brz x) (decide (s.g.readS n = 0)) id ∧ go (.brnz x) (decide (s.g.readS n ≠ 0)) id) ∧
     go (.brmz x) (decide (∀ i : Lane, ¬ (s.g.exec.getLsbD i.val = true ∧ m.getLsbD i.val = true))) id ∧
     go (.brma x) (decide (∀ i : Lane, s.g.exec.getLsbD i.val = true → m.getLsbD i.val = true)) id ∧
     go (.call x) true fun g => g.writeS 63 ((s.g.pc + 8).setWidth 64)) ∧
  (∀ (x : Jump) (s : State), x.cond.holds s.g.sc = true →
     let t : Word64 := s.g.src x.c .s64 x.a
     let go (i : Instr) (f : Group → Group) : Prop :=
       exec i s = if 2 ^ 32 ≤ t.toNat ∨ t.toNat % 4 ≠ 0 then s.traps (s.g.trapHere 2 0 t) else .next (s.jump x.c t f)
     go (.calli x) (fun g => g.writeS 63 ((s.g.pc + BitVec.ofNat 32 x.c.len.bytes).setWidth 64)) ∧
     go (.ret x) id ∧ go (.jmpi x) id) ∧
  (∀ (s : State) (c : Ctl) (t : Word64) (f : Group → Group), t.toNat < 2 ^ 32 → t.toNat % 4 = 0 →
     let pc : Word := t.setWidth 32
     (s.g.inOtherCopy pc = true → s.jump c t f = s.boundary (.trap (s.g.trapHere 4 3 t))) ∧
     (s.g.inOtherCopy pc = false →
       let g : Group := { f s.g with pc := pc, plane := 0, fresh := true, issued := false, settled := false }
       s.jump c t f = if c.sp || c.sw then State.boundary { s with g := g } (.switch c.sp) else { s with g := g }))

/-- The mask instructions: D takes the old EXEC, EXEC the new mask without the lanes that have left, and SC, when FS
is 1, Z from the mask concerned. K registers and planes: KOP and KMOV on whole masks, PSET and PSELK on PLN of the
executing lanes, PGET. -/
def Obligations.MaskRegisters : Prop :=
  (∀ (x : MaskOp) (y : MaskGet) (s : State), x.cond.holds s.g.sc = true → y.cond.holds s.g.sc = true →
     let m := s.g.src32 x.c x.m
     let flags (fs : Bool) (z : LaneMask) (g : Group) := if fs then g.writeSc (mkSc false (z == 0) false false) else g
     let sets (i : Instr) (new : LaneMask) : Prop :=
       let e := new &&& ~~~s.g.exitm
       exec i s = s.issued x.c (flags x.fs e { s.g.writeMaskDest x.d s.g.exec with exec := e })
     sets (.mset x) m ∧ sets (.mand x) (s.g.exec &&& m) ∧ sets (.mor x) (s.g.exec ||| m) ∧
     sets (.mandn x) (s.g.exec &&& ~~~m) ∧ sets (.mxor x) (s.g.exec ^^^ m) ∧
     exec (.mget y) s = s.issued y.c (flags y.fs s.g.exec (s.g.writeMaskDest y.d s.g.exec)) ∧
     ∀ n, x.d = .s n →
       exec (.mpop x) s = s.issued x.c (flags x.fs m (s.g.writeS n
         (BitVec.ofNat 64 ((List.finRange 32).filter fun i => m.getLsbD i.val).length))) ∧
       ∃ k, k ≤ 32 ∧ (∀ i, i < k → m.getLsbD i = false) ∧ (k < 32 → m.getLsbD k = true) ∧
         exec (.mffs x) s = s.issued x.c (flags x.fs m (s.g.writeS n (BitVec.ofNat 64 k)))) ∧
  (∀ (x : KOpArgs) (y : KMovArgs) (p : PSetArgs) (q : PSelArgs) (r : PGetArgs) (s : State),
     let pln (gd : Guard) (c : Ctl) (i : Instr) (f : Lane → BitVec 2) : Prop := ∃ g, exec i s = s.issued c g ∧
       g = { s.g with pln := g.pln } ∧
       ∀ l : Lane, g.pln.get l = if (s.g.executing gd).getLsbD l.val then f l else s.g.pln.get l
     (x.cond.holds s.g.sc = true → ∃ v : LaneMask, exec (.kop x) s = s.issued x.c (s.g.writeMaskDest x.d v) ∧
       ∀ k, k < 32 →
         let a := (s.g.src32 x.c x.a).getLsbD k
         let b := (s.g.src32 x.c x.b).getLsbD k
         v.getLsbD k = match x.mode with
           | .and => a && b | .or => a || b | .xor => a != b | .andn => a && !b | .orn => a || !b
           | .nand => !(a && b) | .nor => !(a || b) | .xnor => a == b) ∧
     (y.cond.holds s.g.sc = true → exec (.kmov y) s = s.issued y.c (s.g.writeMaskDest y.d (s.g.src32 y.c y.a))) ∧
     pln p.g p.c (.pset p) (fun i => BitVec.ofNat 2 (s.g.lane32 p.c p.a i).toNat) ∧
     pln q.g q.c (.pselk q) (fun i =>
       BitVec.ofNat 2 ((if (s.g.readK q.b).getLsbD i.val then 2 else 0) + (if (s.g.readK q.a).getLsbD i.val then 1 else 0))) ∧
     (∀ d, r.d = .v d → exec (.pget r) s = s.wroteLanes r.c r.g d fun i => (s.g.pln.get i).setWidth 32) ∧
     ∀ d n, r.d = .k d n → ∃ g, exec (.pget r) s = s.issued r.c g ∧ g = { s.g with k := g.k, errs := g.errs } ∧ ∀ e (i : Lane),
       (g.readK e).getLsbD i.val = if e = d ∧ d ≠ 0 ∧ (s.g.executing r.g).getLsbD i.val = true
         then decide ((s.g.pln.get i).toNat = n.val) else (s.g.readK e).getLsbD i.val)

/-- A write of a special register leaves no error in it. FMTSET with its check, and FMTGET, on the bank of the issuing
plane. GETSR and SETSR on the special registers of R9; a number that R9 does not list, or that SETSR may not write,
traps whatever COND says (R51). SETSR to STATUS changes SSC and PLERR alone, to SC bits [3:0], and to a bank of FMT, any of
the four, what passes the check of FMTSET (R10, R70). That FMTSET and SETSR check a value only when COND is true, and that a
LIT32 of SETSR is sign-extended, are the model's readings (notes/assumptions/111 and 125). -/
def Obligations.FormatsAndSpecialRegisters : Prop :=
  (∀ (x : FmtSet) (y : FmtGet) (s : State), x.cond.holds s.g.sc = true → y.cond.holds s.g.sc = true →
     let v : Nat := (s.g.src x.c .b32 x.a).toNat % 2 ^ 32
     let bank : Fin 4 := if s.g.region = none then 0 else s.g.plane
     let whole (n : BitVec 8) : Group := { s.g with errs := s.g.errs.filter (· != RegName.special n) }
     (v < 2 ^ 24 → v % 16 < 11 → v / 2 ^ 4 % 16 < 11 → v / 2 ^ 8 % 16 < 11 → v / 2 ^ 20 % 16 < 11 →
       exec (.fmtset x) s = s.issued x.c { whole (4 + BitVec.ofNat 8 bank.val) with fmt := s.g.fmt.set bank (BitVec.ofNat 32 v) }) ∧
     (2 ^ 24 ≤ v ∨ 11 ≤ v % 16 ∨ 11 ≤ v / 2 ^ 4 % 16 ∨ 11 ≤ v / 2 ^ 8 % 16 ∨ 11 ≤ v / 2 ^ 20 % 16 →
       exec (.fmtset x) s = s.traps (s.g.trapHere 1 10 (Instr.fmtset x).word)) ∧
     exec (.fmtget y) s = s.issued y.c (s.g.writeS y.d ((s.g.fmt.get bank).setWidth 64))) ∧
  (∀ (x : GetSr) (y : SetSr) (s : State), x.cond.holds s.g.sc = true → y.cond.holds s.g.sc = true →
     let v : Word64 := s.g.src y.c .s64 y.a
     let reads (n : BitVec 8) (w : Word64) : Prop := x.srn = n → exec (.getsr x) s = s.issued x.c (s.g.writeS x.d w)
     let whole (n : BitVec 8) : Group := { s.g with errs := s.g.errs.filter (· != RegName.special n) }
     let writes (n : BitVec 8) (g : Group) : Prop := y.srn = n → exec (.setsr y) s = s.issued y.c g
     reads 0x00 (s.g.status.setWidth 64) ∧ reads 0x01 (s.g.sc.setWidth 64) ∧ reads 0x02 (s.g.exec.setWidth 64) ∧
     reads 0x08 (s.g.wdog.setWidth 64) ∧ reads 0x09 s.g.trapbase ∧ reads 0x0A s.g.xpc ∧ reads 0x0B s.g.xcause ∧
     reads 0x0C s.g.xinfo ∧ reads 0x0D s.g.xscratch ∧ reads 0x0E (BitVec.ofNat 64 (s.dies.get s.g.die).clock) ∧
     reads 0x0F s.window ∧ reads 0x10 (s.g.groupid.setWidth 64) ∧ reads 0x11 (s.g.teamid.setWidth 64) ∧
     reads 0x12 (s.g.clusterid.setWidth 64) ∧ reads 0x13 (BitVec.ofNat 64 s.g.core.val) ∧
     reads 0x14 (BitVec.ofNat 64 s.g.die.val) ∧ reads 0x15 s.g.cbase ∧ reads 0x16 (s.g.csize.setWidth 64) ∧
     (∀ n : Fin 4, reads (BitVec.ofNat 8 (4 + n.val)) ((s.g.fmt.get n).setWidth 64)) ∧
     (∃ st : Word, writes 0x00 { whole 0x00 with status := st } ∧ ∀ i, st.getLsbD i =
       (if i = 1 ∨ (12 ≤ i ∧ i < 16) then v.getLsbD i else decide (i = 0 ∨ i = 2) && s.g.status.getLsbD i)) ∧
     writes 0x01 (s.g.writeSc (BitVec.ofNat 4 (v.toNat % 16))) ∧
     (∀ n : Fin 4,
       let u := v.toNat % 2 ^ 32
       (u < 2 ^ 24 → u % 16 < 11 → u / 2 ^ 4 % 16 < 11 → u / 2 ^ 8 % 16 < 11 → u / 2 ^ 20 % 16 < 11 →
         writes (4 + BitVec.ofNat 8 n.val) { whole (4 + BitVec.ofNat 8 n.val) with fmt := s.g.fmt.set n (BitVec.ofNat 32 u) }) ∧
       (2 ^ 24 ≤ u ∨ 11 ≤ u % 16 ∨ 11 ≤ u / 2 ^ 4 % 16 ∨ 11 ≤ u / 2 ^ 8 % 16 ∨ 11 ≤ u / 2 ^ 20 % 16 →
         y.srn = 4 + BitVec.ofNat 8 n.val → exec (.setsr y) s = s.traps (s.g.trapHere 1 10 (Instr.setsr y).word))) ∧
     writes 0x02 { whole 0x02 with exec := v.setWidth 32 &&& ~~~s.g.exitm } ∧
     writes 0x08 { (whole 0x08).setWdx false with wdog := v.setWidth 32, wcnt := (v.setWidth 32 : Word).toNat * 1024 } ∧
     writes 0x0A { whole 0x0A with xpc := v } ∧ writes 0x0B { whole 0x0B with xcause := BitVec.ofNat 64 (v.toNat % 2 ^ 16) } ∧
     writes 0x0C { whole 0x0C with xinfo := v } ∧ writes 0x0D { whole 0x0D with xscratch := v } ∧
     writes 0x09 { whole 0x09 with trapbase := BitVec.ofNat 64 (v.toNat / 256 % 2 ^ 24 * 256 + v.toNat % 2) }) ∧
  ∀ (x : GetSr) (y : SetSr) (s : State),
     (0x16 < x.srn.toNat ∨ x.srn = 3 → exec (.getsr x) s = s.traps (s.g.trapHere 1 7 (Instr.getsr x).word)) ∧
     (0x0D < y.srn.toNat ∨ y.srn = 3 → exec (.setsr y) s = s.traps (s.g.trapHere 1 7 (Instr.setsr y).word))

/-! ### Traps, run boundaries and the place of a group -/

/-- TRAP, BKPT and a word that is no instruction take their exceptions: the cause, SUB, XINFO and the resume point of
R31, in a plane region and outside one. Taking a trap with nothing outstanding and no deferred fault: the saved
registers, STATUS and PC of R32 outside trap mode with the handler enabled, and the abort of the launch otherwise;
with results outstanding, the group parks first. A WAITW target kept over a restore goes with a trap: the WAITW
computes it afresh after TRET (R430). A word that reads a register with an uncorrectable error takes the machine check
of R375 before any effect; that operands named by the word are read only when it executes is the model's reading
(notes/assumptions/109). So are the RBASE of a trap (notes/assumptions/10), the resume point inside a region (127),
the LIT32 of TRAP (125) and the choice between several erroneous registers (110). -/
def Obligations.TrapsAreTaken : Prop :=
  (∀ (x : TrapArgs) (y : Plain) (sub : BitVec 8) (w : BitVec 64) (s : State),
     x.cond.holds s.g.sc = true → y.cond.holds s.g.sc = true →
     let info : Word64 := match x.a with
       | none => 0
       | some o => s.g.src x.c .s64 o
     let take (rbase after here : Word) : Prop :=
       exec (.trap x) s = s.traps { code := 8, sub := x.n, info, rbase, off := after } ∧
       exec (.bkpt y) s = s.traps { code := 9, sub := 0, info := 0, rbase, off := here } ∧
       exec (.illegalInstruction sub w) s = s.traps { code := 1, sub, info := w, rbase, off := here }
     (s.g.region = none → take 0 (s.g.pc + BitVec.ofNat 32 x.c.len.bytes) s.g.pc) ∧
     ∀ r, s.g.region = some r →
       take (BitVec.ofNat 32 r.base)
         (if s.g.pc.toNat + x.c.len.bytes < r.base + r.stride then s.g.pc + BitVec.ofNat 32 x.c.len.bytes
          else BitVec.ofNat 32 (r.base + r.npl * r.stride))
         (s.g.pc + BitVec.ofNat 32 (s.g.plane.val * r.stride))) ∧
  (∀ (s : State) (t : TrapReq),
     (s.g.log ≠ [] → s.boundary (.trap t) = { s with g := { s.g with run := .parked (.trap t) } }) ∧
     (s.g.log = [] → s.g.deferred = [] →
       (s.g.status.getLsbD 0 = false → s.g.trapbase.getLsbD 0 = true → ∃ u,
         s.boundary (.trap t) = { s with g := u } ∧
         u.xpc = t.rbase ++ t.off ∧ u.xcause = BitVec.ofNat 64 (t.sub.toNat * 256 + t.code.toNat) ∧ u.xinfo = t.info ∧
         u.status.getLsbD 0 = true ∧ u.status.extractLsb' 12 4 = s.g.sc ∧
         u.status.getLsbD 1 = s.g.status.getLsbD 1 ∧ u.status.getLsbD 2 = s.g.status.getLsbD 2 ∧
         u.pc = BitVec.ofNat 32 (s.g.trapbase.toNat / 256 % 2 ^ 24 * 256) ∧ u.plane = 0 ∧ u.run = .ready ∧
         u.wdue = false ∧ u.waitw = none ∧ u.owesH = none ∧
         u = { s.g.moved u with run := u.run, wdue := u.wdue, waitw := u.waitw, owesH := u.owesH, status := u.status,
                                xpc := u.xpc, xcause := u.xcause, xinfo := u.xinfo, errs := u.errs }) ∧
       (s.g.status.getLsbD 0 = true ∨ s.g.trapbase.getLsbD 0 = false →
         s.boundary (.trap t) =
           s.abortLaunch s.g.launch (s.report 2 t.code t.sub t.info (s.g.xpc.extractLsb' 32 32) t.off)))) ∧
  ∀ (s : State) (w hi : BitVec 64) (i : Instr) (live : Option LiveWord) (place : Option TrapReq) (n : RegName),
    decode s.g.valloc w hi = .ok i → s.g.errs = [n] → n ∈ s.g.sources i →
    s.examine w hi live place = .none (s.boundary (.trap (match n with
      | .s k => s.g.trapHere 0x0F 1 (BitVec.ofNat 64 k.val)
      | .v k j => s.g.trapHere 0x0F 2 (BitVec.ofNat 64 (k.val + 2 ^ 8 * j.val))
      | .k k => s.g.trapHere 0x0F 3 (BitVec.ofNat 64 k.val)
      | .h k => s.g.trapHere 0x0F 4 (BitVec.ofNat 64 k.val)
      | .special k => s.g.trapHere 0x0F 5 (BitVec.ofNat 64 k.toNat))))

/-- TRET (R33): a run boundary; SC, TM and PC return in one step; a misaligned target is cause 0x02 at the TRET, which
aborts the launch since TM is 1; outside trap mode cause 0x01 with sub-cause 6. -/
def Obligations.TrapReturn : Prop :=
  ∀ (x : Plain) (s : State), x.cond.holds s.g.sc = true →
    let off : Word := s.g.xpc.setWidth 32
    (s.g.status.getLsbD 0 = true → s.g.log ≠ [] →
      exec (.tret x) s = .next { s with g := { s.g with run := .parked (.tret x.c.sp) } }) ∧
    (s.g.status.getLsbD 0 = true → s.g.log = [] → s.g.deferred = [] → off.toNat % 4 = 0 →
      s.g.xpc.toNat < 2 ^ 32 → s.g.inOtherCopy off = false →
      (x.c.sp = false ∨ s.preempting s.g.launch = false) → ∃ u,
        exec (.tret x) s = .next { s with g := u } ∧
        u.sc = s.g.status.extractLsb' 12 4 ∧ u.status.getLsbD 0 = false ∧ u.pc = off ∧ u.plane = 0 ∧ u.fresh = true ∧
        u.run = .ready ∧
        u = { s.g with pc := u.pc, plane := u.plane, fresh := u.fresh, issued := u.issued, run := u.run, sc := u.sc,
                       status := u.status, wcnt := u.wcnt, owes := u.owes, errs := u.errs }) ∧
    (s.g.status.getLsbD 0 = true → s.g.log = [] → s.g.deferred = [] → ∀ (r : Region) (o : Nat), r.base < 2 ^ 32 →
      0 < r.base → o < r.npl * r.stride → s.g.regions.find? (fun q => q.base == r.base) = some r →
      s.g.xpc.toNat = r.base * 2 ^ 32 + (r.base + o) → r.base + o < 2 ^ 32 → o % 4 = 0 → r.base % 4 = 0 →
      (x.c.sp = false ∨ s.preempting s.g.launch = false) → r.npl ≤ 4 → ∃ u,
        exec (.tret x) s = .next { s with g := u } ∧ u.sc = s.g.status.extractLsb' 12 4 ∧ u.status.getLsbD 0 = false ∧
        u.pc = BitVec.ofNat 32 (r.base + o % r.stride) ∧ u.plane.val = o / r.stride) ∧
    (s.g.status.getLsbD 0 = true → s.g.log = [] → s.g.deferred = [] → off.toNat % 4 ≠ 0 →
      exec (.tret x) s = .next (
        let t := s.abortLaunch s.g.launch (s.report 2 2 0 (off.setWidth 64) (s.g.xpc.extractLsb' 32 32) s.g.planeAddr)
        if t.g.run = .ready then t.safePoint x.c.sp fun _ => .ready else t)) ∧
    (s.g.status.getLsbD 0 = false →
      exec (.tret x) s = s.traps (s.g.trapHere 1 6 (Instr.tret x).word))

/-- Moving past a word that marks no run boundary: the next word of the code, the next plane of the offset, or the end
of the region after its last plane. Nothing but the group's place changes. SW and SP: the word's end is a run
boundary; behind an SP word fetch steps over the 8 bytes of the LIVE word. The group parks while results are
outstanding; else it goes on, with the watchdog restarted at a safe point. -/
def Obligations.EndsOfWords : Prop :=
  (∀ (s : State) (c : Ctl), s.runsOn c →
     let at' (pc : Nat) (p : Fin 4) (f : Bool) : State :=
       { s with g := { s.g with pc := BitVec.ofNat 32 pc, plane := p, fresh := f, issued := !f && s.g.issued, settled := false } }
     (s.g.region = none → s.advance c = at' (s.g.pc.toNat + c.len.bytes) 0 true) ∧
     ∀ r, s.g.region = some r →
       (∀ p : Fin 4, p.val = s.g.plane.val + 1 → p.val < r.npl → s.advance c = at' s.g.pc.toNat p false) ∧
       (r.npl ≤ s.g.plane.val + 1 ∨ s.g.plane = 3 →
         s.advance c = if s.g.pc.toNat + c.len.bytes < r.base + r.stride then at' (s.g.pc.toNat + c.len.bytes) 0 true
           else at' (r.base + r.npl * r.stride) 0 true)) ∧
  (∀ (s : State) (c : Ctl), s.g.region = none →
     let moved (n : Nat) : State :=
       { s with g := { s.g with pc := BitVec.ofNat 32 (s.g.pc.toNat + n), plane := 0, fresh := true, issued := false,
                                settled := false } }
     let quiet := s.g.deferred = [] ∧ (s.g.wdue = false ∨ s.g.tm = true) ∧ s.preempting s.g.launch = false
     (c.sw = true → c.sp = false → s.g.live = none →
       (s.g.log ≠ [] → s.advance c = { s with g := { (moved c.len.bytes).g with run := .parked (.switch false) } }) ∧
       (s.g.log = [] → quiet → s.advance c = { s with g := { (moved c.len.bytes).g with run := .ready } })) ∧
     (∀ l, s.g.live = some l →
       (s.g.log ≠ [] → s.advance c = { s with g := { (moved (c.len.bytes + 8)).g with run := .parked (.switch true) } }) ∧
       (s.g.log = [] → quiet → s.advance c =
         { s with g := { (moved (c.len.bytes + 8)).g with
                         run := .ready, wcnt := s.g.wdog.toNat * 1024, status := (s.g.setWdx false).status } })))

/-- NOP, PIDLE, LIVE, YIELD, SLEEP and a skip code: nothing changes but the place of the group, its grant and its
wait. YIELD and SLEEP park at every issue (R22); with nothing outstanding, deferred or due, YIELD stays Ready and
stands last in its core's order once the cycle ends, which gives it its second grant (R169), and SLEEP waits for its cycles,
or behaves as YIELD for none. The safe point of such a word outside a region restarts the watchdog. When YIELD and SLEEP of 0 take their
second grant, when a SLEEP has its safe point, that a LIT32 of SLEEP is sign-extended, and that a LIVE word meets no
check of placement, are the model's readings (notes/assumptions/128, 91, 125, 113). -/
def Obligations.IdleWords : Prop :=
  (∀ (x : Plain) (c : Ctl) (l : LiveWord) (w : BitVec 30) (s : State),
     exec (.nop x) s = s.issued x.c s.g ∧ exec (.pidle c) s = s.issued c s.g ∧
     (s.g.region = none →
       exec (.live l) s = .next { s with g :=
         { s.g with pc := s.g.pc + 8, plane := 0, fresh := true, issued := false, live := none } }) ∧
     (s.g.region = none →
       let next := (s.g.pc.toNat / 32 + 1) * 32
       exec (.skipCode w) s = if s.g.csize.toNat ≤ next then s.traps (s.g.trapHere 2 0 (s.g.pc.setWidth 64))
         else .next { s with g := { s.g with pc := BitVec.ofNat 32 next, plane := 0, fresh := true, issued := false } })) ∧
  (∀ (x : Plain) (y : Jump) (s : State), x.cond.holds s.g.sc = true → y.cond.holds s.g.sc = true → s.g.region = none →
     let after (c : Ctl) : Group := { s.g with
       pc := BitVec.ofNat 32 (s.g.pc.toNat + c.len.bytes + (if s.g.live.isSome then 8 else 0)), plane := 0, fresh := true
       issued := false, settled := false }
     let dog (c : Ctl) (g : Group) : Group := if c.sp then g.restartWatchdog else g
     let again := s.modCore s.g.coreRef fun k => { k with issue := { k.issue with yields := k.issue.yields ++ [s.g.slot] } }
     let n := min (s.g.src y.c .s64 y.a).toNat (2 ^ 24 - 1)
     (s.g.log ≠ [] →
       exec (.yield x) s = .next { again with g := { after x.c with run := .parked (.switch x.c.sp) } } ∧
       ∃ reg k, exec (.sleep y) s = .next { s with g := { after y.c with run := .parked (.sleep reg k y.c.sp) } }) ∧
     (s.g.log = [] → s.g.deferred = [] → (s.g.wdue = false ∨ s.g.tm = true) → s.preempting s.g.launch = false →
       exec (.yield x) s = .next { again with g := { dog x.c (after x.c) with run := .ready } } ∧
       (n ≠ 0 → exec (.sleep y) s =
         .next { s with g := { dog y.c (after y.c) with run := .waiting ⟨false, false, .l64, 0⟩ (.sleep n) } }) ∧
       (n = 0 → exec (.sleep y) s = .next { again with g := { dog y.c (after y.c) with run := .ready } }))) ∧
  (∀ (s : State), let c := s.g.coreRef
     (s.core c).issue.yields = [s.g.slot] → s.g.active = true →
     (s.giveYields c).g.grant = (s.core c).grant ∧ ((s.giveYields c).core c).grant = (s.core c).grant + 1 ∧
     ((s.giveYields c).core c).issue.yields = [])

/-- Every once-per-group word of classes 0 to 4 whose COND is false only goes on: it writes nothing and its SW and SP
bits act (R43). TRET, YIELD and SLEEP are a run boundary then as well (R22). -/
def Obligations.FalseConditionGoesOn : Prop :=
  ∀ (s : State),
    (∀ x : SInt, x.cond.holds s.g.sc = false →
      ∀ i ∈ [Instr.sadd x, .ssub x, .smul x, .smulh x, .smulhn x, .sdiv x, .sdivn x, .srem x, .sremn x, .sand x, .sor x,
        .sxor x, .sandn x, .sshl x, .sshr x, .ssra x, .srot x, .smin x, .smax x, .sminn x, .smaxn x, .sbfx x, .sbfi x],
        exec i s = s.issued x.c s.g) ∧
    (∀ x : SUnary, x.cond.holds s.g.sc = false →
      ∀ i ∈ [Instr.smov x, .spopc x, .sclz x, .sctz x, .sbrev x], exec i s = s.issued x.c s.g) ∧
    (∀ x : Branch, x.cond.holds s.g.sc = false →
      ∀ i ∈ [Instr.br x, .brc x, .brz x, .brnz x, .brmz x, .brma x, .call x], exec i s = s.issued x.c s.g) ∧
    (∀ x : Jump, x.cond.holds s.g.sc = false →
      ∀ i ∈ [Instr.calli x, .ret x, .jmpi x], exec i s = s.issued x.c s.g) ∧
    (∀ x : MaskOp, x.cond.holds s.g.sc = false →
      ∀ i ∈ [Instr.mset x, .mand x, .mor x, .mandn x, .mxor x, .mpop x, .mffs x], exec i s = s.issued x.c s.g) ∧
    (∀ x : TrapArgs, x.cond.holds s.g.sc = false → exec (.trap x) s = s.issued x.c s.g) ∧
    (∀ x : Plain, x.cond.holds s.g.sc = false →
      exec (.bkpt x) s = s.issued x.c s.g ∧
      ∀ i ∈ [Instr.tret x, .yield x], exec i s = .next ((s.pass x.c).boundary (.switch (s.passSp x.c)))) ∧
    (∀ y : Jump, y.cond.holds s.g.sc = false →
      exec (.sleep y) s = .next ((s.pass y.c).boundary (.switch (s.passSp y.c)))) ∧
    (∀ c : Ctl, s.g.region = none → s.passSp c = c.sp ∧ s.pass c = { s with g := { s.g with
      pc := s.g.pc + BitVec.ofNat 32 (c.len.bytes + (if s.g.live.isSome then 8 else 0)), plane := 0, fresh := true
      issued := false, settled := false } }) ∧
    (∀ x : KOpArgs, x.cond.holds s.g.sc = false → exec (.kop x) s = s.issued x.c s.g) ∧
    ∀ x : KMovArgs, x.cond.holds s.g.sc = false → exec (.kmov x) s = s.issued x.c s.g

/-- The frame of the class-0 and class-1 words that write a register and mark no run boundary: the whole device but
the focused group is unchanged, memory included; of the group only S(D) and a K destination, SC when the word sets it,
EXEC for the mask words, the lanes due of results still outstanding, and the group's place change. -/
def Obligations.ScalarFrame : Prop :=
  ∀ (s t : State) (i : Instr) (d : Operand) (flags mask : Bool),
    ((∃ x : SInt, d = .s x.d ∧ flags = x.fs ∧ mask = false ∧ s.runsOn x.c ∧
        i ∈ [Instr.sadd x, .ssub x, .smul x, .smulh x, .smulhn x, .sand x, .sor x, .sxor x, .sandn x, .sshl x, .sshr x,
          .ssra x, .srot x, .smin x, .smax x, .sminn x, .smaxn x, .sbfx x, .sbfi x]) ∨
      (∃ x : SUnary, d = .s x.d ∧ flags = x.fs ∧ mask = false ∧ s.runsOn x.c ∧
        i ∈ [Instr.smov x, .spopc x, .sclz x, .sctz x, .sbrev x]) ∨
      (∃ x : SCompare, d = .s 0 ∧ flags = true ∧ mask = false ∧ s.runsOn x.c ∧ i = .scmp x) ∨
      (∃ x : SSelect, d = .s x.d ∧ flags = false ∧ mask = false ∧ s.runsOn x.c ∧ i = .ssel x) ∨
      (∃ x : SInsert, d = .s x.d ∧ flags = false ∧ mask = false ∧ s.runsOn x.c ∧ i = .sli x) ∨
      (∃ x : FmtGet, d = .s x.d ∧ flags = false ∧ mask = false ∧ s.runsOn x.c ∧ i = .fmtget x) ∨
      (∃ x : MaskGet, d = x.d ∧ flags = x.fs ∧ mask = false ∧ s.runsOn x.c ∧ i = .mget x) ∨
      (∃ x : MaskOp, d = x.d ∧ flags = x.fs ∧ mask = true ∧ s.runsOn x.c ∧
        i ∈ [Instr.mset x, .mand x, .mor x, .mandn x, .mxor x]) ∨
      (∃ x : MaskOp, d = x.d ∧ flags = x.fs ∧ mask = false ∧ s.runsOn x.c ∧ i ∈ [Instr.mpop x, .mffs x]) ∨
      (∃ x : KOpArgs, d = x.d ∧ flags = false ∧ mask = false ∧ s.runsOn x.c ∧ i = .kop x) ∨
      (∃ x : KMovArgs, d = x.d ∧ flags = false ∧ mask = false ∧ s.runsOn x.c ∧ i = .kmov x)) →
    exec i s = .next t →
    s.onlyGroup t ∧ (∀ a, t.mem.read a = s.mem.read a) ∧
    t.g = { s.g.moved t.g with s := t.g.s, k := t.g.k, sc := t.g.sc, exec := t.g.exec, log := t.g.log, errs := t.g.errs } ∧
    (∀ e ∈ t.g.errs, e ∈ s.g.errs) ∧
    (∀ n, d ≠ .s n → t.g.readS n = s.g.readS n) ∧ (∀ n, d ≠ .k n → t.g.readK n = s.g.readK n) ∧
    (flags = false → t.g.sc = s.g.sc) ∧ (mask = false → t.g.exec = s.g.exec) ∧
    t.g.log.map (·.seq) = s.g.log.map (·.seq)

/-- A word with a bad VER field is no instruction, whatever its opcode: sub-cause 3, before any effect (R17). -/
def Obligations.BadVersionTraps : Prop :=
  ∀ (vl : Nat) (w hi : BitVec 64), w.extractLsb' 0 2 ≠ 3#2 → w.extractLsb' 2 2 ≠ 0#2 →
    decode vl w hi = .error .badVersion ∧
    ∀ (s : State) (live : Option LiveWord) (place : Option TrapReq),
      s.examine w hi live place = .run (.illegalInstruction 3 w) s ∧
      exec (.illegalInstruction 3 w) s = s.traps (s.g.trapHere 1 3 w)

/-- A step runs the word that fetch reads: when the agenda gives a Ready group its turn, the word at PC decodes and
the instruction reads no register with an uncorrectable error, the step is exec of it, once the core has chosen the
group for a unit of the word's class, which it holds for the word's cycles (R119, R140, R143, R168, R169). A word that stalls
takes no grant, which for every stall but that of R21 is the model's reading (notes/assumptions/57), and one that the core
cannot choose in this cycle does not issue. -/
def Obligations.StepRunsDecodedWord : Prop :=
  ∀ (s t u : State) (r : GroupRef) (old : Bool) (later : List Turn) (w hi : BitVec 64) (i : Instr),
    s.agenda = ⟨0, .issue r old⟩ :: later → s.inReset = false →
    State.focus { s with agenda := later } r = some t →
    t.g.run = .ready → t.g.spawnq = [] → (t.core t.g.coreRef).gated = false → t.g.pc.toNat < t.g.csize.toNat →
    t.fetchAt old t.g.pc.toNat = .word w hi u →
    isSkip w = false → u.g.pc.toNat % 32 + wordBytes w ≤ 32 → u.g.pc.toNat + wordBytes w ≤ u.g.csize.toNat →
    decode u.g.valloc w hi = .ok i → i.unit ≠ .free → (∀ n ∈ u.g.sources i, n ∉ u.g.errs) →
    let live := if isSafePoint w then liveAfter u.g.pc.toNat w (u.afterWord old u.g.pc.toNat w) else none
    let runs (v : State) : Prop :=
      (v.mayChoose i.unit = true →
        (∀ x, exec i (v.choose i.unit (v.g.occupancy i)) = .next x → v.g.held x.g = false) →
        step s = exec i (v.choose i.unit (v.g.occupancy i))) ∧
      (v.mayChoose i.unit = true →
        (∀ x, exec i (v.choose i.unit (v.g.occupancy i)) = .next x → v.g.held x.g = true → step s = exec i v)) ∧
      (v.mayChoose i.unit = false → step s = .next { s with agenda := later })
    (u.g.region = none → (isSafePoint w = true → live ≠ none) →
      runs { u with g := { u.g with live := live, fresh := false } }) ∧
    (∀ g, u.g.region = some g → u.g.fresh = false → u.g.plane = 0 → (u.g.occupied 0 = true ∨ isOncePerGroup w = true) →
      (isSafePoint w = true → live ≠ none) →
        runs { u with g := { u.g.checkPln g.npl with fresh := false, span := wordBytes w } })

/-! ### Classes 2 to 4 -/

/-- Which lanes execute (R42, R96), and what a write to a V register does to each lane, to the other registers, and to
results still outstanding: they never come later to a lane that has been written. Cross-lane moves: each executing
lane takes the element of its source lane as the register stood: VLANE, VBCAST, VSHUF and VSWZ; VRDLANE and VWRLANE
move between one lane and a uniform value. -/
def Obligations.LanesAndMoves : Prop :=
  (∀ (g : Group) (gd : Guard) (d n : Fin 128) (i : Lane) (m : LaneMask) (f : Lane → Word),
     ((g.executing gd).getLsbD i.val =
       (g.exec.getLsbD i.val && ((if gd.k = 0 then true else (g.k.get gd.k).getLsbD i.val) != gd.neg)
         && (decide (g.region = none) || decide ((g.pln.get i).toNat = g.plane.val)))) ∧
     (g.writeV d m f).readV n i = (if n = d ∧ m.getLsbD i.val = true then f i else g.readV n i) ∧
     ∀ p ∈ (g.writeV d m f).log, p.seq < g.seq → p.dst = .v d → m.getLsbD i.val = true → p.due.getLsbD i.val = false) ∧
  (∀ (x : LaneMove) (y : Permute) (q : ReadLane) (z : WriteLane) (s : State),
     let n := (s.g.src32 x.c x.b).toNat
     let lane (k : Nat) : Lane := Fin.ofNat 32 k
     let u := (s.g.src32 y.c y.b).toNat
     let moves (i : Instr) (f : Lane → Lane) : Prop :=
       exec i s = s.wroteLanes y.c y.g y.d fun l => s.g.readV y.a (f l)
     (∃ f : Lane → Lane, exec (.vlane x) s = s.wroteLanes x.c x.g x.d (fun l => s.g.readV x.a (f l)) ∧ ∀ l,
       match x.mode with
       | .rot => ((f l).val + n) % 32 = l.val
       | .up => (f l).val = if n ≤ l.val then l.val - n else l.val
       | .dn => (f l).val = if l.val + n < 32 then l.val + n else l.val
       | .xor => (f l).val = l.val ^^^ (n % 32)) ∧
     moves (.vbcast y) (fun _ => lane u) ∧
     moves (.vshuf y) (fun l => lane (s.g.lane32 y.c y.b l).toNat) ∧
     moves (.vswz y) (fun l => lane (l.val - l.val % 4 + u / 4 ^ (l.val % 4) % 4)) ∧
     exec (.vrdlane q) s = s.issued q.c
       (s.g.writeS q.d ((s.g.readV q.a (lane (s.g.src32 q.c q.b).toNat)).setWidth 64)) ∧
     ∃ m : LaneMask, exec (.vwrlane z) s = s.issued z.c (s.g.writeV z.d m fun _ => s.g.src32 z.c z.a) ∧
       ∀ i : Lane, m.getLsbD i.val = ((s.g.executing z.g).getLsbD i.val && decide (i = lane (s.g.src32 z.c z.b).toNat)))

/-- Packed class-2 arithmetic, element by element with no carry between elements: VADD, VSUB, VMIN, VMAX, VMINN,
VMAXN, VADDSAT, VSUBSAT and VABS. What PLN and LANEID give each element is the model's reading
(notes/assumptions/117). -/
def Obligations.PackedIntegers : Prop :=
  ∀ (x : VBinary) (y : VAbs) (s : State),
    let w := elemWidth x.ty
    let a (i : Lane) (e : Nat) := elemOf w e (s.g.lanePacked x.c w x.a i)
    let b (i : Lane) (e : Nat) := elemOf w e (s.g.lanePacked x.c w x.b i)
    let gives (i : Instr) (f : BitVec w → BitVec w → BitVec w) : Prop := ∃ r : Lane → Word,
      exec i s = s.wroteLanes x.c x.g x.d r ∧ ∀ l e, e < 32 / w → elemOf w e (r l) = f (a l e) (b l e)
    let clamp (z : Int) : BitVec w :=
      if x.ty.isSigned then BitVec.ofInt w (max (-2 ^ (w - 1)) (min (2 ^ (w - 1) - 1) z))
      else BitVec.ofInt w (max 0 (min (2 ^ w - 1) z))
    let val (u : BitVec w) : Int := if x.ty.isSigned then u.toInt else u.toNat
    gives (.vadd x) (fun u v => BitVec.ofNat w (u.toNat + v.toNat)) ∧
    gives (.vsub x) (fun u v => BitVec.ofInt w (u.toInt - v.toInt)) ∧
    gives (.vmin x) (fun u v => BitVec.ofInt w (min u.toInt v.toInt)) ∧
    gives (.vmax x) (fun u v => BitVec.ofInt w (max u.toInt v.toInt)) ∧
    gives (.vminn x) (fun u v => BitVec.ofNat w (min u.toNat v.toNat)) ∧
    gives (.vmaxn x) (fun u v => BitVec.ofNat w (max u.toNat v.toNat)) ∧
    gives (.vaddsat x) (fun u v => clamp (val u + val v)) ∧
    gives (.vsubsat x) (fun u v => clamp (val u - val v)) ∧
    ∃ r : Lane → Word, exec (.vabs y) s = s.wroteLanes y.c y.g y.d r ∧
      let w := elemWidth y.ty
      ∀ l e, e < 32 / w →
        let u := elemOf w e (s.g.lanePacked y.c w y.a l)
        elemOf w e (r l) = (if u.toInt = -2 ^ (w - 1) then if y.sat then BitVec.ofInt w (2 ^ (w - 1) - 1) else u
          else BitVec.ofNat w u.toInt.natAbs)

/-- R122: VSHL, VSHR and VSRA at every amount, the lane's whole 32-bit B element. -/
def Obligations.VectorShifts : Prop :=
  (∀ (x : VBinary) (s : State), x.ty.isW32 = true →
    let a (i : Lane) := s.g.lane32 x.c x.a i
    let n (i : Lane) := (s.g.lane32 x.c x.b i).toNat
    exec (.vshl x) s = s.wroteLanes x.c x.g x.d (fun i =>
      if n i < 32 then BitVec.ofNat 32 ((a i).toNat * 2 ^ n i) else 0) ∧
    exec (.vshr x) s = s.wroteLanes x.c x.g x.d (fun i =>
      if n i < 32 then BitVec.ofNat 32 ((a i).toNat / 2 ^ n i) else 0) ∧
    exec (.vsra x) s = s.wroteLanes x.c x.g x.d (fun i =>
      if n i < 32 then BitVec.ofInt 32 ((a i).toInt / 2 ^ n i)
      else if (a i).getLsbD 31 then 0xFFFFFFFF else 0)) ∧
  ∀ (g : Group) (c : Ctl) (n : Fin 64) (i : Lane),
    (g.lane32 c (.s n) i).toNat = (g.readS n).toNat % 2 ^ 32 ∧ g.lane32 c (.neg 0) i = 0xFFFFFFFF

/-- Class-2 words on whole 32-bit elements, and the widening forms: VMUL, VMULH, VMULHN, VMAD, VAND, VOR, VXOR, VANDN,
VSEL, VMOV, VPOPC, VCLZ, VMULW, VADD64 on its 64-bit types (R120, R126), and VDOT4. What a literal, PLN and LANEID give VDOT4
are the model's readings (notes/assumptions/11 and 117). -/
def Obligations.VectorIntegers : Prop :=
  (∀ (x : VBinary) (s : State), x.ty.isW32 = true →
    let a (i : Lane) := s.g.lane32 x.c x.a i
    let b (i : Lane) := s.g.lane32 x.c x.b i
    let gives (i : Instr) (f : Word → Word → Word) : Prop :=
      exec i s = s.wroteLanes x.c x.g x.d fun l => f (a l) (b l)
    gives (.vmul x) (fun u v => BitVec.ofNat 32 (u.toNat * v.toNat)) ∧
    gives (.vmulh x) (fun u v => BitVec.ofInt 32 (u.toInt * v.toInt / 2 ^ 32)) ∧
    gives (.vmulhn x) (fun u v => BitVec.ofNat 32 (u.toNat * v.toNat / 2 ^ 32)) ∧
    gives (.vand x) (fun u v => u &&& v) ∧ gives (.vor x) (fun u v => u ||| v) ∧
    gives (.vxor x) (fun u v => u ^^^ v) ∧ gives (.vandn x) (fun u v => u &&& ~~~v) ∧
    (x.ty = .s32 → exec (.vmulw x) s = s.issued x.c (s.g.writeV64 x.d (s.g.executing x.g) fun i =>
      BitVec.ofInt 64 ((a i).toInt * (b i).toInt))) ∧
    (x.ty = .n32 → exec (.vmulw x) s = s.issued x.c (s.g.writeV64 x.d (s.g.executing x.g) fun i =>
      BitVec.ofNat 64 ((a i).toNat * (b i).toNat)))) ∧
  (∀ (x : VBinary) (s : State), x.ty.isWide = true →
    exec (.vadd64 x) s = s.issued x.c (s.g.writeV64 x.d (s.g.executing x.g) fun i =>
      BitVec.ofNat 64 ((s.g.lane64 x.c x.ty x.a i).toNat + (s.g.lane64 x.c x.ty x.b i).toNat))) ∧
  ∀ (y : VTernary) (z : VSelect) (u : VUnary) (q : VDot) (s : State),
    exec (.vmad y) s = s.wroteLanes y.c y.g y.d (fun i => BitVec.ofNat 32
      ((s.g.lane32 y.c y.a i).toNat * (s.g.lane32 y.c y.b i).toNat + (s.g.lane32 y.c y.cc i).toNat)) ∧
    exec (.vsel z) s = s.wroteLanes z.c z.g z.d (fun i =>
      if z.k = 0 ∨ (s.g.k.get z.k).getLsbD i.val = true then s.g.lane32 z.c z.a i else s.g.lane32 z.c z.b i) ∧
    (u.ty ≠ .b64 → exec (.vmov u) s = s.wroteLanes u.c u.g u.d fun i => s.g.lane32 u.c u.a i) ∧
    (u.ty = .b64 → exec (.vmov u) s = s.issued u.c
      (s.g.writeV64 u.d (s.g.executing u.g) fun i => s.g.lane64 u.c .b64 u.a i)) ∧
    exec (.vpopc u) s = s.wroteLanes u.c u.g u.d (fun i => BitVec.ofNat 32
      ((List.finRange 32).filter fun k => (s.g.lane32 u.c u.a i).getLsbD k.val).length) ∧
    exec (.vclz u) s = s.wroteLanes u.c u.g u.d (fun i =>
      let v := (s.g.lane32 u.c u.a i).toNat
      BitVec.ofNat 32 (if v = 0 then 32 else 31 - v.log2)) ∧
    exec (.vdot4 q) s = s.wroteLanes q.c q.g q.d (fun i =>
      let va (e : Nat) := elemOf 8 e (s.g.lanePacked q.c 8 q.a i)
      let vb (e : Nat) := elemOf 8 e (s.g.lanePacked q.c 8 q.b i)
      let p (e : Nat) : Int := (if q.ty = .s8 then (va e).toInt else (va e).toNat) *
        (if q.bn then ((vb e).toNat : Int) else (vb e).toInt)
      BitVec.ofInt 32 ((s.g.lane32 q.c q.cc i).toInt + p 0 + p 1 + p 2 + p 3))

/-- VBFX, VBFI and VCMP lane by lane; VCMP and VFCMP write the bits of K(D) on executing lanes only. -/
def Obligations.VectorFieldsAndCompares : Prop :=
  ∀ (x : VBinary) (y : VCompare) (s : State), x.ty.isW32 = true →
    let a (i : Lane) := s.g.lane32 x.c x.a i
    let bw (i : Lane) := (s.g.lane32 x.c x.b i).toNat
    let pos (i : Lane) := bw i % 64
    let len (i : Lane) := if pos i < 32 then min (bw i / 256 % 128) (32 - pos i) else 0
    let K (g : Group) (d : Fin 8) (p : Lane → Bool) : Prop := ∀ n (i : Lane),
      (g.readK n).getLsbD i.val =
        (if n = d ∧ d ≠ 0 ∧ (s.g.executing y.g).getLsbD i.val = true then p i else (s.g.readK n).getLsbD i.val)
    (∃ e n : Lane → Word, exec (.vbfx x) s = s.wroteLanes x.c x.g x.d e ∧
      exec (.vbfi x) s = s.wroteLanes x.c x.g x.d n ∧ ∀ l k, k < 32 →
        (e l).getLsbD k = (if k < len l then (a l).getLsbD (pos l + k)
          else decide (0 < len l) && decide (x.ty = .s32) && (a l).getLsbD (pos l + len l - 1)) ∧
        (n l).getLsbD k = (if pos l ≤ k ∧ k < pos l + len l then (a l).getLsbD (k - pos l)
          else (s.g.readV x.d l).getLsbD k)) ∧
    (y.ty.isW32 = true → ∃ g, exec (.vcmp y) s = s.issued y.c g ∧ g = { s.g with k := g.k, errs := g.errs } ∧ K g y.d fun i =>
      let u := s.g.lane32 y.c y.a i
      let v := s.g.lane32 y.c y.b i
      let below := if y.ty = .s32 then decide (u.toInt < v.toInt) else decide (u.toNat < v.toNat)
      match y.cc.val with
      | 0 => decide (u = v) | 1 => decide (u ≠ v) | 2 => below | 3 => below || decide (u = v)
      | 4 => !below && decide (u ≠ v) | _ => !below) ∧
    ∃ g, exec (.vfcmp y) s = s.issued y.c g ∧ g = { s.g with k := g.k, errs := g.errs } ∧ K g y.d fun i =>
      let u := (fmtOf y.ty).decode (s.g.laneF y.c y.ty y.a i)
      let v := (fmtOf y.ty).decode (s.g.laneF y.c y.ty y.b i)
      let uno := u.isNan || v.isNan
      match y.cc.val with
      | 0 => !uno && u.eq v | 1 => uno || !u.eq v | 2 => !uno && u.lt v | 3 => !uno && u.le v
      | 4 => !uno && v.lt u | 5 => !uno && v.le u | 6 => !uno | _ => uno

/-- The rounded arithmetic of class 3: one rounding of the exact result, with RM or FMT.RND of the issuing plane:
VFADD, VFSUB, VFMUL, VFDIV, VFMA, VFSQRT, VFRND, the packed VHADD, VHMUL and VHFMA, and VFDOT2. That VFDIV and VFSQRT
of half formats round the exact result once is the model's reading (notes/assumptions/116). -/
def Obligations.FloatArithmetic : Prop :=
  ∀ (x : VFBinary) (y : VFTernary) (z : VFUnary) (s : State),
    let fm := fmtOf x.ty
    let fy := fmtOf y.ty
    let r := s.g.round x.rm
    let ry := s.g.round y.rm
    let v (o : Operand) (i : Lane) := fm.decode (s.g.laneF x.c x.ty o i)
    let vy (o : Operand) (i : Lane) := fy.decode (s.g.laneF y.c y.ty o i)
    let h (o : Operand) (i : Lane) (e : Nat) := fm.decode (elemOf 16 e (s.g.laneHalves x.c x.ty o i)).toNat
    let hy (o : Operand) (i : Lane) (e : Nat) := fy.decode (elemOf 16 e (s.g.laneHalves y.c y.ty o i)).toNat
    let gives (i : Instr) (f : Lane → Nat) : Prop :=
      exec i s = s.wroteLanes x.c x.g x.d fun l => BitVec.ofNat 32 (f l)
    let halves (i : Instr) (c : Ctl) (g : Guard) (d : Fin 128) (f : Lane → Nat → Nat) : Prop :=
      exec i s = s.wroteLanes c g d fun l => BitVec.ofNat 16 (f l 1) ++ BitVec.ofNat 16 (f l 0)
    gives (.vfadd x) (fun i => fm.round r false ((v x.a i).add r (v x.b i))) ∧
    gives (.vfsub x) (fun i => fm.round r false ((v x.a i).add r (v x.b i).neg)) ∧
    gives (.vfmul x) (fun i => fm.round r false ((v x.a i).mul (v x.b i))) ∧
    gives (.vfdiv x) (fun i => fm.div r (v x.a i) (v x.b i)) ∧
    exec (.vfma y) s = s.wroteLanes y.c y.g y.d (fun i =>
      BitVec.ofNat 32 (fy.round ry false (((vy y.a i).mul (vy y.b i)).add ry (vy y.cc i)))) ∧
    exec (.vfsqrt z) s = s.wroteLanes z.c z.g z.d (fun i =>
      BitVec.ofNat 32 ((fmtOf z.ty).sqrt (s.g.round z.rm) ((fmtOf z.ty).decode (s.g.laneF z.c z.ty z.a i)))) ∧
    exec (.vfrnd z) s = s.wroteLanes z.c z.g z.d (fun i =>
      BitVec.ofNat 32 ((fmtOf z.ty).roundInt (s.g.round z.rm) (s.g.laneF z.c z.ty z.a i))) ∧
    halves (.vhadd x) x.c x.g x.d (fun i e => fm.round r false ((h x.a i e).add r (h x.b i e))) ∧
    halves (.vhmul x) x.c x.g x.d (fun i e => fm.round r false ((h x.a i e).mul (h x.b i e))) ∧
    halves (.vhfma y) y.c y.g y.d
      (fun i e => fy.round ry false (((hy y.a i e).mul (hy y.b i e)).add ry (hy y.cc i e))) ∧
    exec (.vfdot2 y) s = s.wroteLanes y.c y.g y.d (fun i =>
      BitVec.ofNat 32 (fp32.round ry false (((hy y.a i 0).mul (hy y.b i 0)).add ry
        (((hy y.a i 1).mul (hy y.b i 1)).add ry (fp32.decode (s.g.laneF y.c .f32 y.cc i))))))

/-- R130: VFABS clears the sign bit, VFNEG inverts it, and no other bit of the value changes; under .f16 and .bf16
bits [31:16] are written as zero; B and C are 0x00. -/
def Obligations.FloatSigns : Prop :=
  ∀ (x : VUnary) (s : State), x.ty.isLaneFloat = true →
    let top := if x.ty = .f32 then 31 else 15
    let val (i : Lane) : Word := BitVec.ofNat 32 (s.g.laneF x.c x.ty x.a i)
    (∃ a n : Lane → Word, exec (.vfabs x) s = s.wroteLanes x.c x.g x.d a ∧
      exec (.vfneg x) s = s.wroteLanes x.c x.g x.d n ∧ ∀ i k, k < 32 →
        (a i).getLsbD k = (decide (k < top) && (val i).getLsbD k) ∧
        (n i).getLsbD k = (if k < top then (val i).getLsbD k else decide (k = top) && !(val i).getLsbD k)) ∧
    ∀ i ∈ [Instr.vfabs x, .vfneg x], i.word.extractLsb' 34 16 = 0

/-- VFMIN and VFMAX, with -0 below +0 in either order and the NaN rules of R129; VFCLASS; and the functions VFRCP, VFRSQ,
VFEXP2, VFLOG2, VFSIN, VFCOS and VFTANH: each a fixed function of its input bits, with half inputs widened exactly and rounded
once, and every special value of R94, that of every NaN pattern included, with those of VFSQRT in FP32. The value inside the
bounds of R93 is a free one (notes/assumptions/3). -/
def Obligations.FloatFunctions : Prop :=
  (∀ (x : VFMinMax) (y : VUnary) (z : VFUnary) (s : State),
    let fm := fmtOf z.ty
    let fun32 (i : Instr) (f : LaneFun) : Prop := exec i s = s.wroteLanes z.c z.g z.d fun l =>
      let b := s.g.laneF z.c z.ty z.a l
      if z.ty = .f32 then laneFun f (BitVec.ofNat 32 b)
      else BitVec.ofNat 32 (fm.round .rne false
        (fp32.decode (laneFun f (BitVec.ofNat 32 (fp32.round .rne false (fm.decode b)))).toNat))
    let neg (v : Nat) : Bool := v / 2 ^ ((fmtOf x.ty).mbits + (fmtOf x.ty).ebits) % 2 == 1
    let pick (i : Instr) (isMax : Bool) : Prop := ∃ r : Lane → Nat,
      exec i s = s.wroteLanes x.c x.g x.d (fun l => BitVec.ofNat 32 (r l)) ∧ ∀ l,
        let a := s.g.laneF x.c x.ty x.a l
        let b := s.g.laneF x.c x.ty x.b l
        let va := (fmtOf x.ty).decode a
        let vb := (fmtOf x.ty).decode b
        ((x.nanp = true ∧ (va.isNan = true ∨ vb.isNan = true)) ∨ (va.isNan = true ∧ vb.isNan = true) →
          r l = (fmtOf x.ty).nan) ∧
        (x.nanp = false → va.isNan = true → vb.isNan = false → r l = b) ∧
        (x.nanp = false → va.isNan = false → vb.isNan = true → r l = a) ∧
        (va.isNan = false → vb.isNan = false → (r l = a ∨ r l = b) ∧
          (va.lt vb = true → r l = if isMax then b else a) ∧ (vb.lt va = true → r l = if isMax then a else b) ∧
          (va.lt vb = false → vb.lt va = false →
            (neg a = true ∨ neg b = false → r l = if isMax then b else a) ∧
            (neg a = false → neg b = true → r l = if isMax then a else b)))
    pick (.vfmin x) false ∧ pick (.vfmax x) true ∧
    exec (.vfclass y) s = s.wroteLanes y.c y.g y.d (fun i =>
      BitVec.ofNat 32 (floatClass (fmtOf y.ty) (s.g.laneF y.c y.ty y.a i))) ∧
    fun32 (.vfrcp z) .rcp ∧ fun32 (.vfrsq z) .rsq ∧ fun32 (.vfexp2 z) .exp2 ∧ fun32 (.vflog2 z) .log2 ∧
    fun32 (.vfsin z) .sin ∧ fun32 (.vfcos z) .cos ∧ fun32 (.vftanh z) .tanh) ∧
  (∀ (f : LaneFun) (x : Word), (fp32.decode x.toNat).isNan = true → laneFun f x = 0x7FC00000) ∧
  (∀ p ∈ ([(LaneFun.rcp, 0x80000000, 0xFF800000, 0x7F800000, 0x0), (LaneFun.rsq, 0x7FC00000, 0xFF800000, 0x7F800000, 0x0),
      (LaneFun.exp2, 0x0, 0x3F800000, 0x3F800000, 0x7F800000), (LaneFun.log2, 0x7FC00000, 0xFF800000, 0xFF800000, 0x7F800000),
      (LaneFun.sin, 0x7FC00000, 0x80000000, 0x0, 0x7FC00000), (LaneFun.cos, 0x7FC00000, 0x3F800000, 0x3F800000, 0x7FC00000),
      (LaneFun.tanh, 0xBF800000, 0x80000000, 0x0, 0x3F800000)] :
      List (LaneFun × Word × Word × Word × Word)),
    laneFun p.1 0xFF800000 = p.2.1 ∧ laneFun p.1 0x80000000 = p.2.2.1 ∧ laneFun p.1 0 = p.2.2.2.1 ∧
    laneFun p.1 0x7F800000 = p.2.2.2.2) ∧
  (∀ x : Word, 0x80000000 < x.toNat → x.toNat < 0xFF800000 →
    laneFun .rsq x = 0x7FC00000 ∧ laneFun .log2 x = 0x7FC00000 ∧ ∀ r, fp32.sqrt r (fp32.decode x.toNat) = 0x7FC00000) ∧
  laneFun .log2 0x3F800000 = 0 ∧
  ∀ (r : Round) (x : Nat), ((fp32.decode x).isNan = true ∨ x = 0xFF800000 → fp32.sqrt r (fp32.decode x) = 0x7FC00000) ∧
    (x ∈ [0, 0x80000000, 0x7F800000] → fp32.sqrt r (fp32.decode x) = x)

/-- Conversions: VCVT, VQNT and VDQNT in both modes, VAMAX, VPACK and VUNPK write what R84 to R86 and R142 to R148
give for each executing lane. Conversions to E8M0, and how a constant is read as a source, are the model's readings
(notes/assumptions/12, 13, 115). -/
def Obligations.Conversions : Prop :=
  ∀ (x : Convert) (y : Quant) (z : VBinary) (p : Pack) (s : State),
    let el (c : Ctl) (ty : Ty) (o : Operand) (i : Lane) := s.g.laneTyped c ty o i
    let f32 (o : Operand) (i : Lane) := fp32.decode (el y.c .f32 o i)
    let ry := s.g.round y.rm
    let members := (List.finRange 32).filter fun i => (s.g.executing y.g).getLsbD i.val
    exec (.vcvt x) s = s.wroteLanes x.c x.g x.d (fun i =>
      laneOf x.ty (convert x.ty x.ty2 (s.g.round x.rm) (x.sat || s.g.fmtSat) (el x.c x.ty2 x.a i))) ∧
    (∀ b, y.b = some b →
      exec (.vqnt y) s = s.wroteLanes y.c y.g y.d (fun i =>
        laneOf y.ty (roundTo y.ty ry (y.sat || s.g.fmtSat) ((f32 y.a i).mul (f32 b i)))) ∧
      exec (.vdqnt y) s = s.wroteLanes y.c y.g y.d (fun i =>
        BitVec.ofNat 32 (fp32.round ry false ((valOf y.ty (el y.c y.ty y.a i)).mul (f32 b i))))) ∧
    (y.b = none →
      (∃ code, exec (.vqnt y) s = s.wroteLanes y.c y.g y.d (fun i =>
          BitVec.ofNat 8 code ++ 0#16 ++ BitVec.ofNat 8 (mxElem y.ty ry code (f32 y.a i))) ∧
        code = mxScale y.ty (members.foldl (fun r i => amax2 r (BitVec.ofNat 32 (el y.c .f32 y.a i))) 0)) ∧
      exec (.vdqnt y) s = s.wroteLanes y.c y.g y.d (fun i =>
        let u := s.g.lane32 y.c y.a i
        BitVec.ofNat 32 (fp32.round ry false ((valOf y.ty (u.toNat % 2 ^ y.ty.bits)).mul (e8m0Val (u.toNat / 2 ^ 24)))))) ∧
    exec (.vamax z) s = s.wroteLanes z.c z.g z.d (fun i =>
      amaxCanon (widenF32 z.ty (el z.c z.ty z.a i)) (widenF32 z.ty (el z.c z.ty z.b i))) ∧
    (p.ty.inSetP = true → ∃ r : Lane → Word, exec (.vpack p) s = s.wroteLanes p.c p.g p.d r ∧ ∀ i,
      let w := p.ty.bits
      let at' := (s.g.lane32 p.c p.b i).toNat % (32 / w)
      ∀ e, e < 32 / w → (elemOf w e (r i)).toNat = (if e = at'
        then convert p.ty p.ty2 (s.g.round p.rm) (p.sat || s.g.fmtSat) (el p.c p.ty2 p.a i) % 2 ^ w
        else (elemOf w e (s.g.readV p.d i)).toNat)) ∧
    exec (.vunpk p) s = s.wroteLanes p.c p.g p.d (fun i =>
      let w := p.ty2.bits
      let at' := (s.g.lane32 p.c p.b i).toNat % (32 / w)
      let u := if isConst p.a then el p.c p.ty2 p.a i else (elemOf w at' (s.g.lane32 p.c p.a i)).toNat
      laneOf p.ty (convert p.ty p.ty2 (s.g.round p.rm) (p.sat || s.g.fmtSat) u))

/-- Reductions and votes over the executing lanes, every other lane giving the operation's identity (R149): VSCAN in
ascending lane order, of which a float ADD rounds at the members behind the first alone (R152), VRED as the pairwise tree of
R87, which on integers is any order; VBALLOT and VVOTE. The sign of a zero sum with lanes that are no members, and what becomes
of a lone NaN, are the model's readings (notes/assumptions/87), and so is a sum with an infinite operand under FMT.SAT
(notes/assumptions/144). -/
def Obligations.ReductionsAndVotes : Prop :=
  ∀ (x : Reduce) (y : Ballot) (z : Vote) (s : State),
    let m := s.g.executing x.g
    let id := redIdentity x.op x.ty
    let inp (i : Lane) : Word := if m.getLsbD i.val then BitVec.ofNat 32 (s.g.laneTyped x.c x.ty x.a i) else id
    let comb := redCombine x.op x.ty (s.g.round x.rm) s.g.fmtSat
    let alone (v : Word) : Word := if x.op = .amax then amaxCanon v v
      else if x.ty = .f32 ∧ (fp32.decode v.toNat).isNan = true then 0x7FC00000 else v
    let run (ls : List Lane) : Word := match ls with
      | [] => id
      | i :: r => r.foldl (fun a k => comb a (inp k)) (alone (inp i))
    let lanes (m : LaneMask) := (List.finRange 32).filter fun i => m.getLsbD i.val
    let counts (i : Lane) : Bool := !(x.op == .add && x.ty == .f32) || m.getLsbD i.val
    exec (.vscan x) s = s.wroteLanes x.c x.g x.d (fun l =>
      run ((List.finRange 32).filter fun i => counts i && if x.excl then decide (i < l) else decide (i ≤ l))) ∧
    (x.ty ≠ .f32 → x.op ≠ .amax → exec (.vred x) s = s.wroteLanes x.c x.g x.d (fun _ => run (List.finRange 32))) ∧
    (∃ v, exec (.vred x) s = s.wroteLanes x.c x.g x.d (fun _ => v) ∧
      [v] = pairLevel comb (pairLevel comb (pairLevel comb (pairLevel comb (pairLevel comb
        ((List.finRange 32).map inp)))))) ∧
    (let e := s.g.executing y.g
     ∃ v : LaneMask, (∀ i : Lane, v.getLsbD i.val = (e.getLsbD i.val && decide (s.g.lane32 y.c y.a i ≠ 0))) ∧
      (∀ n, y.d = .k n → exec (.vballot y) s = s.issued y.c (s.g.writeK n v)) ∧
      ∀ n, y.d = .v n → exec (.vballot y) s = s.wroteLanes y.c y.g n fun _ => v) ∧
    let e := lanes (s.g.executing z.g)
    let el (i : Lane) := s.g.lane32 z.c z.a i
    let v : Nat := match z.mode with
      | .all => if ∀ i ∈ e, el i ≠ 0 then 1 else 0
      | .any => if ∃ i ∈ e, el i ≠ 0 then 1 else 0
      | .eq => if ∀ i ∈ e, ∀ j ∈ e, el i = el j then 1 else 0
      | .cnt => (e.filter fun i => el i ≠ 0).length
    (∀ n, z.d = .s n → exec (.vvote z) s = s.issued z.c (s.g.writeS n (BitVec.ofNat 64 v))) ∧
    ∀ n, z.d = .v n → exec (.vvote z) s = s.wroteLanes z.c z.g n fun _ => BitVec.ofNat 32 v

/-- The frame of the lane-executed words of classes 2 to 4 that mark no run boundary: the device but the focused group
is unchanged, every byte of memory included; only V(D), and the odd register of a pair, change, and only on executing
lanes. -/
def Obligations.VectorFrame : Prop :=
  ∀ (s t : State) (i : Instr) (gd : Guard) (d : Fin 128) (pair : Bool),
    ((∃ x : VBinary, gd = x.g ∧ d = x.d ∧ s.runsOn x.c ∧
        (pair = false ∧ i ∈ [Instr.vadd x, .vsub x, .vmul x, .vmulh x, .vmulhn x, .vand x, .vor x, .vxor x, .vandn x,
          .vshl x, .vshr x, .vsra x, .vmin x, .vmax x, .vminn x, .vmaxn x, .vaddsat x, .vsubsat x, .vbfx x, .vbfi x,
          .vamax x] ∨ pair = true ∧ i ∈ [Instr.vmulw x, .vadd64 x])) ∨
      (∃ x : VTernary, gd = x.g ∧ d = x.d ∧ s.runsOn x.c ∧ pair = false ∧ i = .vmad x) ∨
      (∃ x : VUnary, gd = x.g ∧ d = x.d ∧ s.runsOn x.c ∧ (pair = decide (x.ty = .b64) ∧ i = .vmov x ∨
        pair = false ∧ i ∈ [Instr.vpopc x, .vclz x, .vfabs x, .vfneg x, .vfclass x])) ∨
      (∃ x : VFBinary, gd = x.g ∧ d = x.d ∧ s.runsOn x.c ∧
        i ∈ [Instr.vfadd x, .vfsub x, .vfmul x, .vfdiv x, .vhadd x, .vhmul x]) ∨
      (∃ x : VFTernary, gd = x.g ∧ d = x.d ∧ s.runsOn x.c ∧ pair = false ∧ i ∈ [Instr.vfma x, .vhfma x, .vfdot2 x]) ∨
      (∃ x : VFUnary, gd = x.g ∧ d = x.d ∧ s.runsOn x.c ∧ pair = false ∧ i ∈ [Instr.vfrcp x, .vfrsq x, .vfsqrt x, .vfexp2 x, .vflog2 x,
        .vfsin x, .vfcos x, .vftanh x, .vfrnd x]) ∨
      (∃ x : VFMinMax, gd = x.g ∧ d = x.d ∧ s.runsOn x.c ∧ pair = false ∧ i ∈ [Instr.vfmin x, .vfmax x]) ∨
      (∃ x : Convert, gd = x.g ∧ d = x.d ∧ s.runsOn x.c ∧ pair = false ∧ i = .vcvt x) ∨
      (∃ x : Quant, gd = x.g ∧ d = x.d ∧ s.runsOn x.c ∧ pair = false ∧ i ∈ [Instr.vqnt x, .vdqnt x]) ∨
      (∃ x : Pack, gd = x.g ∧ d = x.d ∧ s.runsOn x.c ∧ pair = false ∧ i ∈ [Instr.vpack x, .vunpk x]) ∨
      (∃ x : Permute, gd = x.g ∧ d = x.d ∧ s.runsOn x.c ∧ pair = false ∧ i ∈ [Instr.vbcast x, .vshuf x, .vswz x]) ∨
      (∃ x : LaneMove, gd = x.g ∧ d = x.d ∧ s.runsOn x.c ∧ pair = false ∧ i = .vlane x) ∨
      (∃ x : WriteLane, gd = x.g ∧ d = x.d ∧ s.runsOn x.c ∧ pair = false ∧ i = .vwrlane x) ∨
      (∃ x : Reduce, gd = x.g ∧ d = x.d ∧ s.runsOn x.c ∧ pair = false ∧ i ∈ [Instr.vscan x, .vred x])) →
    exec i s = .next t →
    s.onlyGroup t ∧ (∀ a, t.mem.read a = s.mem.read a) ∧
    t.g = { s.g.moved t.g with v := t.g.v, log := t.g.log, errs := t.g.errs } ∧ (∀ e ∈ t.g.errs, e ∈ s.g.errs) ∧
    (∀ n l, t.g.readV n l = s.g.readV n l ∨
      ((s.g.executing gd).getLsbD l.val = true ∧ (n = d ∨ (pair = true ∧ n = pairHi d)))) ∧
    t.g.log.map (·.seq) = s.g.log.map (·.seq)

/-! ### Class 5 -/

/-- Loads at issue: LDS, LDV, LDL, LDA, LDC and LDRO, in their lane and scalar forms. With room in the operand log, no
flush in force and every address permitted, the word leaves one outstanding result with the addresses of its elements,
and nothing else; without an executing lane it leaves none. -/
def Obligations.LoadsIssue : Prop :=
  ∀ (x : SLoad) (y : VLoad) (s : State), s.g.cflush = none → s.g.log.length < 16 →
    let leaves (i : Instr) (c : Ctl) (sp : Space) (ro : Bool) (ty : Ty) (sco : Scope) (ord : Ord) (d : Dest)
        (es : List (Lane × Nat)) : Prop := ∃ p : Pend,
      exec i s = s.issued c { s.g with log := s.g.log ++ [p], seq := s.g.seq + 1 } ∧ p.seq = s.g.seq ∧
      p.fpos = s.g.stores ∧ p.instr = i ∧ p.kind = .load sp ro ∧ p.ty = ty ∧ p.sco = sco ∧ p.ord = ord ∧ p.dst = d ∧
      p.lanes = es.map fun e => ⟨e.1, e.2, 0, 0, none⟩
    let scalar := !y.d.isV
    let units : List Lane := if scalar then [0] else (List.finRange 32).filter fun i => (s.g.executing y.g).getLsbD i.val
    let dst : Dest := match y.d with
      | .s n => .s n
      | .v n => if y.ty.bytes = 8 then .vpair n else .v n
      | _ => .none
    let base (i : Lane) : Word64 := match y.a with
      | .v n => s.g.readV64 n i
      | o => s.g.src y.c .s64 o
    let off (i : Lane) : Word64 := match y.b with
      | .v n => (s.g.readV n i).signExtend 64
      | o => s.g.src y.c .s64 o
    let ga (i : Lane) : Nat := (base i + off i).toNat
    let ta (i : Lane) : Nat := (s.g.lane32 y.c y.a i + s.g.lane32 y.c y.b i).toNat
    let global (i : Instr) (ro : Bool) : Prop := (∀ l ∈ units, ga l < 2 ^ 56 ∧ ga l % y.ty.bytes = 0) →
      leaves i y.c .glob ro y.ty y.sco y.ord dst (units.map fun l => (l, ga l))
    let typed (i : Instr) (sp : Space) : Prop :=
      (∀ l ∈ units, ta l + y.ty.bytes ≤ s.windowSize sp ∧ ta l % y.ty.bytes = 0) →
      leaves i y.c sp false y.ty y.sco y.ord dst (units.map fun l => (l, ta l))
    (let a := (s.g.readS x.a + s.g.src x.c .s64 x.b).toNat
     x.cond.holds s.g.sc = true → a < 2 ^ 56 → a % x.ty.bytes = 0 →
      leaves (.lds x) x.c .glob false x.ty x.sco x.ord (.s x.d) [(0, a)]) ∧
    (units ≠ [] → global (.ldv y) false ∧ global (.ldro y) true ∧ typed (.ldl y) .l ∧ typed (.lda y) .a ∧
      typed (.ldc y) .c) ∧
    (units = [] → ∀ i ∈ [Instr.ldv y, .ldro y, .ldl y, .lda y, .ldc y], exec i s = s.issued y.c s.g)

/-- Stores and atomics at issue: STS, STV, STL, STA, STC, ATOMS, ATOMV and ATOML. With room in the store FIFO, and in
the log for a value-returning atomic, the word leaves one FIFO entry with the addresses and data of its elements, a
LIT32 of a half format converted from FP32 (R41): no byte of memory changes until the entry leaves. Data of 8-bit
formats, and .f32 with a constant, are the model's reading (notes/assumptions/88). -/
def Obligations.StoresIssue : Prop :=
  ∀ (x : SStore) (y : VStore) (u : SAtomic) (v : VAtomic) (s : State),
    s.g.cflush = none → s.g.log.length < 16 → s.g.fifo.length < 32 →
    let entry (i : Instr) (e : FifoEntry) (sp : Space) (kind : FifoKind) (w : Nat) (ret : Bool)
        (es : List (Lane × Nat × Word64)) : Prop :=
      e.seq = s.g.seq ∧ e.fpos = s.g.stores ∧ e.instr = i ∧ e.sp = sp ∧ e.kind = kind ∧ e.width = w ∧ e.ret = ret ∧ e.sent = false ∧
      e.lanes.map (fun a => (a.lane, a.addr, a.data)) = es
    let stores (i : Instr) (c : Ctl) (sp : Space) (w : Nat) (es : List (Lane × Nat × Word64)) : Prop :=
      ∃ e, entry i e sp .store w false es ∧
        exec i s = s.issued c { s.g with fifo := s.g.fifo ++ [e], seq := s.g.seq + 1, stores := s.g.stores + 1 }
    let atomic (i : Instr) (c : Ctl) (sp : Space) (op : Aop) (w : Nat) (d : Option Dest)
        (es : List (Lane × Nat × Word64)) : Prop := ∃ e, entry i e sp (.atomic op) w d.isSome es ∧
      match d with
      | none => exec i s = s.issued c { s.g with fifo := s.g.fifo ++ [e], seq := s.g.seq + 1, stores := s.g.stores + 1 }
      | some d => ∃ p : Pend, p.seq = s.g.seq ∧ p.kind = .atomic ∧ p.dst = d ∧ p.lanes.map (·.addr) = es.map (·.2.1) ∧
        exec i s = s.issued c { s.g with
          fifo := s.g.fifo ++ [e], log := s.g.log ++ [p], seq := s.g.seq + 1, stores := s.g.stores + 1 }
    let lanes (g : Guard) := (List.finRange 32).filter fun i => (s.g.executing g).getLsbD i.val
    let ga (c : Ctl) (a b : Operand) (i : Lane) : Nat := (s.g.laneAddr c a b i).toNat
    let ta (c : Ctl) (a b : Operand) (i : Lane) : Nat := (s.g.lane32 c a i + s.g.lane32 c b i).toNat
    let half (c : Ctl) (ty : Ty) (o : Operand) (x : Word64) : Word64 := if ty.isHalf = true ∧ o = .lit32
      then BitVec.ofNat 64 ((fmtOf ty).round .rne false (fp32.decode c.lit32.toNat)) else x
    let data (c : Ctl) (ty : Ty) (o : Operand) (i : Lane) : Word64 := half c ty o
      (if ty.bytes = 8 then s.g.lane64 c ty o i else if o = .lit64 then c.lit else (s.g.lane32 c o i).setWidth 64)
    let form := y.g = ⟨0, false⟩ ∧ y.a.isV = false ∧ y.b.isV = false ∧ y.data.isV = false
    let typed (i : Instr) (sp : Space) (ls : List Lane) : Prop := ls ≠ [] →
      (∀ l ∈ ls, ta y.c y.a y.b l + y.ty.bytes ≤ s.windowSize sp ∧ ta y.c y.a y.b l % y.ty.bytes = 0) →
      stores i y.c sp y.ty.bytes (ls.map fun l => (l, ta y.c y.a y.b l, data y.c y.ty y.data l))
    (let a := (s.g.readS x.a + s.g.src x.c .s64 x.b).toNat
     x.cond.holds s.g.sc = true → a < 2 ^ 56 → a % x.ty.bytes = 0 →
      stores (.sts x) x.c .glob x.ty.bytes [(0, a, half x.c x.ty x.data (s.g.src x.c x.ty x.data))]) ∧
    (lanes y.g ≠ [] → (∀ l ∈ lanes y.g, ga y.c y.a y.b l < 2 ^ 56 ∧ ga y.c y.a y.b l % y.ty.bytes = 0) →
      stores (.stv y) y.c .glob y.ty.bytes
        ((lanes y.g).map fun l => (l, ga y.c y.a y.b l, data y.c y.ty y.data l))) ∧
    (form → typed (.stl y) .l [0] ∧ typed (.sta y) .a [0]) ∧
    (¬ form → typed (.stl y) .l (lanes y.g) ∧ typed (.sta y) .a (lanes y.g)) ∧
    typed (.stc y) .c (lanes y.g) ∧
    (let a := (s.g.readS u.a + s.g.src u.c .s64 u.b).toNat
     u.cond.holds s.g.sc = true → a < 2 ^ 56 → a % u.ty.bytes = 0 →
      atomic (.atoms u) u.c .glob u.aop u.ty.bytes (u.d.map .s)
        [(0, a, half u.c u.ty u.data (s.g.src u.c u.ty u.data))]) ∧
    (lanes v.g ≠ [] → (∀ l ∈ lanes v.g, ga v.c v.a v.b l < 2 ^ 56 ∧ ga v.c v.a v.b l % v.ty.bytes = 0) →
      atomic (.atomv v) v.c .glob v.aop v.ty.bytes (v.d.map fun n => if v.ty.bytes = 8 then .vpair n else .v n)
        ((lanes v.g).map fun l => (l, ga v.c v.a v.b l, data v.c v.ty v.data l))) ∧
    (lanes v.g ≠ [] → (∀ l ∈ lanes v.g, ta v.c v.a v.b l + v.ty.bytes ≤ s.windowSize .l ∧
        ta v.c v.a v.b l % v.ty.bytes = 0) →
      atomic (.atoml v) v.c .l v.aop v.ty.bytes (v.d.map fun n => if v.ty.bytes = 8 then .vpair n else .v n)
        ((lanes v.g).map fun l => (l, ta v.c v.a v.b l, data v.c v.ty v.data l)))

/-- The checks of a global access at issue: an address with a bit of [63:56] set is cause 0x05, before a misaligned
one, cause 0x06; of a typed store a misaligned one before one beyond the window, cause 0x07. The lowest lane counts,
its number is SUB, 0xFF without lanes, and nothing else of the access happens. A 17th variable-latency producer stalls
at issue while 16 results are outstanding: nothing changes, and the stall is no run boundary (R21). -/
def Obligations.AccessChecks : Prop :=
  (∀ (x : SLoad) (y : VLoad) (s : State), s.g.cflush = none →
     let a : Word64 := s.g.readS x.a + s.g.src x.c .s64 x.b
     let lanes := (List.finRange 32).filter fun i => (s.g.executing y.g).getLsbD i.val
     let ga (i : Lane) : Word64 := s.g.laneAddr y.c y.a y.b i
     let ta (i : Lane) : Word := s.g.lane32 y.c y.a i + s.g.lane32 y.c y.b i
     let first (p : Lane → Prop) (l : Lane) : Prop := l ∈ lanes ∧ p l ∧ ∀ k ∈ lanes, p k → l ≤ k
     let sub (l : Lane) : BitVec 8 := BitVec.ofNat 8 l.val
     let w := y.ty.bytes
     (x.cond.holds s.g.sc = true →
       (2 ^ 56 ≤ a.toNat → exec (.lds x) s = s.traps (s.g.trapHere 5 0xFF a)) ∧
       (a.toNat < 2 ^ 56 → a.toNat % x.ty.bytes ≠ 0 → exec (.lds x) s = s.traps (s.g.trapHere 6 0xFF a))) ∧
     ∀ l, y.d.isV = true →
       (first (fun i => 2 ^ 56 ≤ (ga i).toNat) l → exec (.ldv y) s = s.traps (s.g.trapHere 5 (sub l) (ga l))) ∧
       ((∀ i ∈ lanes, (ga i).toNat < 2 ^ 56) → first (fun i => (ga i).toNat % w ≠ 0) l →
         exec (.ldv y) s = s.traps (s.g.trapHere 6 (sub l) (ga l))) ∧
       (first (fun i => (ta i).toNat % w ≠ 0) l →
         exec (.ldl y) s = s.traps (s.g.trapHere 6 (sub l) ((ta l).setWidth 64))) ∧
       ((∀ i ∈ lanes, (ta i).toNat % w = 0) → first (fun i => s.windowSize .l < (ta i).toNat + w) l →
         exec (.ldl y) s = s.traps (s.g.trapHere 7 (sub l)
           (BitVec.ofNat 64 (max (s.windowSize .l) (ta l).toNat))))) ∧
  (∀ (s : State), s.g.log.length = 16 → s.g.cflush = none →
     (∀ x : SInt, x.cond.holds s.g.sc = true →
       ∀ i ∈ [Instr.sdiv x, .sdivn x, .srem x, .sremn x], exec i s = .next s) ∧
     (∀ x : SLoad, x.cond.holds s.g.sc = true → (s.g.readS x.a + s.g.src x.c .s64 x.b).toNat < 2 ^ 56 →
       (s.g.readS x.a + s.g.src x.c .s64 x.b).toNat % x.ty.bytes = 0 → exec (.lds x) s = .next s) ∧
     (∀ x : SAtomic, x.cond.holds s.g.sc = true → x.d ≠ none →
       (s.g.readS x.a + s.g.src x.c .s64 x.b).toNat < 2 ^ 56 →
       (s.g.readS x.a + s.g.src x.c .s64 x.b).toNat % x.ty.bytes = 0 → exec (.atoms x) s = .next s) ∧
     (∀ x : VLoad, x.d.isV = true → (∃ l : Lane, (s.g.executing x.g).getLsbD l.val = true) →
       (∀ l : Lane, (s.g.executing x.g).getLsbD l.val = true →
         (s.g.laneAddr x.c x.a x.b l).toNat < 2 ^ 56 ∧ (s.g.laneAddr x.c x.a x.b l).toNat % x.ty.bytes = 0) →
       ∀ i ∈ [Instr.ldv x, .ldro x], exec i s = .next s))

/-- FENCE, CFLUSH, CINV, SEAL, UNSEAL and PRF at issue: what each leaves in force, what CINV drops at once, the
operand check of SEAL and UNSEAL, and a prefetch, which changes no register and no byte of memory. That SEAL and
UNSEAL check their operands only when COND is true is the model's reading (notes/assumptions/111). -/
def Obligations.OrderingWords : Prop :=
  ∀ (x : FenceArgs) (y : FlushArgs) (z : InvArgs) (u : SealArgs) (p : Prefetch) (s : State), s.g.cflush = none →
    (x.cond.holds s.g.sc = true → exec (.fence x) s = s.issued x.c { s.g with
      fences := s.g.fences ++ [⟨s.g.seq, x.sco, decide (x.ord = .acq ∨ x.ord = .acqrel),
        decide (x.ord = .rel ∨ x.ord = .acqrel)⟩], seq := s.g.seq + 1 }) ∧
    (y.cond.holds s.g.sc = true →
      exec (.cflush y) s = s.issued y.c { s.g with cflush := some (s.g.seq, y.sco), seq := s.g.seq + 1 }) ∧
    (z.cond.holds s.g.sc = true → (∀ q ∈ s.g.log, q.seq < s.g.seq → q.performed = true) →
      exec (.cinv z) s = .next (State.advance (s.modCore s.g.coreRef fun k => { k with
        l1 := if z.sel = .ro then k.l1 else [], ro := if z.sel = .gen then k.ro else [] }) z.c)) ∧
    (let base : Nat := (s.g.src u.c .n64 u.a).toNat
     let n : Nat := (s.g.src u.c .n64 u.b).toNat
     let ok := base % 4096 = 0 ∧ base < 2 ^ 56 ∧ 0 < n ∧ n < 2 ^ 32 ∧ base + 4096 * n ≤ 2 ^ 56
     let leaves (i : Instr) (clear : Bool) : Prop := ∃ q : Pend,
       exec i s = s.issued u.c { s.g with
         fences := s.g.fences ++ [⟨s.g.seq, .dev, true, true⟩], log := s.g.log ++ [q], seq := s.g.seq + 2 } ∧
       q.seq = s.g.seq + 1 ∧ q.dst = .s u.d ∧ q.kind = .seal clear (base / 4096) n ∧ q.performed = false
     u.cond.holds s.g.sc = true →
      (ok → s.g.log.length < 16 → leaves (.sealPages u) false ∧ leaves (.unseal u) true) ∧
      (¬ ok → ∀ i ∈ [Instr.sealPages u, .unseal u], exec i s = s.traps (s.g.trapHere 1 10 i.word))) ∧
    (p.cond.holds s.g.sc = true → ∃ t : State, exec (.prf p) s = .next (t.advance p.c) ∧
      t.g = s.g ∧ t.rest = s.rest ∧ (∀ a, t.mem.read a = s.mem.read a))

/-! ### Classes 6 and 7 -/

/-- The ten matrix and epilogue words make their commands: with COND true, room, the FMT row that R299 admits and
offsets that are multiples of 32, each makes one command with its operand values and ranges. A word that fails any check of
R299 traps whatever COND says, and one that passes them only goes on when COND is false. That the checks of offsets are made
under a false COND too, the four entries that EPI takes, and the place of the register check of MMAV, are the model's readings
(notes/assumptions/111, 66 and 63). -/
def Obligations.MatrixWordsMakeCommands : Prop :=
  ∀ (x : MmaArgs) (b' : MmabArgs) (v : MmavArgs) (y : MtapArgs) (l : MldtArgs) (r : MsortArgs) (z : MzeroArgs)
    (m : MstatArgs) (e : EpiArgs) (s : State), s.roomFor .matrix 16 3 → s.roomFor .epilogue 8 5 →
    let f := s.g.fmt.get 0
    let on (c : Cond) := c.holds s.g.sc = true
    let off (c : Ctl) (o : Operand) : Nat := (s.g.src32 c o).toNat
    let pick (c : Ctl) (o : Option Operand) (lo n : Nat) : Nat := match o with
      | some o => off c o
      | none => c.lit.toNat / 2 ^ lo % 2 ^ n
    let block (i : Instr) (x : MmaArgs) (sparse : Bool) : Prop :=
      let a := pick x.c x.a 0 21
      let b := pick x.c x.b 21 21
      let kb := pick x.c x.kb 42 8
      on x.cond → a % 32 = 0 → b % 32 = 0 → 1 ≤ kb → kb ≤ 255 →
      s.makesCmd i x.c .matrix x.sh (some x.d) [a, b, kb] [(.a, a, kb * strideA f, false),
        (.w, b, kb * strideB f sparse, false), (.c, 65536 * x.ct.val, 65536, true)]
    (mmaRow f = true → block (.mma x) x false) ∧ (mmasRow f = true → block (.mmas x) x true) ∧
    (mmabRow f = true → block (.mmab b') b'.m false) ∧
    (let b := pick v.c v.b 21 21
     let kb := pick v.c v.kb 42 8
     on v.cond → mmavRow f = true → b % 32 = 0 → 1 ≤ kb → kb ≤ 255 →
     v.a.val + mmavRegs (fmtAF f) kb (v.kdm.val + 1) ≤ s.g.valloc →
     s.makesCmd (.mmav v) v.c .matrix v.sh (some v.d)
       [0, b, kb, (if v.mz then s.g.exec else BitVec.allOnes 32 : LaneMask).toNat]
       [(.w, b, kb * strideB f false, false), (.c, 65536 * v.ct.val, 65536, true)]) ∧
    (let a := pick y.c y.a 0 21
     let kb := pick y.c y.kb 42 8
     on y.cond → mtapRow f = true → a % 32 = 0 →
     (if y.pr then kb = 1 ∧ y.ct.val ≤ 6 else 1 ≤ kb ∧ kb ≤ 2) →
     s.makesCmd (.mtap y) y.c .matrix y.sh (some y.d) [a, 0, kb]
       [(.a, a, kb * strideA f, false), (.c, 65536 * y.ct.val, if y.pr then 131072 else 65536, true)]) ∧
    (on l.cond → off l.c l.a % 32 = 0 → s.makesCmd (.mldt l) l.c .matrix l.sh (some l.d) [off l.c l.a]
      [(.w, off l.c l.a, tileBytes (fmtTN f), false)]) ∧
    (let a := off r.c r.a
     let b := off r.c r.b
     on r.cond → a % 32 = 0 → b % 32 = 0 → (a + 16416 ≤ b ∨ b + tileBytes (fmtTN f) ≤ a) →
     s.makesCmd (.msort r) r.c .matrix r.sh (some r.d) [a, b] [(.w, b, tileBytes (fmtTN f), true)]) ∧
    (on z.cond → s.makesCmd (.mzero z) z.c .matrix z.sh (some z.d) [] [(.c, 65536 * z.ct.val, 65536, true)]) ∧
    (let a := off m.c m.a
     let q := match m.sel with
       | .rsf o => off m.c o
       | _ => 0
     on m.cond → a % 32 = 0 → q ≤ 15 → s.makesCmd (.mstat m) m.c .matrix m.sh (some m.d) [a, q]
       [(.l, a, (match m.sel with | .rsf _ => 16384 | _ => 24608), true)]) ∧
    (let a := off e.c e.a
     on e.cond → a % 32 = 0 → s.makesCmd (.epi e) e.c .epilogue e.sh (some e.d) [a]
       [(.c, 65536 * e.ct.val, 65536, false), (.l, 0, s.windowSize .l, false), (.l, 0, s.windowSize .l, false),
        (.a, 0, s.windowSize .a, true), (.l, a, 256, true)]) ∧
    (let refused (i : Instr) (sub : BitVec 8) : Prop := exec i s = s.traps (s.g.trapHere 1 sub i.word)
     let passes (i : Instr) (c : Ctl) (cond : Cond) : Prop := ¬ on cond → exec i s = s.issued c s.g
     let judged (i : Instr) (c : Ctl) (cond : Cond) (ok : Prop) : Prop := (¬ ok → refused i 10) ∧ (ok → passes i c cond)
     let blockOk (x : MmaArgs) (row : Bool) : Prop := row = true ∧ pick x.c x.a 0 21 % 32 = 0 ∧
       pick x.c x.b 21 21 % 32 = 0 ∧ 1 ≤ pick x.c x.kb 42 8 ∧ pick x.c x.kb 42 8 ≤ 255
     judged (.mma x) x.c x.cond (blockOk x (mmaRow f)) ∧ judged (.mmas x) x.c x.cond (blockOk x (mmasRow f)) ∧
     judged (.mmab b') b'.m.c b'.m.cond (blockOk b'.m (mmabRow f)) ∧
     (let kb := pick v.c v.kb 42 8
      let ok := mmavRow f = true ∧ pick v.c v.b 21 21 % 32 = 0 ∧ 1 ≤ kb ∧ kb ≤ 255
      let within := v.a.val + mmavRegs (fmtAF f) kb (v.kdm.val + 1) ≤ s.g.valloc
      (¬ ok → refused (.mmav v) 10) ∧ (ok → ¬ within → refused (.mmav v) 8) ∧
      (ok → within → passes (.mmav v) v.c v.cond)) ∧
     judged (.mtap y) y.c y.cond (mtapRow f = true ∧ pick y.c y.a 0 21 % 32 = 0 ∧
       if y.pr then pick y.c y.kb 42 8 = 1 ∧ y.ct.val ≤ 6 else 1 ≤ pick y.c y.kb 42 8 ∧ pick y.c y.kb 42 8 ≤ 2) ∧
     judged (.mldt l) l.c l.cond (off l.c l.a % 32 = 0) ∧
     judged (.msort r) r.c r.cond (off r.c r.a % 32 = 0 ∧ off r.c r.b % 32 = 0 ∧
       (off r.c r.a + 16416 ≤ off r.c r.b ∨ off r.c r.b + tileBytes (fmtTN f) ≤ off r.c r.a)) ∧
     judged (.mzero z) z.c z.cond True ∧
     judged (.mstat m) m.c m.cond (off m.c m.a % 32 = 0 ∧ (match m.sel with | .rsf o => off m.c o | _ => 0) ≤ 15) ∧
     judged (.epi e) e.c e.cond (off e.c e.a % 32 = 0))

/-- COPY.IN, COPY.OUT and COPY.XS make their commands, to a handle or to the open batch; with an address or offset
that R261 refuses, or a 33rd member of a batch, each traps with sub-cause 10 and makes none. The handle words: BSEAL,
TESTH, MOVH and CANH at once; WAITH on a handle that is not pending, after its park, and its wait on a pending one: a
word whose park is not over, or that a fault or a watchdog trap has come due for since, is at its run boundary (R22).
A complete handle makes the group observe the command's writes: its core's L1 lines are dropped. The TAG of a handle
without a batch is a free value (notes/assumptions/14); the dropped lines, and that offsets and sizes are checked only
when COND is true, are the model's readings (notes/assumptions/15 and 111). -/
def Obligations.CopyAndHandles : Prop :=
  (∀ (x : CopyArgs) (y : CopyXsArgs) (s : State), s.roomFor .copy 32 2 →
     let la : Nat := (s.g.readS x.la).toNat
     let ba : Nat := (s.g.readS x.ba).toNat
     let off : Nat := (s.g.src32 x.c x.off).toNat
     let sp := spaceOf x.st
     let full := ∃ b ∈ (s.core s.g.coreRef).batches.find? fun b => b.g == s.g.ref && !b.closed, 32 ≤ b.count
     let ok := la % 64 = 0 ∧ la < 2 ^ 56 ∧ ba % 32 = 0 ∧ ba < 2 ^ 56 ∧ ¬ (x.d = none ∧ full)
     let range (w : Bool) : List (Space × Nat × Nat × Bool) := [(sp, off, s.windowSize sp - off, w)]
     let so : Nat := (s.g.src32 y.c y.so).toNat
     let n : Nat := (s.g.src32 y.c y.bytes).toNat
     let d : Nat := (s.g.src32 y.c y.doff).toNat
     let okXs := so % 32 = 0 ∧ n % 32 = 0 ∧ d % 32 = 0 ∧ 32 ≤ n ∧ (y.src = y.dst → so + n ≤ d ∨ d + n ≤ so) ∧
       ¬ (y.d = none ∧ full)
     (x.cond.holds s.g.sc = true →
       (ok → s.makesCmd (.copyIn x) x.c .copy x.sh x.d [la, ba, off] (range true) ∧
         s.makesCmd (.copyOut x) x.c .copy x.sh x.d [la, ba, off] (range false)) ∧
       (¬ ok → ∀ i ∈ [Instr.copyIn x, .copyOut x], exec i s = s.traps (s.g.trapHere 1 10 i.word))) ∧
     (y.cond.holds s.g.sc = true →
       (okXs → s.makesCmd (.copyXs y) y.c .copy y.sh y.d [so, n, d]
         [(spaceOf y.src, so, n, false), (spaceOf y.dst, d, n, true)]) ∧
       (¬ okXs → exec (.copyXs y) s = s.traps (s.g.trapHere 1 10 (Instr.copyXs y).word)))) ∧
  (∀ (x : HandleArgs) (y : WaitHArgs) (z : TestHArgs) (v : MovHArgs) (s : State), s.g.cflush = none →
     let word (h : Handle) : Word64 := BitVec.ofNat 64 (h.tag.toNat + h.status.toNat * 2 ^ 40 +
       (match h.eng with | .none => 0 | .copy => 1 | .batch => 2 | .matrix => 3 | .epilogue => 4 | .lantern => 5) * 2 ^ 48 +
       (match h.state with | .empty => 0 | .pending => 1 | .complete => 2) * 2 ^ 54)
     let put (n : Fin 16) (h : Handle) : Group :=
       { s.g with h := s.g.h.set n h, errs := s.g.errs.filter (· != RegName.h n) }
     let seen (h : Handle) : State := if h.state = .complete then s.dropL1 s.g.coreRef else s
     let parked := s.g.settled = true ∧ s.g.deferred = [] ∧ (s.g.wdue = false ∨ s.g.tm = true)
     (x.cond.holds s.g.sc = true →
       (s.openBatch = none → ∃ tag, exec (.bseal x) s = s.issued x.c
         (put x.h ⟨.complete, .batch, 0, tag, false⟩)) ∧
       (∀ b, s.openBatch = some b → exec (.bseal x) s = .next (State.advance (State.endBatches
         (State.modCore { s with g := put x.h ⟨.pending, .batch, 0, b.tag, false⟩ } s.g.coreRef fun k =>
           { k with batches := k.batches.map fun q => if q.g = s.g.ref ∧ q.closed = false then { q with closed := true } else q })
         s.g.coreRef) x.c)) ∧
       (∀ t, (s.g.h.get x.h).tracks = some t → exec (.canh x) s = .next ((s.cancel s.g.coreRef t).advance x.c)) ∧
       ((s.g.h.get x.h).state ≠ .pending → exec (.canh x) s = s.issued x.c s.g)) ∧
     (y.cond.holds s.g.sc = true →
       let h := s.g.h.get y.h
       (¬ parked → exec (.waith y) s = .next (s.boundary .wait)) ∧
       (parked → h.state ≠ .pending → exec (.waith y) s = (seen h).issued y.c
         (match y.d with | some n => s.g.writeS n (word h) | none => s.g)) ∧
       (parked → h.state = .pending → s.preempting s.g.launch = false →
         exec (.waith y) s = .next { s with g := { s.g with run := .waiting y.c (.handle y.h y.d) } })) ∧
     (z.cond.holds s.g.sc = true →
       let h := s.g.h.get z.h
       exec (.testh z) s = (seen h).issued z.c (if z.fs then (s.g.writeS z.d (word h)).writeSc
         (mkSc (h.state == .complete && h.status != 0) (h.state == .pending) (h.state == .complete) false)
         else s.g.writeS z.d (word h))) ∧
     (v.cond.holds s.g.sc = true → exec (.movh v) s = s.issued v.c (put v.d (match v.a with
       | some n => s.g.h.get n
       | none => ⟨.empty, .none, 0, 0, false⟩))))

/-- QPUT and QGET leave their outstanding results, WAITV and WAITW wait after their park; a chain number above 4,095
traps with sub-cause 10, WAITV's after its park too. BAR, BARC and BARG after their park: ARR sends an arrival to the
root and goes on, SYNC waits for its phase, WAIT waits without arriving; a count of 0, or above 32 or 384, traps with
sub-cause 10, and an inline one does so whatever COND says, as does BARG in a launch that is not cooperative (R50, R51). A park
comes before anything else that a true COND leads to (R22). A SYNC that a trap or a stop has cut short, issued again at its
place, does not arrive again (R157). That numbers and counts in registers are checked only when COND is true is the model's
reading (notes/assumptions/111). -/
def Obligations.WaitingWords : Prop :=
  (∀ (x : QPutArgs) (y : QGetArgs) (z : WaitVArgs) (w : WaitWArgs) (s : State), s.g.cflush = none →
     let ch (c : Ctl) (o : Operand) : Word64 := s.g.src c .n64 o
     let parked := s.g.settled = true ∧ s.g.deferred = [] ∧ (s.g.wdue = false ∨ s.g.tm = true)
     let off : Nat := (s.g.src x.c .n64 x.off).toNat
     (x.cond.holds s.g.sc = true →
       ((ch x.c x.ch).toNat < 4096 → off % 64 = 0 → off + 64 ≤ s.windowSize .l → s.g.log.length < 16 →
         s.g.fifo.length < 32 → s.imageFree off = true → (∀ w ∈ s.team? s.g.team, w.errs = []) → ∃ (p : Pend) (e : FifoEntry),
         exec (.qput x) s = s.issued x.c
           { s.g with log := s.g.log ++ [p], fifo := s.g.fifo ++ [e], seq := s.g.seq + 1, stores := s.g.stores + 1 } ∧
         p.seq = s.g.seq ∧ p.kind = .qput ∧ p.dst = .s x.d ∧ e.seq = s.g.seq ∧ e.fpos = s.g.stores ∧
         e.kind = .qput ((ch x.c x.ch).setWidth 12) (s.image off) none) ∧
       (4096 ≤ (ch x.c x.ch).toNat ∨ off % 64 ≠ 0 →
         exec (.qput x) s = s.traps (s.g.trapHere 1 10 (Instr.qput x).word))) ∧
     (y.cond.holds s.g.sc = true →
       let at' : Nat := s.ccbVa s.g.die s.g.ctx ((ch y.c y.ch).setWidth 12) + (match y.sel with
         | .seq => 24 | .err => 32 | .widx => 16 | .state => 4)
       let ty : Ty := if y.sel = .state then .n16 else .n64
       ((ch y.c y.ch).toNat < 4096 → s.g.log.length < 16 → at' < 2 ^ 56 → at' % ty.bytes = 0 → ∃ p : Pend,
         exec (.qget y) s = s.issued y.c { s.g with log := s.g.log ++ [p], seq := s.g.seq + 1 } ∧
         p.kind = .load .glob false ∧ p.ord = .acq ∧ p.sco = .dev ∧ p.cp = .cg ∧ p.dst = .s y.d ∧ p.ty = ty ∧
         p.lanes = [⟨0, at', 0, 0, none⟩]) ∧
       (4096 ≤ (ch y.c y.ch).toNat → exec (.qget y) s = s.traps (s.g.trapHere 1 10 (Instr.qget y).word))) ∧
     (z.cond.holds s.g.sc = true →
       (¬ parked → exec (.waitv z) s = .next (s.boundary .wait)) ∧
       (parked → 4096 ≤ (ch z.c z.ch).toNat → exec (.waitv z) s = s.traps (s.g.trapHere 1 10 (Instr.waitv z).word)) ∧
       (parked → (ch z.c z.ch).toNat < 4096 → s.preempting s.g.launch = false →
         exec (.waitv z) s = .next { s with g := { s.g with
           run := .waiting z.c (.seq ((ch z.c z.ch).setWidth 12) (s.g.src z.c .n64 z.n) z.d) } })) ∧
     (w.cond.holds s.g.sc = true → ¬ parked → exec (.waitw w) s = .next (s.boundary .wait)) ∧
     (w.cond.holds s.g.sc = true → parked → s.g.waitw = none → s.preempting s.g.launch = false →
       let n : Nat := (match w.n with | some o => s.g.src w.c .n64 o | none => w.c.lit : Word64).toNat
       let t : Nat := if w.rel then min (s.window.toNat + n) (2 ^ 64 - 1) else n
       (s.window.toNat < t → exec (.waitw w) s = .next { s with g := { s.g with
         run := .waiting w.c (.window (BitVec.ofNat 64 t) w.d) } }) ∧
       (t ≤ s.window.toNat → exec (.waitw w) s = (s.dropL1 s.g.coreRef).issued w.c
         (match w.d with | some k => s.g.writeS k s.window | none => s.g)))) ∧
  (∀ (x : BarArgs) (s : State), s.g.cflush = none →
     let count : Option Nat := x.count.map fun o => (s.g.src x.c .n64 o).toNat
     let inline := ∃ o ∈ x.count, o.isInline = true
     let coop := ∃ l ∈ s.launch? s.g.launch, l.record.coop = true
     let bad (level : Fin 3) : Prop := ∃ n ∈ count, n = 0 ∨ (if level = 0 then 32 else if level = 1 then 384 else 0) < n
     let refused (level : Fin 3) : Prop := (level = 2 ∧ ¬ coop) ∨ (inline ∧ bad level)
     let paid : Group := if s.g.tm then { s.g with owesH := none } else { s.g with owes := none }
     let again := (if s.g.tm then s.g.owesH else s.g.owes) = some s.g.planeAddr
     let sent (b : BarRef) : State := State.setBar { s with g := paid } { s.bar b with
       sent := insertArrival ⟨s.g.ref, s.g.seq, (s.die s.g.die).clock, count⟩ (s.bar b).sent }
     let parked := s.g.settled = true ∧ s.g.deferred = [] ∧ (s.g.wdue = false ∨ s.g.tm = true)
     let on := x.cond.holds s.g.sc = true
     let bars : List (Fin 3 × Instr) := [(0, .bar x), (1, .barc x), (2, .barg x)]
     ∀ p ∈ bars,
       (refused p.1 → exec p.2 s = s.traps (s.g.trapHere 1 10 p.2.word)) ∧
       (¬ refused p.1 → ¬ on → exec p.2 s = s.issued x.c s.g) ∧
       (¬ refused p.1 → on → ¬ parked → exec p.2 s = .next (s.boundary .wait)) ∧
       (¬ refused p.1 → on → parked → bad p.1 → exec p.2 s = s.traps (s.g.trapHere 1 10 p.2.word)) ∧
       (¬ refused p.1 → on → parked → ¬ bad p.1 → s.preempting s.g.launch = false →
         let b := s.barRef p.1 x.id
         let waits (t : State) (sync : Bool) : State :=
           { t with g := { paid with run := .waiting x.c (.barrier b (s.bar b).phase sync (count.getD 0)) } }
         (x.mode = .arr → exec p.2 s = .next ((sent b).advance x.c)) ∧
         (x.mode = .sync → ¬ again → exec p.2 s = .next (waits (sent b) true)) ∧
         (x.mode = .sync → again → s.phaseOver b (s.bar b).phase = false → exec p.2 s = .next (waits s true)) ∧
         (x.mode = .wait → s.phaseOver b (s.bar b).phase = false → exec p.2 s = .next (waits s false))))

/-- SPAWN, EXIT and LEXIT: SPAWN holds the group at its word with one record for each executing lane, in ascending
order; EXIT makes the group leave; LEXIT takes the executing lanes out of EXEC for good, and with the last lane the
group. That a load fault still deferred is then discarded is the model's reading (notes/assumptions/19). -/
def Obligations.LeavingAndSpawning : Prop :=
  ∀ (x : SpawnArgs) (y : Plain) (z : LexitArgs) (s : State), s.g.cflush = none →
    let lanes := (List.finRange 32).filter fun i => (s.g.executing x.g).getLsbD i.val
    let entry (i : Lane) := s.g.lane32 x.c x.b i
    let left : Group := { s.g with exec := s.g.exec &&& ~~~s.g.executing z.g, exitm := s.g.exitm ||| s.g.executing z.g }
    (s.spawns = true → s.g.spawnq = [] → lanes ≠ [] →
      (∀ i ∈ lanes, (entry i).toNat % 4 = 0 ∧ (entry i).toNat < s.g.csize.toNat ∧ s.g.inOtherCopy (entry i) = false) →
      exec (.spawn x) s = .next { s with g := { s.g with
        spawnc := x.c
        spawnq := lanes.map fun i => ⟨s.g.cbase + (entry i).setWidth 64,
          (List.range 14).map fun k => s.g.readV (Fin.ofNat 128 (x.a.val + k)) i⟩ } }) ∧
    (s.spawns = false → s.g.spawnq = [] → exec (.spawn x) s = s.traps (s.g.trapHere 1 10 (Instr.spawn x).word)) ∧
    (y.cond.holds s.g.sc = true → (∀ d ∈ s.g.deferred, d.ofWrite = false) →
      exec (.exit y) s = .next { s with g := { s.g with
        run := .exiting, deferred := [], wdue := false, settled := false, leftAt := (s.die s.g.die).clock } }) ∧
    (left.exitm ≠ BitVec.allOnes 32 → exec (.lexit z) s = s.issued z.c left) ∧
    (left.exitm = BitVec.allOnes 32 → (∀ d ∈ s.g.deferred, d.ofWrite = false) →
      exec (.lexit z) s = .next { s with g := { left with
        run := .exiting, deferred := [], wdue := false, settled := false, leftAt := (s.die s.g.die).clock } })

/-- TRACE, TRRES and TRSTAT at issue: with room and the operands that R358 wants, TRACE and TRRES make a Lantern
command with one lane for each executing lane, whose record stands at base + 128 x lane; with no executing lane the
handle is complete at once. TRSTAT reads lane states without changing any. The TAG of a handle without a lane, and
what TRSTAT reads of a command that ended before its lanes began, are free values (notes/assumptions/14 and 23). -/
def Obligations.TraversalWords : Prop :=
  ∀ (x : TraceArgs) (y : TrresArgs) (z : TrstatArgs) (s : State), s.roomFor .lantern 8 1 →
    let base (c : Ctl) (o : Operand) : Nat := (s.g.src32 c o).toNat
    let lanes (g : Guard) := (List.finRange 32).filter fun i => (s.g.executing g).getLsbD i.val
    let table : Nat := match x.table with
      | some n => (s.g.readS n).toNat
      | none => x.c.lit.toNat % 2 ^ 56
    let placed (b : Nat) := b % 128 = 0 ∧ b + 4096 ≤ s.windowSize .l
    let made (i : Instr) (c : Ctl) (g : Guard) (sh : Option (Fin 16)) (hd : Fin 16) (b t : Nat)
        (cont : Lane → Cont) : Prop :=
      (lanes g = [] → ∃ tag, exec i s = s.issued c
        { s.g with h := s.g.h.set hd ⟨.complete, .lantern, 0, tag, true⟩, errs := s.g.errs.filter (· != RegName.h hd) }) ∧
      (lanes g ≠ [] → s.g.startFailed sh = false → ∃ (k : Cmd) (holds : List Hold) (rays : List RayLane) (u : State),
        exec i s = .next (State.advance (State.withCmd u k holds (some hd)) c) ∧
        u = s.modCore s.g.coreRef (fun q => { q with rays := (u.core s.g.coreRef).rays }) ∧
        (∃ kept, (u.core s.g.coreRef).rays = kept ++ rays ∧ ∀ q ∈ kept, q ∈ (s.core s.g.coreRef).rays) ∧
        k.instr = i ∧ k.eng = .lantern ∧ k.ext = [BitVec.ofNat 64 b, BitVec.ofNat 64 t] ∧ k.pred = s.g.startWaits sh ∧
        holds.map (fun h => (h.sp, h.lo, h.len, h.write)) = [(.l, b, 4096, true)] ∧
        rays.map (fun q => (q.tag, q.lane, q.addr, q.begun, q.cont)) =
          (lanes g).map fun j => (k.tag, j, b + 128 * j.val, false, cont j))
    (x.d.val + 5 ≤ s.g.valloc → x.a.val + 10 ≤ s.g.valloc → placed (base x.c x.base) → table % 8 = 0 → table < 2 ^ 56 →
      made (.trace x) x.c x.g x.sh x.hd (base x.c x.base) table fun _ => .start) ∧
    (y.d.val + 5 ≤ s.g.valloc → placed (base y.c y.base) →
      made (.trres y) y.c y.g y.sh y.hd (base y.c y.base) 0 fun j => .resume y.mode
        (y.t.map fun o => BitVec.ofNat 32 (s.g.laneF y.c .f32 o j)) (match y.uv with | some o => s.g.lane32 y.c o j | none => 0)) ∧
    (base x.c x.base % 128 ≠ 0 → x.d.val + 5 ≤ s.g.valloc → x.a.val + 10 ≤ s.g.valloc →
      exec (.trace x) s = s.traps (s.g.trapHere 1 10 (Instr.trace x).word)) ∧
    (let e (j : Lane) := s.laneEntry s.g.coreRef (s.g.h.get z.h) j
     (∀ d, z.d = .v d → exec (.trstat z) s = s.wroteLanes z.c z.g d fun j => (e j).setWidth 32) ∧
     ∀ d sel, z.d = .k d sel → ∃ g, exec (.trstat z) s = s.issued z.c g ∧ g = { s.g with k := g.k, errs := g.errs } ∧ ∀ n (j : Lane),
       (g.readK n).getLsbD j.val = if n = d ∧ d ≠ 0 ∧ (s.g.executing z.g).getLsbD j.val = true
         then TrstatSelMatches sel (e j) else (s.g.readK n).getLsbD j.val)

/-! ### Steps of groups and of memory -/

/-- A result is written to the register whose last write it still is, and leaves the log: a result already computed,
and a load of a typed store with nothing in its way; the park that waited for it ends. A count at zero sets WDX and
makes the watchdog trap due, or aborts the launch when WDX is set, the report's RBASE being that of XPC at the abort;
it ends a sleep, in trap mode too. A sleep at its end leaves the group Ready, whichever group it is. A load that reads
an erroneous byte of a typed store leaves its destination as it was and a machine check deferred. CODE of a report of
a second expiry is the model's reading (notes/assumptions/90). -/
def Obligations.ResultsAndExpiries : Prop :=
  ∀ (s : State) (r : GroupRef), s.here r →
    (∀ (p : Pend) (ps : List Pend) (n : Fin 64), s.g.log = p :: ps → (∀ q ∈ ps, p.seq < q.seq) → p.dst = .s n →
      s.g.run = .ready →
      let old : Word64 := s.g.readS n
      let arrives (v : Word64) (sc : BitVec 4) : Prop := ∃ h,
        exec (.variableLatencyResult r 0) s = .next { s with g := h } ∧
        h = { s.g with s := h.s, sc := sc, log := ps, errs := h.errs } ∧ (∀ e ∈ h.errs, e ∈ s.g.errs) ∧
        h.readS n = (if n = 0 then 0 else if p.due.getLsbD 0 = true then v else old) ∧
        ∀ m, m ≠ n → h.readS m = s.g.readS m
      (∀ v, p.kind = .computed none → p.lanes = [⟨0, 0, 0, 0, some v⟩] → arrives v s.g.sc) ∧
      (∀ v sc, p.kind = .computed (some sc) → p.lanes = [⟨0, 0, 0, 0, some v⟩] →
        arrives v (if p.dueSc then sc else s.g.sc)) ∧
      (∀ sp ro a, p.kind = .load sp ro → sp ≠ .glob → p.lanes = [⟨0, a, 0, 0, none⟩] → s.g.fifo = [] → s.g.fences = [] →
        (s.core s.g.coreRef).sb = [] → (∀ w ∈ s.team? s.g.team, w.errs = []) →
        arrives (extendLoad p.ty (BitVec.ofNat 64 ((s.windowMem sp).nat a p.ty.bytes))) s.g.sc) ∧
      (∀ sp ro a b w, p.kind = .load sp ro → sp ≠ .glob → p.lanes = [⟨0, a, 0, 0, none⟩] → s.g.fifo = [] →
        s.g.fences = [] → (s.core s.g.coreRef).sb = [] → s.team? s.g.team = some w → w.errs = [(sp, b)] → b < 2 ^ 32 →
        a ≤ b → b < a + p.ty.bytes →
        exec (.variableLatencyResult r 0) s = .next { s with g := { s.g with
          log := ps
          deferred := s.g.deferred ++ [⟨p.seq, 0, 0x0F, 6, BitVec.ofNat 64
            (b + (match sp with | .a => 1 | .c => 2 | _ => 0) * 2 ^ 32), false⟩] } })) ∧
    (∀ (p : Pend) (v : Word64), s.g.log = [p] → p.dst = .s 0 → p.kind = .computed none →
      p.lanes = [⟨0, 0, 0, 0, some v⟩] → s.g.run = .parked (.switch false) → s.g.deferred = [] → s.g.wdue = false →
      exec (.variableLatencyResult r 0) s = .next { s with g := { s.g with run := .ready, log := [] } }) ∧
    (s.g.run = .ready → s.g.wdog ≠ 0 → s.g.wcnt = 0 →
      (s.g.wdx = false → exec (.watchdogExpiry r) s = .next (State.spent { s with g := { s.g.setWdx true with
        wcnt := s.g.wdog.toNat * 1024, wdue := s.g.wdue || !s.g.tm } })) ∧
      (s.g.wdx = true → exec (.watchdogExpiry r) s =
        .next (s.abortLaunch s.g.launch (s.report 3 0x0A 0 0 (s.g.xpc.extractLsb' 32 32) s.g.planeAddr)))) ∧
    (∀ c n, s.g.run = .waiting c (.sleep n) → s.g.wdog ≠ 0 → s.g.wcnt = 0 → s.g.wdx = false → s.g.tm = true →
      ∃ t, exec (.watchdogExpiry r) s = .next t ∧ t.g.run = .ready ∧ t.g.wdx = true ∧ t.g.wdue = s.g.wdue ∧ t.mem = s.mem) ∧
    (∀ c, s.g.run = .waiting c (.sleep 0) →
      exec (.sleepExpiry r) s = .next { s with g := { s.g with run := .ready } }) ∧
    ∀ (xs ys : List Group) (h : Group) (c : Ctl), s.rest = xs ++ h :: ys → h.run = .waiting c (.sleep 0) → h.ref ≠ r →
      (∀ x ∈ xs, x.ref ≠ r ∧ x.ref ≠ h.ref) →
      exec (.sleepExpiry h.ref) s = .next { s with rest := xs ++ { h with run := .ready } :: ys }

/-- A store leaves its FIFO: one to a typed store changes its window, one to global memory joins the core's way to L2
and changes no byte of memory. It reaches L2 when no earlier store on the way touches its bytes or goes to the same slice
of the other die (R409; until then it stays): exactly its bytes change; a release that passes earlier stores leaves word of
those that whoever synchronises with it waits for (R199; notes/assumptions/118). An atomic is performed at its slice in one
step, the old value being its result. The care of L2: a CFLUSH whose stores have left is over, and at .sys no line
stays dirty, of whatever context (notes/assumptions/18); a written-back line is clean and GDDR7 holds its bytes; scrub
poisons the lines named; a link whose transfer has failed 16 times goes down, a bridge or a host link being noted as fatal,
and the lines named are poisoned, while a retry that succeeds changes none of this (R192, R453). Memory stays as it is. -/
def Obligations.StoresReachMemory : Prop :=
  (∀ (s : State) (r : GroupRef), s.here r → s.memOk →
     (∀ (e : FifoEntry) (es : List FifoEntry) (a : LaneAcc), s.g.fifo = e :: es → (∀ f ∈ es, f.seq ≠ e.seq) →
       e.kind = .store → e.lanes = [a] → s.g.log = [] → s.g.fences = [] →
       let bs : List Byte := leBytes e.width a.data.toNat
       (e.sp ≠ .glob → (∃ w, s.team? s.g.team = some w) → (s.core s.g.coreRef).sb = [] → ∃ t,
         exec (.storeFifoLeave r) s = .next t ∧ t = { s with g := { s.g with fifo := es }, teams := t.teams } ∧
         t.windowMem e.sp = (s.windowMem e.sp).writes a.addr bs ∧
         ∀ sp, sp ≠ e.sp → t.windowMem sp = s.windowMem sp) ∧
       (∀ pa, e.sp = .glob → (s.die s.g.die).seals = [] →
         s.translate s.g.coreRef (.store r e.seq a.lane) s.g.ctx a.addr .write false = .ok pa s → ∃ t,
         exec (.storeFifoLeave r) s = .next t ∧ t.g = { s.g with fifo := es } ∧ t.mem = s.mem ∧
         (t.core s.g.coreRef).path = (s.core s.g.coreRef).path ++ [⟨(s.core s.g.coreRef).pathN, s.g.ctx, pa, bs,
           if e.ord.releases = true ∧ e.sco.wide = true then some (e.sco, s.party) else none⟩])) ∧
     (∀ (c : CoreRef) (i : Nat) (e : PathEntry), (s.core c).path[i]? = some e →
       (∀ j q, j < i → (s.core c).path[j]? = some q → q.touches e.pa e.bytes.length = false ∧
         (s.homeDie e.pa = c.die ∨ s.sameSlice (lineOf q.pa) (lineOf e.pa) = false)) → ∃ t,
       exec (.storeReachL2 c i) s = .next t ∧ s.mem.wrote t.mem e.pa e.bytes ∧ t.g = s.g ∧ t.rest = s.rest ∧
       (t.core c).path = (s.core c).path.eraseIdx i ∧ t.teams = s.teams ∧
       (e.rel ≠ none → ∀ j q, j < i → (s.core c).path[j]? = some q → q.n ≠ e.n →
         ∃ x ∈ t.ahead, x.core = c ∧ x.pa = e.pa ∧ x.len = e.bytes.length ∧ q.n ∈ x.waits)) ∧
     (∀ (c : CoreRef) (i : Nat) (e q : PathEntry) (j : Nat), (s.core c).path[i]? = some e → j < i →
       (s.core c).path[j]? = some q →
       q.touches e.pa e.bytes.length = true ∨
         (s.homeDie e.pa ≠ c.die ∧ s.sameSlice (lineOf q.pa) (lineOf e.pa) = true) →
       exec (.storeReachL2 c i) s = .next s) ∧
     (∀ (q : AtomReq) (e : FifoEntry) (d : Fin 2), (s.die d).atom = [q] → q.who = r → s.g.fifo = [e] → e.seq = q.seq →
       (∃ op, e.kind = .atomic op) → e.lanes = [⟨q.lane, q.va, q.data, q.cmp, none⟩] → (s.die s.g.die).seals = [] →
       s.poison = [] → q.ty.isFloat = false → (e.ord.acquires = false ∨ s.ahead = []) →
       let w := q.ty.bytes
       let old : Nat := s.mem.nat q.pa w
       let v : Nat := q.data.toNat % 2 ^ (8 * w)
       let new : Option Nat := match q.op with
         | .xchg => some v
         | .cas => if old = q.cmp.toNat % 2 ^ (8 * w) then some v else none
         | .add => some ((old + v) % 2 ^ (8 * w))
         | .and => some (old &&& v)
         | .or => some (old ||| v)
         | .xor => some (old ^^^ v)
         | _ => aopNew q.op q.ty old v 0
       ∃ t, exec (.atomicEngineService d q.slice) s = .next t ∧ (t.die d).atom = [] ∧ t.g.fifo = [] ∧
         s.mem.wrote t.mem q.pa (match new with | some x => leBytes w x | none => []) ∧
         t.g.log.map (·.seq) = s.g.log.map (·.seq) ∧
         ∀ p ∈ s.g.log, p.seq = q.seq → p.kind = .atomic → p.lanes = [⟨q.lane, q.va, q.data, q.cmp, none⟩] →
           ∃ p' ∈ t.g.log, p'.seq = p.seq ∧ p'.lanes.map (·.val) = [some (extendLoad q.ty (BitVec.ofNat 64 old))])) ∧
  (∀ (s : State) (r : GroupRef), s.here r → s.memOk →
     (∀ n sco, s.g.cflush = some (n, sco) → s.g.fifo = [] → (s.core s.g.coreRef).path = [] → ∃ t,
       exec (.cflushComplete r) s = .next t ∧ t = { s with g := { s.g with cflush := none }, dirty := t.dirty, gddr := t.gddr } ∧
       (sco = .sys → t.dirty = []) ∧ (sco ≠ .sys → t.dirty = s.dirty ∧ t.gddr = s.gddr)) ∧
     (∀ line, s.dirty.any (·.1 == line) = true → ∃ t,
       exec (.l2Writeback line false) s = .next t ∧ t = { s with dirty := t.dirty, gddr := t.gddr } ∧
       (∀ d, d ∈ t.dirty ↔ d ∈ s.dirty ∧ d.1 ≠ line) ∧
       ∀ a, t.gddr.read a = if a / 128 = line then s.mem.read a else s.gddr.read a) ∧
     (∀ die slice corrected bad, ∃ t, exec (.l2Scrub die slice corrected bad) s = .next t ∧
       t.mem = s.mem ∧ t.g = s.g ∧ t.rest = s.rest ∧
       ∀ l, l ∈ t.poison ↔ l ∈ s.poison ∨ (l ∈ bad ∧ s.homeDie (l * 128) = die ∧ hash7 (l * 128) = slice)) ∧
     ∀ (l : Link) (failed : Option (List Nat)), ∃ t, exec (.linkRetry l failed) s = .next t ∧ t.mem = s.mem ∧ t.g = s.g ∧ t.rest = s.rest ∧
       (∀ k, k ∈ t.poison ↔ k ∈ s.poison ∨ ∃ lines, failed = some lines ∧ k ∈ lines) ∧
       (∀ k, k ∈ t.down ↔ k ∈ s.down ∨ (failed ≠ none ∧ k = l)) ∧
       ∀ k, k ∈ t.plat.fatal ↔ k ∈ s.plat.fatal ∨ (failed ≠ none ∧ k = l ∧ (l = .bridge ∨ ∃ d, l = .host d)))

/-- The walker and the pager: a walk that finds a permitting entry fills the core's TLBs, one without a mapping opens
a fault slot; a record of the slot is written to the ring with its phase and tells the host; an answer by slot and
number frees the slot, its accesses walking again or being refused with status 3. -/
def Obligations.WalkerAndPager : Prop :=
  ∀ (s : State) (d : Fin 2), s.memOk →
    (∀ (w : Walk) (ws : List Walk) (k : Fin 128) (x : CtxDesc), (s.die d).walks = w :: ws → w.core = some k →
      (s.die d).ctxs.find? (·.ctx == w.ctx) = some x → x.valid = true →
      (∀ e, s.walk x w.va = .found e → e.permits w.cls w.atomic = true → ∃ t,
        exec (.pageWalk d 0) s = .next t ∧ (t.die d).walks = ws ∧ e ∈ (t.core ⟨d, k⟩).tlb2 ∧
        e ∈ (if w.cls = .fetch then (t.core ⟨d, k⟩).itlb else (t.core ⟨d, k⟩).dtlb) ∧ t.mem = s.mem ∧ t.g = s.g) ∧
      (s.walk x w.va = .noMapping → (s.die d).slots = [] → ∃ t sl,
        exec (.pageWalk d 0) s = .next t ∧ (t.die d).walks = ws ∧ (t.die d).slots = [sl] ∧ sl.slot = 0 ∧
        sl.ctx = w.ctx ∧ sl.page = w.va / 4096 ∧ sl.cls = w.cls ∧ sl.reason = 0 ∧ sl.written = false ∧
        sl.members = [w] ∧ sl.seq = BitVec.ofNat 64 ((s.die d).pgseq + 1) ∧ t.mem = s.mem ∧ t.g = s.g)) ∧
    (∀ sl : FaultSlot, (s.die d).slots = [sl] →
      (sl.written = false → (s.die d).pgrs = 6 → (s.die d).pgwr = (s.die d).pgrd → (s.die d).pgfail = false →
        s.poison = [] →
        let n := (s.die d).pgwr.toNat
        let pa := (s.die d).pgra.toNat + 32 * (n % 64)
        s.row pa ≠ .nothing → ∃ t, exec (.faultRecordWrite d) s = .next t ∧
          s.mem.wrote t.mem pa (leBytes 32 (1 - n / 64 % 2 + sl.slot.val * 2 ^ 32 + sl.reason.val * 2 ^ 48
            + (match sl.cls with | .read => 0 | .write => 1 | .fetch => 2) * 2 ^ 50 + sl.ctx.toNat * 2 ^ 52
            + sl.seq.toNat * 2 ^ 64 + sl.clk.toNat * 2 ^ 128 + sl.va * 2 ^ 192)) ∧
          (t.die d).pgwr = (s.die d).pgwr + 1 ∧ (t.die d).slots = [{ sl with written := true }] ∧
          (t.die d).nstat = (s.die d).nstat ||| 1) ∧
      ∀ ans : BitVec 64, ans.extractLsb' 12 4 = 0#4 → ans.getLsbD 10 = false →
        (ans.extractLsb' 0 10).toNat = sl.slot.val → ans.extractLsb' 16 48 = sl.seq.extractLsb' 0 48 →
        (s.die d).waiting = [] →
        (ans.getLsbD 11 = false → exec (.pagerRetry d ans) s = .next (s.setDie d { s.die d with
          slots := [], walks := (s.die d).walks ++ sl.members })) ∧
        (ans.getLsbD 11 = true → exec (.pagerDecline d ans) s = .next (s.setDie d { s.die d with
          slots := [], refused := (s.die d).refused ++ sl.members.map fun w => (w.who, w.cls, w.va, 3, w.va) })))

/-- The ends of waits: a QPUT whose index is reserved writes its entry once the ring has room and gives SEQ; a WAITV of a
group without earlier stores and fences ends once SEQ has reached its number, a WAITW once WINDOW has reached its target, and each writes its register. -/
def Obligations.WaitsEnd : Prop :=
  ∀ (s : State) (r : GroupRef) (c : Ctl), s.here r →
    (∀ n t d, s.g.run = .waiting c (.window t d) → t.toNat ≤ s.window.toNat → d = some n →
      exec (.waitwWake r) s = .next (State.advance { s.dropL1 s.g.coreRef with
        g := { s.g.writeS n s.window with run := .ready } } c)) ∧
    (∀ t d, s.g.run = .waiting c (.window t d) → s.window.toNat < t.toNat → exec (.waitwWake r) s = .next s) ∧
    (∀ ch n k pa, s.g.run = .waiting c (.seq ch n (some k)) → s.g.fifo = [] → s.g.fences = [] →
      (s.core s.g.coreRef).path = [] → s.ahead = [] →
      let va := s.ccbVa s.g.die s.g.ctx ch + 24
      let seq : Nat := s.mem.nat pa 8
      s.groupSees s.g.coreRef s.g.ctx va pa →
      (n.toNat ≤ seq → exec (.waitvWake r) s = .next (State.advance { s.dropL1 s.g.coreRef with
        g := { s.g.writeS k (BitVec.ofNat 64 seq) with run := .ready } } c)) ∧
      (seq < n.toNat → exec (.waitvWake r) s = .next s)) ∧
    ∀ (e : FifoEntry) (ch : BitVec 12) (img : List Byte) (i cpa epa : Nat), s.memOk → s.g.fifo = [e] → e.kind = .qput ch img (some i) →
      e.lanes = [⟨0, 0, 0, 0, none⟩] → img.length = 64 → s.g.fences = [] → (∀ p ∈ s.g.log, e.seq ≤ p.seq) →
      (s.core s.g.coreRef).path = [] →
      let va := s.ccbVa s.g.die s.g.ctx ch
      let b : Ccb := ⟨s.mem.nat cpa 128⟩
      let slot : Nat := b.head + 64 * (i % 63)
      s.groupSees s.g.coreRef s.g.ctx va cpa → s.groupSees s.g.coreRef s.g.ctx slot epa → b.nblk = 1 → b.head % 4096 = 0 → i < b.seq + 63 → epa % 64 = 0 → ∃ t,
        exec (.qputRingWaitEnd r) s = .next t ∧ t.g.fifo = [] ∧
        s.mem.wrote t.mem epa (leBytes 8 (bitsOf (leNat img) 0 64 - leNat img % 2 - bitsOf (leNat img) 16 8 * 2 ^ 16 +
          (1 - i / 63 % 2)) ++ img.drop 8) ∧
        ∀ p ∈ s.g.log, p.seq = e.seq → ∃ p' ∈ t.g.log, p'.seq = p.seq ∧
          p'.lanes.map (·.val) = p.lanes.map fun _ => some (BitVec.ofNat 64 (i + 1))

/-! ### Chains and their engines -/

/-- A chain's engine: it takes the entry at SEQ whose phase is valid, as one more record in progress, when the chain
is the first of its instance's; it leaves an entry with the other phase; an unknown KIND halts the chain with HCODE 2.
A performed record is published: STATUS, ERRSEQ for the first failure, then SEQ; no other byte of memory changes.
Which HCODE an entry with several defects gives is the model's reading (notes/assumptions/69). -/
def Obligations.ChainRecords : Prop :=
  ∀ (s : State) (c : ChainRef), s.memOk →
    (∀ (x : CtxDesc) (cpa epa : Nat), s.halts.find? (·.1 == c) = none → s.rec? c = none →
      s.unserved.contains (c.ctx, c.ch) = false →
      (s.die c.die).ctxs.find? (·.ctx == c.ctx) = some x → x.valid = true →
      let b : Ccb := ⟨s.mem.nat cpa 128⟩
      let slot : Nat := b.head + 64 * (b.seq % 63)
      let raw : Nat := s.mem.nat epa 64
      s.engineSees c.die c.ctx (x.chta.toNat + 128 * c.ch.toNat) cpa → s.engineSees c.die c.ctx slot epa →
      b.state = 1 → b.die = c.die.val → (b.eng = 0 ∧ b.inst = 0 ∨ b.eng = 3 ∧ b.inst < 8) → b.nblk = 1 →
      b.head % 4096 = 0 → bitsOf raw 35 1 = 0 →
      (raw % 2 ≠ 1 - b.seq / 63 % 2 → exec (.chainRecordStart c) s = .next s) ∧
      (raw % 2 = 1 - b.seq / 63 % 2 → knownKind b.eng (bitsOf raw 8 8) = true → headerOk raw = true →
        s.firstAmong c b = true → ∃ t n,
        exec (.chainRecordStart c) s = .next t ∧ t = { s with recs := s.recs ++ [n], dies := t.dies } ∧
        n.c = c ∧ n.idx = b.seq ∧ n.raw = raw ∧ n.va = slot ∧ n.eng = b.eng ∧ n.inst = b.inst ∧ n.launch = none ∧
        n.begun = false ∧ n.status = if bitsOf raw 2 1 = 1 ∧ s.failed.contains (c.ctx, c.ch) = true then some 2 else none) ∧
      (raw % 2 = 1 - b.seq / 63 % 2 → knownKind b.eng (bitsOf raw 8 8) = false → cpa % 128 = 0 → ∃ t,
        exec (.chainRecordStart c) s = .next t ∧ s.mem.wrote t.mem (cpa + 4) [2, 2] ∧ t.recs = s.recs ∧
        (t.die c.die).nstat = (s.die c.die).nstat ||| 4)) ∧
    ∀ (r : ChainRec) (st : Byte) (pa cpa : Nat), s.rec? c = some r → r.c = c → r.status = some st → r.dead = false →
      let b : Ccb := ⟨s.mem.nat cpa 128⟩
      s.engineSees c.die c.ctx (r.va + 2) pa → s.engineSees c.die c.ctx (s.ccbVa c.die c.ctx c.ch) cpa →
      (pa < cpa ∨ cpa + 128 ≤ pa) → cpa % 128 = 0 → b.seq = r.idx →
      r.idx + 1 < 2 ^ 64 → ∃ t,
      exec (.chainRecordComplete c) s = .next t ∧ t.recs = s.recs.filter (·.c != c) ∧ t.mem.read pa = st ∧
      t.mem.nat (cpa + 24) 8 = r.idx + 1 ∧
      t.mem.nat (cpa + 32) 8 = (if st ≠ 0 ∧ b.errseq = 0 then r.idx + 1 else b.errseq) ∧
      (∀ a, a ≠ pa → (a < cpa + 24 ∨ cpa + 40 ≤ a) → t.mem.read a = s.mem.read a) ∧
      (t.failed.contains (c.ctx, c.ch) = true ↔ st ≠ 0)

/-- The command processor: an MWAIT ends with status 0 once its value satisfies the comparison, is read again after
256 cycles until then, and ends with status 18 when its time is up; a read that would meet a release ahead of what it
publishes waits (R203, R422; notes/assumptions/118); MSIGNAL makes its one write; LAUNCH accepts a
record that passes the checks of R163, with its clusters split between the dies and its teams still to be handed out,
and refuses one under a context whose descriptor is not valid with CODE 1 (R381). -/
def Obligations.CommandProcessor : Prop :=
  ∀ (s : State) (c : ChainRef) (r : ChainRec) (pa : Nat), s.memOk → s.rec? c = some r → r.eng = 0 → r.status = none →
    let f (lo n : Nat) : Nat := bitsOf r.raw lo n
    (r.kind = 2 → f 356 156 = 0 → f 320 3 < 6 → s.engineSees c.die c.ctx (f 128 64) pa →
      let n : Nat := if f 323 1 = 0 then 4 else 8
      f 128 64 % n = 0 →
      let a : BitVec (8 * n) := BitVec.ofNat (8 * n) (s.mem.nat pa n &&& f 256 64)
      let b : BitVec (8 * n) := BitVec.ofNat (8 * n) (f 192 64 &&& f 256 64)
      let met : Prop := match f 320 3 with
        | 0 => a = b
        | 1 => a ≠ b
        | 2 => b.toNat ≤ a.toNat
        | 3 => a.toNat < b.toNat
        | 4 => b.toInt ≤ a.toInt
        | _ => a.toInt < b.toInt
      let late : Prop := f 324 32 ≠ 0 ∧ 1024 * f 324 32 ≤ r.since
      let ahead : Prop := s.aheadDie c.die pa (128 - pa % 128) = true
      ∀ i : Instr, (i = .mwait c ∧ r.begun = false ∨ i = .mwaitPoll c ∧ r.begun = true ∧ r.next = 0) →
        (¬ ahead → met → exec i s = .next (s.endRec c 0)) ∧
        (¬ ahead → ¬ met → late → exec i s = .next (s.endRec c 18)) ∧
        (¬ ahead → ¬ met → ¬ late → exec i s = .next (s.modRec c fun x => { x with begun := true, next := 256 })) ∧
        (ahead → ¬ late → exec i s = .next (s.modRec c fun x => { x with begun := true, next := 1 }))) ∧
    (r.kind = 3 → f 259 253 = 0 → f 256 2 ≠ 3 → s.engineSees c.die c.ctx (f 128 64) pa →
      let n : Nat := if f 258 1 = 0 then 4 else 8
      let old : Nat := s.mem.nat pa n
      let v : Nat := f 192 64
      f 128 64 % n = 0 → s.noAtoms → ∃ t, exec (.msignal c) s = .next t ∧ t.recs = (s.endRec c 0).recs ∧ t.g = s.g ∧ t.rest = s.rest ∧
        s.mem.wrote t.mem pa (leBytes n (match f 256 2 with
          | 0 => v
          | 1 => old + v
          | _ => max old (v % 2 ^ (8 * n))))) ∧
    (r.kind = 1 → r.launch = none → f 192 320 = 0 → f 128 64 % 128 = 0 → s.engineSees c.die c.ctx (f 128 64) pa →
      (∀ d, s.keepsCtx d c.ctx) → s.recs.length ≤ 64 →
      let l := launchRec (s.mem.nat pa 128)
      ((s.desc c.die c.ctx).valid = false → l.prtn = 0 → ∃ u : State, u.launches.map (·.phase) = s.launches.map (·.phase) ++
          [.reporting (s.refusal c.die 1)] ∧ u.mem = s.mem ∧ u.key = s.key + 1 ∧
        exec (.launch c) s = .next (u.publish s.key)) ∧
      ((s.desc c.die c.ctx).valid = true → l.prtn = 0 → launchCode (s.mem.nat pa 128) (some 0) = none → ∃ t x,
      exec (.launch c) s = .next t ∧ t.launches = s.launches ++ [x] ∧ t.key = s.key + 1 ∧ t.mem = s.mem ∧ t.g = s.g ∧
      t.recs = (s.modRec c fun y => { y with launch := some s.key }).recs ∧
      x.key = s.key ∧ x.ctx = c.ctx ∧ x.record = l ∧ x.phase = .running ∧ x.chain = c ∧ x.regions = [] ∧ x.code = s.mem ∧
      x.pre = none ∧ x.t0 = ⟨0, l.split / l.z, none, none, []⟩ ∧ x.t1 = ⟨l.split / l.z, l.nteam / l.z, none, none, []⟩))

/-- Trowel and Scraper: BUILD takes an empty slot, reads keys and primitives, writes its nodes one by one, those of the other
half by the other die's instance (R412; notes/assumptions/141), publishes the slot when none is left, publishes each
fenced child with its FENCE bit cleared, and gives a slot back when it fails; a node is rewritten in three writes, SEQ
odd, the other bytes, SEQ even (R327); SKIM starts at the last node and ends with its result word; SWITCH makes a slot
current and the other one draining; RECLAIM empties a draining slot that nothing traverses, and waits while something
does. The order of the checks, and the cut of a command into steps, are the model's readings (notes/assumptions/77 and
105). -/
def Obligations.TreeEngines : Prop :=
  ∀ (s : State) (c : ChainRef) (r : ChainRec) (pa spa opa : Nat) (slot : Fin 2), s.memOk → s.rec? c = some r →
    r.status = none → s.hasTurn r = true → s.noAtoms →
    let f (lo n : Nat) : Nat := bitsOf r.raw lo n
    let desc : Nat := f 128 64
    let d : Nat := s.mem.nat pa 128
    let other : Fin 2 := if slot = 0 then 1 else 0
    let sst (slot : Fin 2) : Nat := bitsOf d (520 + 256 * slot.val) 8
    let gen (slot : Fin 2) : Nat := bitsOf d (528 + 256 * slot.val) 16
    let word (slot : Fin 2) : Nat := bitsOf d (512 + 256 * slot.val) 64
    s.engineSees c.die c.ctx desc pa → desc % 128 = 0 → pa % 128 = 0 →
    s.engineSees c.die c.ctx (desc + 64 + 32 * slot.val) spa → spa = pa + 64 + 32 * slot.val →
    s.engineSees c.die c.ctx (desc + 64 + 32 * other.val) opa → opa = pa + 64 + 32 * other.val →
    let done (i : Instr) (st : Byte) (P : State → Prop) : Prop :=
      ∃ t, exec i s = .next t ∧ t.recs = (s.endRec c st).recs ∧ t.g = s.g ∧ t.rest = s.rest ∧ P t
    (r.eng = 1 → r.kind = 3 → slot.val = f 192 1 → f 193 319 = 0 → sst slot = 2 →
      done (.switch c) 0 fun t =>
        (∀ a, a ≠ pa → a ≠ opa + 1 → t.mem.read a = s.mem.read a) ∧
        (t.mem.read pa).toNat = (s.mem.read pa).toNat / 2 * 2 + slot.val ∧
        (t.mem.read (opa + 1)).toNat = if sst other = 2 then 3 else sst other) ∧
    (r.eng = 2 → r.kind = 1 → r.stage = 0 → slot.val = f 208 1 → f 210 302 = 0 → sst slot = 3 → gen slot = f 192 16 →
      ∀ i : Instr, (i = .reclaim c ∧ r.begun = false ∨ i = .reclaimPoll c ∧ r.begun = true ∧ r.next = 0) →
        (word slot / 2 ^ 32 = 0 → f 209 1 = 0 → done i 0 fun t => s.mem.wrote t.mem (spa + 1) [0]) ∧
        (word slot / 2 ^ 32 ≠ 0 → s.deferredRecs c.die < 16 →
          exec i s = .next (s.modRec c fun x => { x with begun := true, next := 1024 }))) ∧
    (r.eng = 1 → r.kind = 2 → slot.val = f 256 1 → f 257 255 = 0 → f 192 64 % 8 = 0 → r.writes = [] →
      (r.stage = 0 → sst slot = 2 → exec (.skim c) s = .next (s.modRec c fun x => { x with
        stage := 1, begun := true, next := bitsOf d (608 + 256 * slot.val) 32, acc := [0, 0xFFFFFFFF] })) ∧
      (∀ n low rpa, r.stage = 1 → r.next = 0 → r.acc = [n, low] → s.engineSees c.die c.ctx (f 192 64) rpa →
        done (.skim c) 0 fun t => s.mem.wrote t.mem rpa (leBytes 8 (n + low * 2 ^ 32)))) ∧
    (∀ w ws, r.eng = 1 → r.kind = 1 ∨ r.kind = 2 → r.writes = w :: ws → ∃ t : State,
      exec (if r.kind = 1 then .build c else .skim c) s = .next t ∧ s.mem.wrote t.mem w.pa (leBytes w.len w.val) ∧ t.g = s.g ∧
      t.rest = s.rest ∧ t.recs = (s.modRec c fun x => { x with writes := ws }).recs) ∧
    (r.eng = 1 → r.kind = 1 → slot.val = f 448 1 → r.writes = [] →
      (let g : Nat := (gen other + 1) % 2 ^ 16
       r.stage = 0 → f 451 61 = 0 → f 192 64 % 8 = 0 → f 256 64 % 128 = 0 → 0 < f 384 32 → f 384 32 ≤ 2 ^ 24 →
       f 320 64 % (if bitsOf d 1 1 = 1 then 128 else 1024) = 0 → sst slot = 0 → ∃ t : State, exec (.build c) s = .next t ∧
        s.mem.wrote t.mem (spa + 1) ([1] ++ leBytes 2 g) ∧ t.g = s.g ∧ t.rest = s.rest ∧ t.recs = (s.modRec c fun x => { x with
          stage := 4, begun := true, acc := [bitsOf d 1 1, g] }).recs) ∧
      (∀ ks t, r.stage = 4 → f 384 32 < 65536 ∨ s.partnerBusy c r.inst = false →
        gatherKeys c s (r.acc.headD 0 == 1) r.build = .ok (.ok ks) t →
        let tree : List (Nat × Nat) := buildTree ((r.acc.drop 1).headD 0) ks
        (f 416 32 < tree.length → exec (.build c) s = .next (t.rollback c 2 18)) ∧
        (tree.length ≤ f 416 32 → f 449 1 = 0 → exec (.build c) s = .next (t.modRec c fun x => { x with
          stage := 5, acc := [rootOf tree, tree.length], todo := buildTodo r.build tree ks }))) ∧
      (∀ k n ns rest npa, r.stage = 5 ∧ f 449 1 = 0 ∨ r.stage = 1 → r.todo = (k, n :: ns) :: rest →
        s.engineSees (if k < 8 then c.die else otherDie c.die) c.ctx (f 256 64 + 128 * n.1) npa →
        npa % 128 = 0 → (f 256 64 + 128 * n.1) % 128 = 0 →
        ∃ t : State, exec (.build c) s = .next t ∧ s.mem.wrote t.mem npa (leBytes 128 n.2) ∧ t.g = s.g ∧
          t.rest = s.rest ∧ t.recs = (s.modRec c fun x => { x with todo := (k, ns) :: rest }).recs) ∧
      (∀ k rest, r.stage = 5 → f 449 1 = 0 → r.todo = (k, []) :: rest →
        exec (.build c) s = .next (s.modRec c fun x => { x with todo := rest })) ∧
      (∀ root n, r.stage = 5 → f 449 1 = 0 → f 450 1 = 0 → r.todo = [] → r.acc = [root, n] → sst slot = 1 →
        s.engineSees c.die c.ctx (desc + 72 + 32 * slot.val) (spa + 8) →
        s.engineSees c.die c.ctx (desc + 80 + 32 * slot.val) (spa + 16) →
        done (.build c) 0 fun t => ∃ m, s.mem.wrote m (spa + 8)
          (leBytes 8 (f 384 32 + n * 2 ^ 32) ++ leBytes 16 (f 320 64 + f 256 64 * 2 ^ 64)) ∧
          m.wrote t.mem (spa + 1) [2]) ∧
      (∀ st rest, r.stage = 2 → r.acc = st :: rest →
        done (.build c) (BitVec.ofNat 8 st) fun t => s.mem.wrote t.mem (spa + 1) [0]) ∧
      (r.stage = 1 → r.todo = [] → exec (.build c) s = .next (s.endRec c 0)) ∧
      ∀ k root npa, r.stage = 1 → r.todo = [(k, [])] → r.acc = [root] → k < 8 → f 256 64 % 128 = 0 →
        s.engineSees c.die c.ctx (f 256 64) npa → npa % 128 = 0 →
        let new : Nat := putBits (putBits root 992 32 (bitsOf root 992 32 + 2)) (888 + k) 1 0
        let q : Nat := bitsOf new 992 32
        ∃ t : State, exec (.build c) s = .next t ∧ t.g = s.g ∧ t.rest = s.rest ∧
          s.mem.wrote t.mem (npa + 124) (leBytes 4 ((q + 2 ^ 32 - 1) % 2 ^ 32)) ∧
          t.recs = (s.modRec c fun x => { x with
            writes := [⟨npa, 124, bitsOf new 0 992⟩, ⟨npa + 124, 4, q⟩], acc := [new], todo := [] }).recs)

/-! ### Teams, barriers and spawned groups -/

/-- The request whose turn it is at a die's range takes the lowest cluster, or, after the own takes, steals the
highest; one that cannot be served leaves the queue with nothing. The groups of the team stand Placed with the
registers of R27, and become Ready at the start of the team or cluster, which drops what LDRO had filled on a core
that the launch starts on for the first time, and what L1 held (notes/assumptions/142). When a core has its resources
back, so that it can hold a team, is the model's reading (notes/assumptions/121). -/
def Obligations.TicketsAndTeams : Prop :=
  ∀ (s : State) (c : CoreRef) (l : Launch), s.launch? l.key = some l → l.record.cw = 0 →
    let now : Nat := (s.die c.die).clock
    let other : Fin 2 := if c.die = 0 then 1 else 0
    let own : Tickets := l.range c.die
    let far : Tickets := l.range other
    let placed (i : Instr) (n : Nat) (d : Fin 2) (r : Tickets) : Prop := ∃ t x gs, exec i s = .next t ∧ t.teams = s.teams ++ [x] ∧
      t.rest = s.rest ++ gs ∧ t.g = s.g ∧ t.mem = s.mem ∧
      x.launch = l.key ∧ x.die = c.die ∧ x.core = c.core ∧ x.idx = BitVec.ofNat 32 n ∧ x.l = [] ∧ x.a = [] ∧ x.w = [] ∧
      x.c = [] ∧
      (∀ g ∈ gs, g.run = .placed ∧ g.launch = l.key ∧ g.team = x.key ∧ g.coreRef = c ∧ g.pc = l.record.entry ∧
        g.readS 1 = l.record.param ∧ g.readS 2 = (BitVec.ofNat 32 n : Word).setWidth 64 ∧
        g.readS 5 = l.record.lid.setWidth 64 ∧ g.exec = BitVec.allOnes 32 ∧ g.status = 0 ∧ g.log = [] ∧ g.fifo = []) ∧
      gs.length = min (l.record.groups) (s.freeSlots c).length ∧
      ∃ l', t.launch? l.key = some l' ∧ l'.range d = r
    let less (r : Tickets) : Tickets := { r with asks := r.asks.filter fun a => a.core != c }
    let free := s.offers l c.die = true ∧ s.canHold c l.record = true
    (s.spawnFirst c = false → own.took ≠ some now → s.nextAsk own c.die true = some c →
      (free → own.low < own.high →
        placed (.ticketTake c l.key) own.low c.die { less own with low := own.low + 1, took := some now }) ∧
      (¬ free ∨ own.high ≤ own.low →
        exec (.ticketTake c l.key) s = .next (s.modLaunch l.key fun l => l.setRange c.die (less own)))) ∧
    (s.spawnFirst c = false → far.stole ≠ some (s.die other).clock →
      far.took = some (s.die other).clock ∨ s.nextAsk far other true = none → s.nextAsk far other false = some c →
      (free → far.low < far.high → l.record.nostl = false →
        placed (.ticketSteal c l.key) (far.high - 1) other
          { less far with high := far.high - 1, stole := some (s.die other).clock }) ∧
      (¬ free ∨ far.high ≤ far.low ∨ l.record.nostl = true →
        exec (.ticketSteal c l.key) s = .next (s.modLaunch l.key fun l => l.setRange other (less far)))) ∧
    ∀ (d : Fin 2) (n : Nat), l.phase = .running → l.pre = none → l.record.coop = false →
      (s.die d).start ≠ some (s.die d).clock →
      (∀ t0, l.started.get d = some t0 → t0 + l.record.stg ≤ (s.die d).clock) →
      let mine (g : Group) : Prop := g.launch = l.key ∧ g.die = d ∧ g.run = .placed ∧ g.spawned = false ∧
        g.clusterid.toNat = n
      (∃ g ∈ s.groups, mine g) → ∃ t, exec (.teamStart d l.key n) s = .next t ∧
        (∀ h, h ∈ t.groups ↔ (∃ g ∈ s.groups, mine g ∧ h = { g with run := .ready }) ∨ (h ∈ s.groups ∧ ¬ mine h)) ∧
        (∀ g ∈ s.groups, mine g → (t.core g.coreRef).l1 = [] ∧
          (l.startedOn.contains g.coreRef = false → (t.core g.coreRef).ro = [])) ∧
        (t.die d).start = some (s.die d).clock ∧ t.mem = s.mem ∧ t.teams = s.teams

/-- Arrivals, phases and departures: the root counts a released arrival once; a phase that has its explicit count, or
without one the arrival of every group that has not exited, closes and the next opens (R157, R173); a group that waits
for a closed phase goes on past its word; an exiting group whose stores are drained and whose arrivals have been counted
retires. Which stores a waiting group of another core still waits for is the model's reading (notes/assumptions/118). -/
def Obligations.BarriersAndRetirement : Prop :=
  ∀ (s : State) (r : GroupRef), s.here r →
    (∀ (b : BarRef) (a : Arrival), (s.bar b).sent = [a] → s.seatOf a.g ∉ (s.bar b).here →
      a.cycle < (s.die a.g.die).clock → s.released a = true →
      let x := s.bar b
      let counted : Barrier := { x with sent := [], here := x.here ++ [s.seatOf a.g], owed := s.publishes b ⟨a.g.die, a.g.core⟩ }
      let closed (y : Barrier) : Barrier := { y with phase := x.phase + 1, here := [], past := 0, count := none }
      (∀ n : Nat, x.here.length + x.past < n →
        (x.here = [] ∧ x.past = 0 ∧ x.count = none ∧ a.count = some n ∨ (x.here ≠ [] ∨ x.past ≠ 0) ∧ x.count = some n) →
        ∃ t, exec (.barrierArrivalCount b) s = .next t ∧ t.mem = s.mem ∧
          t.bar b = if x.here.length + 1 + x.past < n then { counted with count := some n } else closed counted) ∧
      (x.count = none → a.count = none →
        let missing : Prop := ∃ g ∈ s.meets b, g.seat ≠ s.seatOf a.g ∧ g.seat ∉ x.here ∧
          (g.hasExited = false ∨ (s.die 0).clock - 1 < g.leftAt)
        ∃ t, exec (.barrierArrivalCount b) s = .next t ∧ t.mem = s.mem ∧ (missing → t.bar b = counted) ∧
          (¬ missing → t.bar b = closed counted))) ∧
    (∀ (b : BarRef) (c : Ctl) (n k : Nat) (sync : Bool), s.rest = [] → s.g.run = .waiting c (.barrier b n sync k) →
      s.meets b = [s.g] → s.phaseOver b n = true →
      exec (.barrierRelease b) s = .next (State.advance { s.barAcquire b with g := { s.g with run := .ready } } c)) ∧
    (s.g.run = .exiting → s.g.fifo = [] → (∀ k ∈ (s.core s.g.coreRef).cmds, k.g = r → k.launch ≠ s.g.launch) →
      (∀ x ∈ s.bars, ∀ a ∈ x.sent, a.g ≠ r) → ∃ t,
      exec (.groupRetire r) s = .next t ∧
      t.g = { s.g with run := .retired, log := [], fences := [], cflush := none } ∧ ∀ g ∈ t.rest, g ∈ s.rest) ∧
    (s.g.run = .exiting → s.g.fifo ≠ [] ∨ (∃ x ∈ s.bars, ∃ a ∈ x.sent, a.g = r) → exec (.groupRetire r) s = .next s)

/-- The spawn gatherer: a record opens a bin of its key, one that arrived later waits (R171), and with the last record
of its SPAWN the group goes on; a bin whose timer has run out forms; a formed group is placed and starts with its
payload in V0 to V13, one lane a record. What a record waits for before it is accepted, and that the core's L1 lines
are dropped at the start, are the model's readings (notes/assumptions/58 and 142). -/
def Obligations.SpawnedGroups : Prop :=
  ∀ (s : State) (l : Launch), s.launch? l.key = some l → (∀ m ∈ s.launches, ∀ d, m.spill.get d = (0, 0)) →
    (∀ (r : GroupRef) (x : SpawnRec), s.here r → s.g.launch = l.key → s.g.spawnq = [x] → s.g.log = [] → s.g.fifo = [] →
      s.g.fences = [] →
      (s.core s.g.coreRef).path = [] → (s.die s.g.die).bins = [] → (s.die s.g.die).formed = [] → s.g.spawnAt = none →
      (∀ h ∈ s.rest, h.spawnq = []) → s.forced s.g.launch = false →
      exec (.spawnRecordAccept r) s = .next (State.advance { s.setDie s.g.die { s.die s.g.die with
        bins := [⟨0, l.key, x.entry, [x], 0⟩], spawnN := (s.die s.g.die).spawnN + 1 } with
        g := { s.g with spawnq := [] } } s.g.spawnc)) ∧
    (∀ (r : GroupRef) (n : Nat) (h : Group), s.here r → s.g.launch = l.key → s.g.spawnAt = some n → h ∈ s.rest →
      h.active = true → h.die = s.g.die → h.spawnq ≠ [] → (∀ m ∈ h.spawnAt, m < n) → h.spawnAt ≠ none → s.g.fences = [] →
      exec (.spawnRecordAccept r) s = .next s) ∧
    (∀ (d : Fin 2) (b : Bin), (s.die d).bins = [b] → b.launch = l.key → l.record.spt ≤ b.timer →
      exec (.binTimerExpiry d b.num) s =
        .next (s.setDie d { s.die d with bins := [], formed := (s.die d).formed ++ [b] })) ∧
    (∀ (d : Fin 2) (b : Bin), (s.die d).bins = [b] → b.launch = l.key → b.timer < l.record.spt →
      exec (.binTimerExpiry d b.num) s = .next s) ∧
    ∀ (d : Fin 2) (b : Bin) (k : Fin 128) (rsv : Bool), s.placeable d = some (b, l, k, rsv) →
      (∀ g ∈ s.groups, g.spawned = true → g.die = d → g.run ≠ .placed) →
      (s.die d).start ≠ some (s.die d).clock → s.freeSlots ⟨d, k⟩ ≠ [] → b.recs.length ≤ 32 → ∃ t g x,
      exec (.spawnedGroupPlace d) s = .next t ∧ t.rest = s.rest ++ [g] ∧ t.teams = s.teams ++ [x] ∧ t.g = s.g ∧
      t.mem = s.mem ∧ g.run = .ready ∧ g.spawned = true ∧ g.coreRef = ⟨d, k⟩ ∧ g.team = x.key ∧ x.spawned = true ∧
      g.pc = (b.entry - l.record.cbase).setWidth 32 ∧ g.readS 2 = BitVec.ofNat 64 (l.spawnSeq.get d) ∧
      (∀ i : Lane, g.exec.getLsbD i.val = decide (i.val < b.recs.length)) ∧
      (∀ (i : Lane) (n : Fin 128) (p : SpawnRec) (w : Word), b.recs[i.val]? = some p → n.val < 14 →
        p.payload[n.val]? = some w → g.readV n i = w) ∧
      (t.die d).formed = (s.die d).formed.filter (·.num != b.num) ∧ (t.core ⟨d, k⟩).l1 = []

/-! ### The engines of a core -/

/-- The copy engine: the next ready command starts while fewer than four are in progress, having read its records or
checked its ranges; a COPY.XS ends with its bytes in the destination, everything else as it was; a cancelled command
ends with status 1. Which pieces of a cancelled command were done is an argument of the step (notes/assumptions/102).
-/
def Obligations.CopyEngine : Prop :=
  ∀ (s : State) (c : CoreRef) (x : Cmd), s.cmd? c x.tag = some x → x.eng = .copy →
    let size (sp : Space) : Nat := s.sizeOf x.team sp
    (x.phase = .waiting → s.cmdReady c x = true → (s.core c).isNext .copy x.tag = true → (s.core c).copying < 4 →
      (∀ (y : CopyXsArgs) (so n d : Word64), x.instr = .copyXs y → x.ext = [so, n, d] →
        (so.toNat + n.toNat ≤ size (spaceOf y.src) → d.toNat + n.toNat ≤ size (spaceOf y.dst) → ∃ t,
          exec (.copyCommandStart c x.tag) s = .next t ∧ t = { s with cores := t.cores } ∧
          t.cmd? c x.tag = some { x with phase := .started, recs := [0] }) ∧
        (size (spaceOf y.src) < so.toNat + n.toNat ∨ size (spaceOf y.dst) < d.toNat + n.toNat → ∃ u : State,
          exec (.copyCommandStart c x.tag) s = .next (u.endCmd c x.tag 6) ∧ u = { s with cores := u.cores })) ∧
      ∀ (z : CopyArgs) (la ba off : Word64) (lpa bpa : Nat) (p : CopyPlan),
        x.instr = .copyIn z ∨ x.instr = .copyOut z → x.ext = [la, ba, off] → s.coreSees c x.ctx la.toNat lpa →
        s.coreSees c x.ctx ba.toNat bpa → copyPlan (s.mem.nat lpa 64) (s.mem.nat bpa 32) = some p →
        off.toNat % p.es = 0 → off.toNat + p.bytes ≤ size (spaceOf z.st) → ∃ t,
        exec (.copyCommandStart c x.tag) s = .next t ∧ t = { s with cores := t.cores } ∧
        t.cmd? c x.tag = some { x with phase := .started, recs := [s.mem.nat lpa 64, s.mem.nat bpa 32] }) ∧
    (x.phase = .started → x.recs = [0] → x.done = [] → (∃ w, s.team? x.team = some w ∧ w.errs = []) →
      ∀ (y : CopyXsArgs) (so n d : Word64), x.instr = .copyXs y → x.ext = [so, n, d] → y.src ≠ y.dst →
        so.toNat % 32 = 0 → n.toNat % 32 = 0 → d.toNat % 32 = 0 → 32 ≤ n.toNat →
        (s.windowOf x.team (spaceOf y.dst)).wf = true → ∃ u : State,
        exec (.copyCommandEnd c x.tag) s = .next (u.endCmd c x.tag 0) ∧
        u = { s with cores := u.cores, teams := u.teams } ∧
        (∀ a, (u.windowOf x.team (spaceOf y.dst)).read a =
          if d.toNat ≤ a ∧ a < d.toNat + n.toNat then (s.windowOf x.team (spaceOf y.src)).read (so.toNat + (a - d.toNat))
          else (s.windowOf x.team (spaceOf y.dst)).read a) ∧
        ∀ sp, sp ≠ spaceOf y.dst → u.windowOf x.team sp = s.windowOf x.team sp) ∧
    (x.phase = .started → x.cancel = true →
      exec (.engineCancellation c x.tag []) s = .next (s.endCmd c x.tag 1)) ∧
    (x.phase = .started → x.cancel = false → exec (.engineCancellation c x.tag []) s = .next s)

/-- The matrix engine and the epilogue pipe: a ready command whose ranges lie in their windows starts, one outside
ends with status 6; its read of its tile may overtake the write of the command before it (R290, R291). A K-block is
summed at a time; commands write in the order in which they started: the end of MZERO clears its tile, that of MMA
writes it, and that of an MLDT whose tile has become malformed has status 8 with V clear. EPI starts with a checked
block and ends with AMAX, of which nothing stands in memory while its update waits (R295). That a K-block is one step,
and the order of the checks at the start, are the model's readings (notes/assumptions/65 and 64). -/
def Obligations.MatrixEngine : Prop :=
  ∀ (s : State) (c : CoreRef) (x : Cmd), s.cmd? c x.tag = some x → (∀ w ∈ s.team? x.team, w.errs = []) →
    (s.core c).mx.errs = [] →
    let size (sp : Space) : Nat := s.sizeOf x.team sp
    let f := x.fmt
    let m : Matrix := (s.core c).mx
    let mx (u : State) : Matrix := (u.core c).mx
    let others (q : Option Job) : Option Job := q.filter (·.tag != x.tag)
    let ends (j : Job) : Prop := j.tag = x.tag ∧ (m.out = some j ∨ m.out = none ∧ m.job = some j)
    let ended (st : Byte) (u : State) : Prop := exec (.matrixCommandEnd c) s = .next (u.endCmd c x.tag st) ∧
      (mx u).job = others m.job ∧ (mx u).out = others m.out ∧ u = { s with cores := u.cores, teams := u.teams }
    (x.eng = .matrix → x.phase = .waiting → s.cmdReady c x = true → (s.core c).isNext .matrix x.tag = true →
      m.halted = [] → ∀ (y : MmaArgs) (a b n : Word64), x.instr = .mma y → x.ext = [a, b, n] →
      let fits := a.toNat + n.toNat * strideA f ≤ size .a ∧ b.toNat + n.toNat * strideB f false ≤ size .w ∧
        65536 * y.ct.val + 65536 ≤ size .c
      let starts (before : Option Job) : Prop := ∃ t j, exec (.matrixCommandStart c x.tag) s = .next t ∧
        t = { s with cores := t.cores } ∧ t.cmd? c x.tag = some { x with phase := .started } ∧ (mx t).job = some j ∧
        (mx t).out = before ∧ j.tag = x.tag ∧ j.kb = 0 ∧ j.stop = false ∧ j.acc = if y.zr then List.replicate 16384 0
          else wordsOf ((s.windowOf x.team .c).bytes (65536 * y.ct.val) 65536)
      (m.job = none → fits → starts m.out) ∧
      (∀ j, m.job = some j → m.out = none → s.lastWrite c j = true → fits → starts (some j)) ∧
      (∀ j, m.job = some j → m.out ≠ none ∨ s.lastWrite c j = false → exec (.matrixCommandStart c x.tag) s = .next s) ∧
      (m.job = none → ¬ fits → exec (.matrixCommandStart c x.tag) s = .next (s.endCmd c x.tag 6))) ∧
    (∀ (y : MmaArgs) (a b n : Word64) (j : Job), x.instr = .mma y → x.ext = [a, b, n] → j.tag = x.tag →
      (m.job = some j → m.out = none → j.kb < n.toNat → j.stop = false → ∃ t acc, exec (.matrixKblockEnd c) s = .next t ∧
        t = { s with cores := t.cores } ∧ (mx t).job = some { j with kb := j.kb + 1, acc := acc, old := some (j.old.getD (m.oldErrs x)) } ∧
        s.denseBlock x ⟨n.toNat, y.ct.val, 1, 0, 128, y.zr⟩ j = some acc) ∧
      (m.job = some j → n.toNat ≤ j.kb → exec (.matrixKblockEnd c) s = .next s) ∧
      (ends j → n.toNat ≤ j.kb → j.acc.length = 16384 → (∃ w, s.team? x.team = some w) → (s.windowOf x.team .c).wf = true →
        ∃ u, ended 0 u ∧ (s.windowOf x.team .c).wrote (u.windowOf x.team .c) (65536 * y.ct.val) (bytesOf j.acc))) ∧
    (∀ (y : MzeroArgs) (j : Job), x.instr = .mzero y → ends j → (∃ w, s.team? x.team = some w) →
      (s.windowOf x.team .c).wf = true → ∃ u, ended 0 u ∧
        (s.windowOf x.team .c).wrote (u.windowOf x.team .c) (65536 * y.ct.val) (List.replicate 65536 0)) ∧
    (∀ (y : MldtArgs) (j : Job), x.instr = .mldt y → ends j →
      (m.tt y.ts).wf = true → loadTaper (s.windowOf x.team .w) (fmtTN f) (x.op 0) = none → ∃ u, ended 8 u ∧
        bitsOf (((mx u).tt y.ts).nat 0 8) 32 1 = 0 ∧ u.teams = s.teams) ∧
    (∀ (y : EpiArgs) (pb : Nat), x.eng = .epilogue → x.instr = .epi y → x.phase = .waiting → s.cmdReady c x = true →
      (s.core c).isNext .epilogue x.tag = true → m.epi = none → s.epiCheck x y.ct.val = .ok pb → ∃ t,
      exec (.epilogueStart c x.tag) s = .next t ∧ t = { s with cores := t.cores } ∧
      t.cmd? c x.tag = some { x with phase := .started } ∧ (mx t).epi = some ⟨x.tag, pb, 0, 0⟩ ∧
      (t.core c).sb = (s.core c).sb.filter (·.tag != x.tag) ++ epiHolds x pb) ∧
    ∀ (y : EpiArgs) (a : Word64) (e : EpiJob), x.instr = .epi y → x.ext = [a] → m.epi = some e → e.tag = x.tag → e.row = 128 →
      (bitsOf e.pb 6 1 = 0 → (∃ w, s.team? x.team = some w) → (s.windowOf x.team .l).wf = true → ∃ u : State,
        exec (.epilogueEnd c) s = .next (u.endCmd c x.tag 0) ∧ (mx u).epi = none ∧
        u = { s with cores := u.cores, teams := u.teams } ∧
        (s.windowOf x.team .l).wrote (u.windowOf x.team .l) (a.toNat + 24) (leBytes 4 e.m.toNat)) ∧
      ∀ t, bitsOf e.pb 6 1 = 1 → turnVia (viaCmd c x) c.die x.ctx (some c.core) s (bitsOf e.pb 256 64) 4 true = .wait t →
        exec (.epilogueEnd c) s = .next t

/-- Lantern: a lane of a TRACE with a fit ray and a published structure takes the structure's count and goes to its
root; a suspended lane resumed with .END ends with its hit; a fetched node is at hand; the loop pops its stack; a
parked lane whose child is still fenced looks again 512 cycles later; a command ends when its lanes have, with status 1
when a request to cancel has arrived by then (R364). That no release stands ahead of what it publishes (R203, R348), a
premise here, is the model's way to say when a fetch goes on at once (notes/assumptions/118). That a lane
knows a leaf in progress beside its record, and that a look at a count is one step, are the model's readings
(notes/assumptions/25 and 92). -/
def Obligations.LanternSteps : Prop :=
  ∀ (s : State) (c : CoreRef) (x : Cmd) (y : RayLane), s.memOk → s.ray? c y.tag y.lane = some y →
    s.cmd? c y.tag = some x → s.preempting y.launch = false →
    (∀ (e slot tpa dpa wpa : Nat), y.cont = .start → y.begun = false → y.state = .running → x.cancel = false →
      x.phase = .started → rayOk y.rec' = true →
      (rayExt (rayWord y.rec' 6)).le (rayExt (rayWord y.rec' 7)) = true →
      (∀ z ∈ (s.core c).rays, z.held = false ∧ z.counts = []) → y.table % 8 = 0 → s.noAtoms → s.ahead = [] →
      s.coreSees c y.ctx (y.table + 8 * rayWord y.rec' 9) tpa → e = s.mem.nat tpa 8 → e % 128 = 0 →
      s.coreSees c y.ctx e dpa →
      let d : Nat := s.mem.nat dpa 128
      slot = bitsOf d 0 1 → bitsOf d (520 + 256 * slot) 8 = 2 → s.coreSees c y.ctx (e + 64 + 32 * slot) wpa →
      bitsOf d (544 + 256 * slot) 32 + 1 < 2 ^ 32 → wpa = dpa + 64 + 32 * slot → ∃ t z,
      exec (.traceLaneStart c y.tag y.lane) s = .next t ∧ t.ray? c y.tag y.lane = some z ∧ z.begun = true ∧
      z.state = .running ∧ z.cont = .visit 0 0 0 ∧ z.counts = [(e, Fin.ofNat 2 slot)] ∧ bitsOf z.rec' 960 64 = e ∧
      t.g = s.g ∧ t.rest = s.rest ∧
      s.mem.wrote t.mem (wpa + 4) (leBytes 4 (bitsOf d (544 + 256 * slot) 32 + 1))) ∧
    (∀ (uv : Word) (z : RayLane) (w : Team), y.cont = .resume .fin none uv → y.begun = false → y.state = .running →
      x.cancel = false → x.phase = .started → z ∈ (s.core c).rays → z.held = true → z.team = y.team → z.addr = y.addr →
      (∀ q ∈ (s.core c).rays, q ≠ z → q.held = false) → z.counts = [] → z.tag ≠ y.tag → s.team? y.team = some w →
      w.l.wf = true → w.errs = [] →
      let r : Nat := w.l.nat y.addr 128
      validSuspended r = true → ∃ t q, exec (.trresLaneResume c y.tag y.lane) s = .next t ∧
        t.ray? c y.tag y.lane = some q ∧ q.state = .done ∧ q.held = false ∧ t.mem = s.mem ∧
        q.code = if bitsOf r 908 1 = 1 then 1 else 0) ∧
    (∀ (ref : StructRef) (n k slot npa : Nat), y.begun = true → y.state = .running → x.cancel = false → y.node = none →
      y.cont = .visit n k slot → bitsOf y.rec' 912 1 = 0 → y.top = some ref → n < ref.nnode → ref.nodea % 128 = 0 →
      s.ahead = [] → s.coreSees c y.ctx (ref.nodea + 128 * n) npa →
      let raw : Nat := s.mem.nat npa 128
      bitsOf raw 992 32 % 2 = 0 → bitsOf raw 896 16 = ref.gen → nodeOk raw = true →
      exec (.lanternFetch c y.tag y.lane) s = .next (s.putLane c { y with node := some raw, part := [] })) ∧
    (y.begun = true → y.state = .running → x.cancel = false → y.cont = .loop → bitsOf y.rec' 912 1 = 0 →
      let sp : Nat := bitsOf y.rec' 904 4
      let top : Nat := bitsOf y.rec' (480 + 32 * (sp - 1)) 32
      0 < sp → sp ≤ 8 → bitsOf y.rec' (936 + (sp - 1)) 1 = 0 → 0 < top % 32 → ∃ t q,
      exec (.lanternLoopStep c y.tag y.lane) s = .next t ∧ t = { s with cores := t.cores } ∧
      t.ray? c y.tag y.lane = some q ∧ q.cont = .visit (top / 2 ^ 8) (top % 32) (top / 32 % 8) ∧
      bitsOf q.rec' 904 4 = sp - 1) ∧
    (∀ (ref : StructRef) (npa : Nat), y.begun = true → y.state = .running → y.node = none → y.cont = .resolve false →
      x.cancel = false → y.poll = 0 → y.top = some ref → 0 < ref.nnode → s.coreSees c y.ctx ref.nodea npa →
      let raw : Nat := s.mem.nat npa 128
      bitsOf raw 992 32 % 2 = 0 → bitsOf raw 896 16 = ref.gen → nodeOk raw = true →
      bitsOf raw 888 8 &&& bitsOf y.rec' 944 8 ≠ 0 → ref.nodea % 128 = 0 → s.ahead = [] → ∃ t q,
      exec (.lanternParkPoll c y.tag y.lane) s = .next t ∧ t = { s with cores := t.cores } ∧
      t.ray? c y.tag y.lane = some q ∧ q = { y with poll := 512, part := [] }) ∧
    (x.eng = .lantern → x.phase = .started →
      (∀ q ∈ (s.core c).rays, q.tag = y.tag → q.begun = true ∧ q.state ≠ .running ∧ q.state ≠ .switched) →
      exec (.traversalCommandEnd c y.tag) s = .next (s.endCmd c y.tag (if x.cancel = true then 1 else 0)))

/-! ### Wickline -/

/-- Windows and flits: WINDOW counts boundaries once locked and never falls, a write that is due lands first; a flit is
sent in the current window under lock, a control flit without it, and none with more than 224 bytes of payload; a write
or SIGNAL that arrives in time is performed and acknowledged, a later line of a PUT that has been refused is not
performed; one does not arrive late, nor while WINDOW is two below that in which it was sent; one for another device is
passed on. The lamplighter: PUT, FWD and SIGNAL form their flits for the device's port and have begun; a record whose
flits have all been sent ends with the status of its acknowledgement, one that names this device or reserved bits with
status 8. Where no route leads, the record of a flit that was to be formed ends with status 21. The table of routes is
a free function, a flit's transit is not modelled, a write held behind another one lands before its window ends, SRC is
read when the record starts, line by line of DST, the turns of the classes at a port and what a flit carries are the
model's readings (notes/assumptions/27, 80, 122, 131, 149, 150 and 151). -/
def Obligations.WicklineFlits : Prop :=
  (∀ (s : State), s.memOk →
     (s.locked = true → s.mustLand 0 (s.window.toNat + 1) = [] → s.mustLand 1 (s.window.toNat + 1) = [] →
       exec .windowBoundary s = .next { s with window := s.window + 1 }) ∧
     (∀ (d : Fin 2) (a : Arrived) (k : ChainRef) (first : Bool) (va : BitVec 64) (bs : List Byte) (pa : Nat), s.locked = true →
       a.body = .write k first va bs → (s.die d).arrived = [a] → (∀ e, e ≠ d → (s.die e).arrived = []) → s.noAtoms →
       first = true ∨ (s.die d).cuts = [] →
       s.engineSees d k.ctx va.toNat pa → a.win + 2 ≤ s.window.toNat + 1 → ∃ t,
         exec .windowBoundary s = .next t ∧ s.mem.wrote t.mem pa bs ∧ t.window = s.window + 1 ∧
         (t.die d).arrived = [] ∧ t.g = s.g ∧ t.rest = s.rest ∧ t.recs = s.recs) ∧
     (s.locked = false → exec .windowBoundary s = .next s) ∧
     (∀ t : Nat,
       let n : Nat := if s.boot.wlu = 0 then 4000 else 250 * s.boot.wlu.toNat
       let w : Nat := max s.window.toNat (t / n)
       s.mustLand 0 w = [] → s.mustLand 1 w = [] →
       exec (.ptpLock t) s = .next { s with locked := true, lost := false, window := BitVec.ofNat 64 w }) ∧
     (s.locked = true → exec .ptpLockLoss s = .next { s with lost := true }) ∧
     (s.locked = false → exec .ptpLockLoss s = .next s) ∧
     (∀ (d : Fin 2) (f : Flit) (fs : List Flit), (s.die d).flits = f :: fs →
       let open' := s.locked = true ∧ s.lost = false ∧ (∀ x ∈ f :: fs, x.cls = 3 → x.port ≠ f.port) ∧
         (s.die d).turnFor f.port f.cls = true
       let y : Die := { (s.die d).spend f.port f.cls with flits := fs }
       (f.cls = 3 ∨ (s.die d).shared f.port = false → y = { s.die d with flits := fs }) ∧
       ((s.die d).shared f.port = false → (s.die d).turnFor f.port f.cls = true) ∧
       (f.body.payload ≤ 224 → f.cls = 3 ∧ s.lost = false ∨ open' →
         (s.down.contains (.wickline d f.port) = false → exec (.flitAdmit d 0) s =
           .next { s.setDie d y with sent := s.sent ++ [⟨d, s.window.toNat, s.sentOn d f.port, f⟩] }) ∧
         ∀ c, s.down.contains (.wickline d f.port) = true → f.chain = some c → ∃ t,
           exec (.flitAdmit d 0) s = .next t ∧ t.recs = (s.endRec c 21).recs ∧ t.g = s.g ∧ t.rest = s.rest ∧ t.mem = s.mem ∧
           t.sent = s.sent ∧ (∀ x ∈ (t.die c.die).flits, x.chain ≠ some c) ∧ ∀ x ∈ t.colls, x.chain ≠ some c) ∧
       (s.lost = true ∨ f.cls ≠ 3 ∧ s.locked = false ∨ 224 < f.body.payload → exec (.flitAdmit d 0) s = .next s)) ∧
     (∀ (d : Fin 2) (src dst : BitVec 12) (k : ChainRef) (first : Bool) (win va val : BitVec 64) (bs : List Byte) (wide : Bool)
       (pa : Nat),
       let x := s.die d
       let body : FlitBody := .write k first va bs
       let arrives (f : FlitBody) : Instr := .wicklineFlitArrival d ⟨src, dst⟩ win f
       let ack (st : Byte) : List Flit := match s.portTo d src with
         | some p => [⟨none, 2, s.boot.devnum, src, p, .ack st⟩]
         | none => []
       let acked (t : State) (st : Byte) : Prop := (t.die d).flits = x.flits ++ ack st ∧ t.g = s.g ∧ t.rest = s.rest ∧
         t.recs = s.recs
       let n := if wide then 8 else 4
       let old : Nat := s.mem.nat pa n
       let signal (op : Fin 3) (new : Nat) : Prop := ∃ t,
         exec (arrives (.signal k.ctx va op wide val)) s = .next t ∧ acked t 0 ∧ s.mem.wrote t.mem pa (leBytes n new)
       (∀ p, dst ≠ s.boot.devnum → s.portTo d dst = some p → exec (arrives body) s = .next { s with
         sent := s.sent ++ [⟨d, win.toNat, s.sentOn d p, ⟨none, 1, src, dst, p, body⟩⟩] }) ∧
       (dst = s.boot.devnum →
         (win.toNat + 2 ≤ s.window.toNat ∨ s.window.toNat + 1 < win.toNat → exec (arrives body) s = .next s) ∧
         (s.window.toNat < win.toNat + 2 → win.toNat ≤ s.window.toNat + 1 →
           (x.arrived.any (·.src == src) = true ∨ s.window.toNat < win.toNat → exec (arrives body) s = .next (s.setDie d { x with
             arrivals := x.arrivals + 1, arrived := x.arrived ++ [⟨x.arrivals, src, win.toNat, body⟩] })) ∧
           (x.arrived.any (·.src == src) = false → win.toNat ≤ s.window.toNat →
             (∀ st : Byte, first = false → x.cuts = [⟨src, k, st⟩] → ∃ t,
               exec (arrives body) s = .next t ∧ acked t st ∧ t.mem = s.mem) ∧
             (s.engineSees d k.ctx va.toNat pa → s.noAtoms → first = true ∨ x.cuts = [] →
               (∃ t, exec (arrives body) s = .next t ∧ acked t 0 ∧ s.mem.wrote t.mem pa bs) ∧
               signal 0 val.toNat ∧ signal 1 (old + val.toNat) ∧ signal 2 (max old (val.toNat % 2 ^ (8 * n))))))))) ∧
  (∀ (s : State) (c : ChainRef) (r : ChainRec), s.rec? c = some r → r.eng = 3 → r.status = none →
     let f (lo n : Nat) : Nat := bitsOf r.raw lo n
     let dev (lo : Nat) : BitVec 12 := BitVec.ofNat 12 (f lo 12)
     let sends (i : Instr) (d : BitVec 12) (b : FlitBody) : Prop := exec i s = .next (match s.portTo c.die d with
       | some p => State.modRec (s.setDie c.die
           { s.die c.die with flits := (s.die c.die).flits ++ [⟨some c, 1, s.boot.devnum, d, p, b⟩] }) c
             fun x => { x with begun := true, acc := [] }
       | none => s.endRec c 21)
     (∀ (st : Byte) (win : BitVec 64), r.kind ≤ 3 → r.begun = true → st.toNat ∈ [0, 3, 4, 5, 7, 21] →
       (∀ x ∈ (s.die c.die).flits, x.chain ≠ some c) →
       (win.toNat ≤ s.window.toNat + 1 → r.acc = [] → exec (.lamplighterAck c ⟨st, win⟩) s = .next (s.endRec c st)) ∧
       (s.window.toNat + 1 < win.toNat → exec (.lamplighterAck c ⟨st, win⟩) s = .next s)) ∧
     (r.begun = false →
       (∀ (pa : Nat), r.kind = 1 → f 292 220 = 0 → dev 280 ≠ s.boot.devnum →
         s.engineSees c.die c.ctx (f 128 64) pa → 0 < f 256 24 → f 128 64 % 4096 + f 256 24 ≤ 4096 →
         f 192 64 % 128 + f 256 24 ≤ 128 →
         sends (.put c) (dev 280) (.write c true (BitVec.ofNat 64 (f 192 64)) (s.mem.bytes pa (f 256 24)))) ∧
       (r.kind = 2 → f 140 52 = 0 → f 192 64 % 128 = 0 → dev 128 ≠ s.boot.devnum →
         sends (.fwd c) (dev 128) (.fwd c.ctx (BitVec.ofNat 64 (f 192 64)) (leBytes 32 (f 256 256)) s.boot.devnum
           (BitVec.ofNat 64 (r.idx + 1)))) ∧
       (∀ op : Fin 3, r.kind = 3 → f 140 52 = 0 → f 323 189 = 0 → f 320 2 = op.val →
         f 192 64 % (if f 322 1 = 1 then 8 else 4) = 0 → dev 128 ≠ s.boot.devnum →
         sends (.signal c) (dev 128) (.signal c.ctx (BitVec.ofNat 64 (f 192 64)) op (f 322 1 == 1)
           (BitVec.ofNat 64 (f 256 64)))) ∧
       (r.kind = 2 → dev 128 = s.boot.devnum → exec (.fwd c) s = .next (s.endRec c 8)) ∧
       (r.kind = 3 → dev 128 = s.boot.devnum → exec (.signal c) s = .next (s.endRec c 8))))

/-- Collectives of a device that has started its record: the last block of an ALLREDUCE of one member and a unit of an
ALLGATHER are written to DST, an abort of a member and the end of the time end the record with status 22 and 18; an
abort of a part that is over, or one heard before WINDOW allows it (R443), does nothing. What names a collective and a
part of it, and when one of a device ends, are the model's readings (notes/assumptions/79). -/
def Obligations.CollectiveSteps : Prop :=
  ∀ (s : State) (c : ChainRef) (r : ChainRec) (x : Coll), s.memOk → s.rec? c = some r → r.eng = 3 → r.status = none →
    r.begun = true → s.colls = [x] → x.chain = some c →
    let ended (i : Instr) (st : Byte) (P : State → Prop) : Prop := ∃ t, exec i s = .next t ∧ t.recs = (s.endRec c st).recs ∧
      t.colls = [] ∧ t.g = s.g ∧ t.rest = s.rest ∧ P t
    (∀ (part : CollPart) (win : BitVec 64),
      (win.toNat ≤ s.window.toNat + 1 → part ∉ s.overs → ended (.collectiveAbort ⟨x.gid, x.collid⟩ ⟨part, win⟩) 22 fun t =>
        t.mem = s.mem ∧ part ∈ t.overs) ∧
      (s.window.toNat + 1 < win.toNat ∨ part ∈ s.overs → exec (.collectiveAbort ⟨x.gid, x.collid⟩ ⟨part, win⟩) s = .next s)) ∧
    (∀ tmo : Nat, tmo ≠ 0 → (r.kind = 0x10 ∧ tmo = bitsOf r.raw 385 32 ∨ r.kind = 0x11 ∧ tmo = bitsOf r.raw 384 32) →
      (1024 * tmo ≤ r.since → ended (.collectiveTimeout c) 18 fun t => t.mem = s.mem) ∧
      (r.since < 1024 * tmo → exec (.collectiveTimeout c) s = .next s)) ∧
    (∀ (own : BitVec 12) (p : Plan) (ms : List Int) (w : BitVec 20) (pa : Nat), r.kind = 0x10 → r.stage = 2 → r.next = 0 →
      x.rank = 0 → x.devs = [own] → x.plans = [p] → p.part.dev = own → p.n = 1 → p.devs = [own] → x.mants = [(0, 0, ms)] →
      x.scales = [(0, 0, w)] →
      bitsOf r.raw 320 32 = 32 → bitsOf r.raw 256 64 % 128 = 0 → s.engineSees c.die c.ctx (bitsOf r.raw 256 64) pa →
      ended (.allreduce c) 0 fun t => s.mem.wrote t.mem pa (x.block 0)) ∧
    (∀ (rank off : Nat) (bs : List Byte) (rest : List (Nat × Nat × List Byte)) (pa : Nat),
      r.kind = 0x11 → r.stage = 1 → x.agreed = some true → x.shares = (rank, off, bs) :: rest →
      let n : Nat := bitsOf r.raw 320 32
      let va : Nat := bitsOf r.raw 256 64 + 32 * r.next
      0 < n → n % 32 = 0 → rank = r.next / (n / 32) → off = 32 * (r.next % (n / 32)) →
      bs.length = 32 → va % 128 = 96 → s.engineSees c.die c.ctx va pa → r.next + 1 < n / 32 * x.devs.length → ∃ t,
        exec (.allgather c) s = .next t ∧ s.mem.wrote t.mem pa bs ∧ t.colls = [x] ∧
        t.recs = (s.modRec c fun y => { y with next := r.next + 1 }).recs ∧ t.g = s.g)

/-! ### The host and the management controllers -/

/-- Accesses from outside: the host's and a peer's writes change exactly their bytes, a host read gives what the home
slice holds, but for a release at .sys that stands ahead of what it publishes, for which it waits (R213;
notes/assumptions/118), a peer's read what GDDR7 holds behind a dirty line, a snoop takes a dirty host line back. The register
window: each register takes the values of R416, ignores others, NSTAT is cleared by ones, NMASK keeps its low half,
and an interrupt is sent while an enabled bit is set; a write to PGANS is the pager's answer, one to HCMD queues the record as it stands. The context that
such a write is charged to, and how often an interrupt message is sent, are the model's choices (notes/assumptions/28
and 17); what the host and a peer write is an argument of the step (notes/assumptions/102). -/
def Obligations.HostAccesses : Prop :=
  (∀ (s : State) (pa n : Nat) (bs : List Byte), s.memOk →
     (bs ≠ [] → s.row pa ≠ .nothing → s.row (pa + bs.length - 1) ≠ .nothing →
       (∃ t, exec (.hostWrite pa bs) s = .next t ∧ s.mem.wrote t.mem pa bs ∧
         t = { s with mem := t.mem, gddr := t.gddr, dirty := t.dirty, poison := t.poison }) ∧
       (s.inDevice pa = true → ∃ t, exec (.peerWindowWrite pa bs) s = .next t ∧ s.mem.wrote t.mem pa bs ∧
         t = { s with mem := t.mem, gddr := t.gddr, dirty := t.dirty, poison := t.poison })) ∧
     (s.inDevice pa = false → exec (.peerWindowWrite pa bs) s = .next s) ∧
     (n ≠ 0 → s.row pa ≠ .nothing → s.aheadHost pa n = false → exec (.hostRead pa n) s =
       .next { s with answer := some ⟨(List.range n).map fun i => s.mem.read (pa + i), s.poisoned pa n⟩ }) ∧
     (n ≠ 0 → s.inDevice pa = true → exec (.peerWindowRead pa n) s =
       .next { s with answer := some ⟨(List.range n).map fun i =>
         if s.dirty.any (·.1 == (pa + i) / 128) then s.gddr.read (pa + i) else s.mem.read (pa + i), s.poisoned pa n⟩ }) ∧
     (s.aheadHost pa n = true → exec (.hostRead pa n) s = .next s) ∧
     (s.row (n * 128) = .host → s.dirty.any (·.1 == n) = true → s.aheadHost (n * 128) 128 = false → ∃ t,
       exec (.hostSnoop n) s = .next t ∧
       t = { s with dirty := t.dirty, gddr := t.gddr, answer := t.answer } ∧ (∀ d, d ∈ t.dirty ↔ d ∈ s.dirty ∧ d.1 ≠ n) ∧
       t.answer = some ⟨s.mem.bytes (n * 128) 128, s.poisoned (n * 128) 128⟩)) ∧
  (∀ (s : State) (d : Fin 2) (v : BitVec 64),
     let x := s.die d
     let fits (al : Nat) : Prop := v.toNat % al = 0 ∧ v.toNat < 2 ^ 52
     let sent (y : Die) : Die := { y with irqs := if y.nstat &&& y.nmask = 0 then y.irqs else y.irqs + 1 }
     let becomes (i : Instr) (y : Die) : Prop := exec i s = .next (s.setDie d y)
     let two (off : BitVec 12) (i : Instr) (y : Die) : Prop := becomes i y ∧ becomes (.registerWrite d off v) y
     (fits 4096 → two 0x010 (.pgraWrite d v) (sent { x with pgra := v, pgfail := false }) ∧
       becomes (.registerWrite d 0x008 v) { x with ctxta := v }) ∧
     (¬ fits 4096 → ∀ i ∈ [Instr.pgraWrite d v, .registerWrite d 0x008 v, .registerWrite d 0x010 v], exec i s = .next s) ∧
     (v = 0 ∨ 6 ≤ v.toNat ∧ v.toNat ≤ 16 → two 0x018 (.pgrsWrite d v) (sent { x with pgrs := v, pgfail := false })) ∧
     (v ≠ 0 → v.toNat < 6 ∨ 16 < v.toNat → exec (.pgrsWrite d v) s = .next s) ∧
     two 0x040 (.nstatClear d v) (sent { x with nstat := x.nstat &&& ~~~v }) ∧
     two 0x048 (.nmaskWrite d v) (sent { x with nmask := BitVec.ofNat 64 (v.toNat % 2 ^ 32) }) ∧
     becomes (.registerWrite d 0x020 v) { x with pgrd := v } ∧
     (fits 64 → s.row v.toNat ≠ .nothing → s.poison = [] → becomes (.registerWrite d 0x038 v)
       { x with hcmds := x.hcmds ++ [⟨v.toNat, some (s.mem.nat v.toNat 64), x.clock, false⟩] }) ∧
     exec (.registerWrite d 0x030 v) s = exec (if v.getLsbD 11 then .pagerDecline d v else .pagerRetry d v) s ∧
     ∀ off ∈ [(0x000 : BitVec 12), 0x028, 0x050], exec (.registerWrite d off v) s = .next s)

/-- Host commands on memory and chains: TLBINV and CTXINV leave no earlier translation of the range or context cached
(what CTXINV's reading of the seal table has found again may stand), CHRESET and CHSTATE rewrite the control block; an
unknown command is refused with status 2. Each completes with its status; where the record's line has been poisoned
meanwhile, NSTAT alone tells it (notes/assumptions/148). That CHRESET rewrites the block at once,
also with a record in progress, is the model's reading (notes/assumptions/70). -/
def Obligations.HostCommands : Prop :=
  ∀ (s : State) (d : Fin 2) (x : HostCmd) (rest : List HostCmd) (rec' : BitVec 64) (raw : Nat), s.memOk →
    (s.die d).hcmds = x :: rest → x.addr = rec'.toNat →
    let f (lo n : Nat) : Nat := bitsOf raw lo n
    let ctx : BitVec 12 := BitVec.ofNat 12 (f 20 12)
    let done (i : Instr) (st : Byte) (P : State → Prop) : Prop :=
      ∃ u : State, exec i s = .next (u.endCmdRec d x.addr st) ∧ (u.die d).hcmds = x :: rest ∧ u.g = s.g ∧ u.rest = s.rest ∧ P u
    let idle : Prop := (∀ (c : CoreRef), ∀ e ∈ (s.core c).path, e.ctx ≠ ctx) ∧
      (∀ d, ∀ q ∈ (s.die d).atom, q.ctx ≠ ctx) ∧ ∀ r ∈ s.recs, r.c.ctx = ctx → r.writes = []
    (x.raw = none → ∃ t, exec (.hcmdRefused d rec') s = .next t ∧ (t.die d).hcmds = rest ∧
      (t.die d).nstat = (s.die d).nstat ||| 0x18 ∧ t.mem = s.mem ∧ t.g = s.g) ∧
    (x.raw = some raw →
      (f 0 8 = 0 ∨ 7 < f 0 8 → exec (.hcmdRefused d rec') s = .next (s.endCmdRec d x.addr 2)) ∧
      (s.row x.addr ≠ .nothing → s.row (x.addr + 1) ≠ .nothing → ∀ st, ∃ t, s.endCmdRec d x.addr st = t ∧
        (t.die d).hcmds = rest ∧ t.g = s.g ∧ t.rest = s.rest ∧
        (s.poisoned x.addr 64 = false → s.mem.wrote t.mem (x.addr + 1) [st] ∧ (t.die d).nstat = (s.die d).nstat ||| 8) ∧
        (s.poisoned x.addr 64 = true → t.mem = s.mem ∧ (t.die d).nstat = (s.die d).nstat ||| 0x18)) ∧
      (f 256 256 = 0 → f 16 4 = 0 →
        (let lo := f 64 64
         let n := 4096 * f 128 64
         let gone (e : TlbEntry) : Prop := e.ctx = ctx ∧ e.va < lo + n ∧ lo < e.va + 2 ^ pageShift e.sz
         f 0 8 = 4 → lo % 4096 = 0 → 0 < n → idle → done (.tlbinv d rec') 1 fun (u : State) => u.mem = s.mem ∧
          (∀ c e, (e ∈ (u.core c).dtlb ↔ e ∈ (s.core c).dtlb ∧ ¬ gone e) ∧ (e ∈ (u.core c).itlb ↔ e ∈ (s.core c).itlb ∧ ¬ gone e)
            ∧ (e ∈ (u.core c).tlb2 ↔ e ∈ (s.core c).tlb2 ∧ ¬ gone e)) ∧
          ∀ k e, e ∈ (u.die k).etlb ↔ e ∈ (s.die k).etlb ∧ ¬ gone e) ∧
        (f 0 8 = 5 → idle → (∀ k, (s.die k).walks.length < 128) → done (.ctxinv d rec') 1 fun (u : State) => u.mem = s.mem ∧
          (∀ c e, e ∈ (u.core c).dtlb ∨ e ∈ (u.core c).itlb ∨ e ∈ (u.core c).tlb2 → e.ctx ≠ ctx) ∧
          ∀ k, (∀ e ∈ (u.die k).etlb, e.ctx = ctx → ∃ va, u.walk (u.desc k ctx) va = .found e) ∧
            ∀ w ∈ (u.die k).walks, w.ctx ≠ ctx) ∧
        (∀ cpa, f 128 64 < 4096 →
          let ch : BitVec 12 := BitVec.ofNat 12 (f 128 64)
          s.engineSees d ctx (s.ccbVa d ctx ch) cpa → cpa % 128 = 0 →
          (f 0 8 = 6 → done (.chreset d rec') 1 fun (u : State) =>
            (∀ a, u.mem.read a = if cpa + 16 ≤ a ∧ a < cpa + 40 then
                (leBytes 8 (f 192 64) ++ leBytes 8 (f 192 64) ++ leBytes 8 0).getD (a - (cpa + 16)) 0
              else if a = cpa + 4 then 1 else if a = cpa + 5 then 0 else s.mem.read a) ∧
            u.failed.contains (ctx, ch) = false ∧ u.unserved.contains (ctx, ch) = false) ∧
          (f 0 8 = 7 → f 192 64 ≤ 1 → (∀ q ∈ s.recs, ¬ (q.c.ctx = ctx ∧ q.c.ch = ch)) →
            (∀ q ∈ s.halts, ¬ (q.1.ctx = ctx ∧ q.1.ch = ch)) → done (.chstate d rec') 1 fun (u : State) =>
            s.mem.wrote u.mem (cpa + 4) [BitVec.ofNat 8 (f 192 64), 0] ∧
            u.unserved.contains (ctx, ch) = false))))

/-- Kills and preemption: a kill ends every group of its launch, or of its context's launches, whose fault slots it
frees; PREEMPT stops Placed and Waiting groups at once, the deadline stops the others, the save writes the area with
DONE last, and RESTORE of an area without groups lets the launch run again. What the device keeps beside the area,
that SVA is a physical address, and how a group that sleeps, parks or leaves stops, are the model's
(notes/assumptions/40, 41, 42 and 114). -/
def Obligations.KillsAndPreemption : Prop :=
  ∀ (s : State) (d : Fin 2) (x : HostCmd) (rest : List HostCmd) (rec' : BitVec 64) (raw : Nat) (l : Launch), s.memOk →
    (s.launches.map (·.key)).Nodup → s.launch? l.key = some l → l.kept = none →
    let f (lo n : Nat) : Nat := bitsOf raw lo n
    let ctx : BitVec 12 := BitVec.ofNat 12 (f 20 12)
    let lid : Word := BitVec.ofNat 32 (f 32 32)
    let held (m : Launch) : Prop := m.phase = .running ∨ m.phase = .saved
    let killed (g : Group) : Group := if g.active then
      { g with run := .aborted, fifo := [], log := [], fences := [], cflush := none, deferred := [], spawnq := [] } else g
    ((s.die d).hcmds = x :: rest → x.addr = rec'.toNat → x.raw = some raw → f 256 256 = 0 → f 16 4 = 0 →
      (f 0 8 = 1 → f 128 64 = 0 → s.launches.find? (fun m => m.ctx == ctx && m.record.lid == lid && m.held) = some l → ∃ u : State,
        exec (.killLaunch d rec') s = .next (u.endCmdRec d x.addr 1) ∧
        u.groups = s.groups.map (fun g => if g.launch = l.key then killed g else g) ∧
        ∀ t ∈ u.teams, t ∈ s.teams ∧ t.launch ≠ l.key) ∧
      (f 0 8 = 1 → f 128 64 = 0 → s.launches.find? (fun m => m.ctx == ctx && m.record.lid == lid && m.held) = none →
        exec (.killLaunch d rec') s = .next (s.endCmdRec d x.addr 3)) ∧
      (f 0 8 = 1 → f 128 64 = 1 → x.begun = false → s.recs = [] → (∀ h ∈ s.halts, h.1.ctx ≠ ctx) →
        (∀ m ∈ s.launches, m.kept = none) → ∃ u : State,
        exec (.killContext d rec') s = .next (u.endCmdRec d x.addr 1) ∧
        u.groups = s.groups.map (fun g =>
          if s.launches.any (fun m => m.ctx == ctx && m.held && m.key == g.launch) then killed g else g) ∧
        ∀ k, (∀ sl ∈ (u.die k).slots, sl.ctx ≠ ctx) ∧ ∀ w ∈ (u.die k).walks, w.ctx ≠ ctx) ∧
      (f 0 8 = 2 → f 64 64 % 4096 = 0 → 1024 ≤ f 128 64 → f 128 64 < 2 ^ 32 → l.phase = .running → l.pre = none →
        s.row (f 64 64) ≠ .nothing → l.ctx = ctx → l.record.lid = lid →
        (∀ m ∈ s.launches, m.key ≠ l.key → ¬ (m.ctx = ctx ∧ m.record.lid = lid)) → ∃ t l',
        exec (.preempt d rec') s = .next t ∧ t.launch? l.key = some l' ∧
        (∃ bs, l'.pre = some ⟨d, x.addr, f 64 64, f 128 64, 0, false, bs⟩) ∧ l'.phase = .running ∧
        t.groups = s.groups.map (fun g => if g.launch = l.key then match g.run with
          | .placed => g.suspend 3 none
          | .waiting _ w => g.suspend 4 (some w)
          | _ => g else g)) ∧
      (∀ (ctx' : BitVec 12) (total : Nat), f 0 8 = 3 → f 64 64 % 4096 = 0 →
        let sva := f 64 64
        let m : Nat := s.mem.nat sva total
        total = s.mem.nat (sva + 72) 8 → 256 ≤ total → s.holdsRange sva 256 = true → s.holdsRange sva total = true →
        s.poison = [] → bitsOf m 0 8 = 1 → ctx' = BitVec.ofNat 12 (bitsOf m 340 12) → (s.desc d ctx').valid = true →
        ∀ l : Launch, s.launches.find? (fun q => q.ctx == ctx' && q.record.lid == BitVec.ofNat 32 (bitsOf m 352 32)
          && q.phase == .saved) = some l → l.kept = some ⟨[], [], [], [], []⟩ → areaOk m ⟨[], [], [], [], []⟩ [] = true →
        ∃ (u : State) (l' : Launch), exec (.restore d rec') s = .next (u.endCmdRec d x.addr 1) ∧
          u.launch? l.key = some l' ∧ l'.phase = .running ∧ l'.kept = none ∧ u.mem = s.mem ∧ u.groups = s.groups)) ∧
    ∀ p : Preempt, l.pre = some p →
      (p.forced = false → p.dl ≤ p.since → ∃ t l', exec (.preemptDeadline l.key) s = .next t ∧
        t.launch? l.key = some l' ∧ l'.pre = some { p with forced := true } ∧ t.mem = s.mem ∧
        t.groups = s.groups.map (fun g => if g.launch = l.key then match g.run with
          | .ready => if g.spawnq = [] then g.suspend 2 none else g
          | .exiting => g.suspend 2 none
          | .parked (.sleep q n _) =>
            g.suspend 2 (some (.sleep (min ((q.map fun k => (g.readS k).toNat).getD n) (2 ^ 24 - 1))))
          | .parked _ => g.suspend 2 none
          | _ => g else g)) ∧
      (p.since < p.dl → exec (.preemptDeadline l.key) s = .next s) ∧
      (held l → l.record.coop = false → l.lrec < 2 ^ 64 → (∀ t ∈ s.teams, t.launch ≠ l.key) → (∀ m ∈ s.launches, ∀ k, m.spill.get k = (0, 0)) →
        (∀ k, (s.die k).bins = [] ∧ (s.die k).formed = []) → (∀ g ∈ s.groups, g.launch = l.key → g.active = false) →
        p.bins = [] → s.holdsRange p.sva 256 = true → ∃ (u : State) (l' : Launch), exec (.contextSave l.key) s = .next (u.endCmdRec p.die p.addr 1) ∧
          u.launch? l.key = some l' ∧ l'.phase = .saved ∧ l'.pre = none ∧ u.mem.read p.sva = 1 ∧
          u.mem.nat (p.sva + 72) 8 = 256 ∧ u.mem.nat (p.sva + 80) 8 = (s.clock 0).toNat ∧ (∀ g ∈ u.rest, g ∈ s.rest ∧ g.launch ≠ l.key) ∧
          ∀ a, a < p.sva ∨ p.sva + 256 ≤ a → u.mem.read a = s.mem.read a)

/-- Power, heat, clock gating, boot and attestation: a mean above PLIM and a reading of 95 degrees lower the clock by
a step, above 105 degrees the dies are held once no launch is left to end; an idle core is gated and wakes for a Ready or
Placed group; a reset leaves device memory zero and host memory as it was, each die reads its image and BOOTCFG from host
memory, and one whose image's signature does not verify, whose BOOTCFG fails its check or differs from the other's in
DEVNUM or IPART stays held; a report carries its hashes, nonce and counts. How a mean is formed before 10 ms have passed is
the model's choice; the check of a signature, signatures and versions are free values, and where the sconce die has a
controller read is an argument of the step (notes/assumptions/45, 46 and 47). -/
def Obligations.Management : Prop :=
  ∀ (s : State), s.memOk →
    let low : Nat := min s.plat.power.val (min (s.plat.heat.get 0).val (s.plat.heat.get 1).val)
    (∀ n : Nat, s.plat.watts = [] → 1000 * s.boot.plim.toNat < n → 0 < low →
      exec (.powerSample n) s = .next { s with plat := { s.plat with
        watts := [n], calm := 0, power := Fin.ofNat 27 (low - 1) } }) ∧
    (∀ (d : Fin 2) (n : Nat), 9500 ≤ n → n ≤ 10500 → 0 < (s.plat.heat.get d).val → s.plat.trip = false → ∃ t,
      exec (.thermalStep d n) s = .next t ∧ t = { s with plat := t.plat } ∧
      (t.plat.heat.get d).val = (s.plat.heat.get d).val - 1 ∧ t.plat.heat.get (otherDie d) = s.plat.heat.get (otherDie d) ∧
      t.plat.hottest.get d = n ∧ t.plat.hold = s.plat.hold) ∧
    (∀ (d : Fin 2) (n : Nat), 10500 < n → s.inReset = false → (∀ l ∈ s.launches, ∃ st, l.phase = .ended st) → ∃ t,
      exec (.thermalStep d n) s = .next t ∧
      (∀ e, t.plat.hold.get e = some .heat) ∧ t.mem = s.mem ∧ t.plat.hottest.get d = n) ∧
    (∀ c : CoreRef, 1024 ≤ (s.core c).idle → s.coreIdle c = true → ∃ t, exec (.coreClockGate c) s = .next t ∧
      t = { s with cores := t.cores } ∧ t.core c = { s.core c with gated := true }) ∧
    (∀ c : CoreRef, (s.core c).idle < 1024 → exec (.coreClockGate c) s = .next s) ∧
    (∀ c : CoreRef, (s.core c).gated = true → (∃ g ∈ s.groups, g.coreRef = c ∧ (g.run = .ready ∨ g.run = .placed)) → ∃ t,
      exec (.coreWake c) s = .next t ∧ t = { s with cores := t.cores } ∧
      t.core c = { s.core c with gated := false, idle := 0 }) ∧
    (∀ (image0 image1 : ImageSrc) (cfgs : Vector Nat 2), (∀ d, s.plat.hold.get d ≠ some .heat) → s.dirty = [] →
      let host (a : Nat) : Byte := if 2 ^ 51 ≤ a ∧ a < 2 ^ 52 then s.mem.read a else 0
      let src (d : Fin 2) : ImageSrc := if d = 0 then image0 else image1
      let image (d : Fin 2) : List Byte := (List.range (src d).len).map fun i => host ((src d).addr + i)
      let cfg (d : Fin 2) : BootCfg := bootCfg (leNat ((List.range 16).map fun i => host (cfgs.get d + i)))
      let same : Prop := (cfg 0).devnum = (cfg 1).devnum ∧ (cfg 0).ipart = (cfg 1).ipart
      let ok (d : Fin 2) : Prop := Config.imageSigned d (image d) = true ∧ bootOk (cfg d) = true ∧ same
      ∃ t, exec (.moduleReset image0 image1 cfgs) s = .next t ∧ (∀ a, t.mem.read a = host a) ∧
        t.gddr = [] ∧ t.launches = [] ∧ t.rest = [] ∧ t.g.active = false ∧ (∀ c, t.core c = Core.reset) ∧
        (∀ d, t.die d = Die.reset) ∧ t.window = 0 ∧ t.plat.bootn = s.plat.bootn + 1 ∧
        ∀ d, (ok d → t.plat.hold.get d = none ∧ t.boots.get d = cfg d ∧ t.plat.images.get d = image d) ∧
          (Config.imageSigned d (image d) = false → t.plat.hold.get d = some .signature ∧ d ∈ t.plat.refused) ∧
          (Config.imageSigned d (image d) = true → bootOk (cfg d) = false ∨ ¬ same → t.plat.hold.get d = some .config)) ∧
    ∀ (d : Fin 2) (nonce : BitVec 384), ∃ sig : List Byte, sig.length = 96 ∧
      exec (.attestationRequest d nonce) s = .next { s with
        answer := some ⟨leBytes 48 (Config.sha384 (s.plat.images.get d)).toNat ++
          leBytes 48 (Config.sha384 (BootCfg.bytes (s.boots.get d))).toNat ++ leBytes 48 nonce.toNat ++
          leBytes 16 (s.boot.devnum.toNat * 2 ^ 12 + d.val * 2 ^ 24 + (Config.romVersion d).toNat * 2 ^ 32
            + s.plat.bootn.toNat * 2 ^ 64) ++ sig, false⟩
        plat := { s.plat with signed := s.plat.signed + 1 } }

/-! ### Words, reset and memory -/

/-- After reset (R416, R451): no group is placed and no launch held, CLOCK is 0 on both dies, every cache and TLB is
empty, memory reads zero with nothing poisoned, the register window reads its reset values, and with nothing planned a
step is a cycle in which nothing else happens. IPART 0 in DINFO is the model's (notes/assumptions/51), and so is zero
beyond device memory (notes/assumptions/2). -/
def Obligations.ResetState : Prop :=
  let s := State.reset
  s.g.active = false ∧ s.rest = [] ∧ s.launches = [] ∧ (∀ d, s.clock d = 0) ∧
  (∀ c, (s.core c).l1 = [] ∧ (s.core c).ro = [] ∧ (s.core c).itlb = [] ∧ (s.core c).dtlb = [] ∧ (s.core c).tlb2 = []) ∧
  (∀ d, (s.die d).etlb = []) ∧ (∀ a, s.mem.read a = 0) ∧ s.dirty = [] ∧ s.poison = [] ∧
  (∀ d, s.regRead d 0x000 = BitVec.ofNat 64 (d.val + 2 ^ 15) ∧ s.regRead d 0x008 = 0 ∧ s.regRead d 0x010 = 0 ∧
    s.regRead d 0x018 = 0 ∧ s.regRead d 0x020 = 0 ∧ s.regRead d 0x028 = 0 ∧ s.regRead d 0x040 = 0 ∧
    s.regRead d 0x048 = 0) ∧
  s.window = 0 ∧ ∃ t, step s = .next t ∧ (∀ d, t.clock d = 1) ∧ t.mem = [] ∧ t.g = s.g ∧ t.launches = []

/-- Words written out in the spec decode to the instructions that it says they are: the examples of chapters 2, 3, 6,
7, 12 and 16, and two words that chapter 2 rejects. -/
def Obligations.SpecWordsDecode : Prop :=
  let c : Ctl := ⟨false, false, .l64, 0⟩
  let d (w : BitVec 64) : Dec Instr := decode 128 w 0
  d 0x000003661E240010 = .ok (.sadd ⟨⟨true, false, .l64, 0⟩, .al, .s64, false, 9, .s 7, .small 1⟩) ∧
  d 0x0000000307080B00 = .ok (.mand ⟨c, .al, false, .k 2, .k 1⟩) ∧
  d 0x60200C08041C18C0 = .ok (.vfma ⟨c, ⟨0, false⟩, .f32, .rdn, 7, .v 1, .v 2, .v 3⟩) ∧
  d 0x300B67622A0C2B00 = .ok (.atoms ⟨c, .al, .add, .n32, .grp, .relaxed, some 3, 10, .small 0, .small 1⟩) ∧
  d 0x0030000000003A80 = .ok (.bar ⟨c, .al, .sync, 3, none⟩) ∧
  d 0x4003722E2B343000 = .ok (.mma ⟨c, .al, 2, none, false, 5, some (.s 10), some (.s 11), some (.small 4)⟩) ∧
  d 0x000003661E240014 = .error .badVersion ∧ d 0x000003661E27C000 = .error .reservedValue

/-- Every word that no field check refuses decodes to itself: for every instruction that has a word, with its fields
in their ranges, the decoder reads back from the encoder's word every field of it. -/
def Obligations.EncodedWordsDecode : Prop :=
  ∀ (i : Instr) (vl : Nat), i.isWord = true → i.wf vl = true →
    decode vl ((encode i).extractLsb' 0 64) ((encode i).extractLsb' 64 64) = .ok i

/-- The same for the words of classes 0 and 1. -/
def Obligations.ScalarWordsDecode : Prop :=
  ∀ (i : Instr) (vl : Nat), i.isWord = true → i.wf vl = true → i.word.toNat % 4 ≠ 3 → i.word.toNat / 2 ^ 11 % 8 ≤ 1 →
    decode vl ((encode i).extractLsb' 0 64) ((encode i).extractLsb' 64 64) = .ok i

/-- The decoder accepts nothing else: what it reads has its fields in their ranges, and, but for a skip code, whose
upper bits say nothing, its word is the one that was read. -/
def Obligations.DecodedWordsEncode : Prop :=
  ∀ (w hi : BitVec 64) (vl : Nat) (i : Instr), vl ∈ [32, 64, 96, 128] → decode vl w hi = .ok i →
    i.isWord = true ∧ i.wf vl = true ∧ ((∀ c, i ≠ .skipCode c) → i.word = w)

/-- Memory at the point of coherence and what GDDR7 holds behind it stay in their canonical form. -/
def Obligations.StepsKeepMemory : Prop :=
  ∀ s t : State, s.memOk → step s = .next t → t.memOk

/-- After reset memory is in its canonical form. -/
def Obligations.ResetMemory : Prop := State.reset.memOk
end

