-- ==== Sys2Proof/Laws/State.lean ====
section
/-! SUPPORT. What each named update of the state leaves in each field: one lemma per field and update, so that no proof
unfolds a record update. -/

namespace Sys2Proof.Machine

/-! ### One core -/

@[simp] theorem State.setCore_g (x : State) (c : CoreRef) (y : Core) : (x.setCore c y).g = x.g := rfl
@[simp] theorem State.setCore_rest (x : State) (c : CoreRef) (y : Core) : (x.setCore c y).rest = x.rest := rfl
@[simp] theorem State.setCore_agenda (x : State) (c : CoreRef) (y : Core) : (x.setCore c y).agenda = x.agenda := rfl
@[simp] theorem State.setCore_cores (x : State) (c : CoreRef) (y : Core) : (x.setCore c y).cores = x.cores.set c.die ((x.cores.get c.die).set c.core y) := rfl
@[simp] theorem State.setCore_dies (x : State) (c : CoreRef) (y : Core) : (x.setCore c y).dies = x.dies := rfl
@[simp] theorem State.setCore_teams (x : State) (c : CoreRef) (y : Core) : (x.setCore c y).teams = x.teams := rfl
@[simp] theorem State.setCore_bars (x : State) (c : CoreRef) (y : Core) : (x.setCore c y).bars = x.bars := rfl
@[simp] theorem State.setCore_launches (x : State) (c : CoreRef) (y : Core) : (x.setCore c y).launches = x.launches := rfl
@[simp] theorem State.setCore_mem (x : State) (c : CoreRef) (y : Core) : (x.setCore c y).mem = x.mem := rfl
@[simp] theorem State.setCore_gddr (x : State) (c : CoreRef) (y : Core) : (x.setCore c y).gddr = x.gddr := rfl
@[simp] theorem State.setCore_dirty (x : State) (c : CoreRef) (y : Core) : (x.setCore c y).dirty = x.dirty := rfl
@[simp] theorem State.setCore_poison (x : State) (c : CoreRef) (y : Core) : (x.setCore c y).poison = x.poison := rfl
@[simp] theorem State.setCore_ahead (x : State) (c : CoreRef) (y : Core) : (x.setCore c y).ahead = x.ahead := rfl
@[simp] theorem State.setCore_errs (x : State) (c : CoreRef) (y : Core) : (x.setCore c y).errs = x.errs := rfl
@[simp] theorem State.setCore_down (x : State) (c : CoreRef) (y : Core) : (x.setCore c y).down = x.down := rfl
@[simp] theorem State.setCore_boots (x : State) (c : CoreRef) (y : Core) : (x.setCore c y).boots = x.boots := rfl
@[simp] theorem State.setCore_plat (x : State) (c : CoreRef) (y : Core) : (x.setCore c y).plat = x.plat := rfl
@[simp] theorem State.setCore_window (x : State) (c : CoreRef) (y : Core) : (x.setCore c y).window = x.window := rfl
@[simp] theorem State.setCore_locked (x : State) (c : CoreRef) (y : Core) : (x.setCore c y).locked = x.locked := rfl
@[simp] theorem State.setCore_lost (x : State) (c : CoreRef) (y : Core) : (x.setCore c y).lost = x.lost := rfl
@[simp] theorem State.setCore_recs (x : State) (c : CoreRef) (y : Core) : (x.setCore c y).recs = x.recs := rfl
@[simp] theorem State.setCore_unserved (x : State) (c : CoreRef) (y : Core) : (x.setCore c y).unserved = x.unserved := rfl
@[simp] theorem State.setCore_halts (x : State) (c : CoreRef) (y : Core) : (x.setCore c y).halts = x.halts := rfl
@[simp] theorem State.setCore_failed (x : State) (c : CoreRef) (y : Core) : (x.setCore c y).failed = x.failed := rfl
@[simp] theorem State.setCore_sent (x : State) (c : CoreRef) (y : Core) : (x.setCore c y).sent = x.sent := rfl
@[simp] theorem State.setCore_colls (x : State) (c : CoreRef) (y : Core) : (x.setCore c y).colls = x.colls := rfl
@[simp] theorem State.setCore_overs (x : State) (c : CoreRef) (y : Core) : (x.setCore c y).overs = x.overs := rfl
@[simp] theorem State.setCore_answer (x : State) (c : CoreRef) (y : Core) : (x.setCore c y).answer = x.answer := rfl
@[simp] theorem State.setCore_key (x : State) (c : CoreRef) (y : Core) : (x.setCore c y).key = x.key := rfl

/-! ### One core, by a function -/

@[simp] theorem State.modCore_g (x : State) (c : CoreRef) (f : Core → Core) : (x.modCore c f).g = x.g := rfl
@[simp] theorem State.modCore_rest (x : State) (c : CoreRef) (f : Core → Core) : (x.modCore c f).rest = x.rest := rfl
@[simp] theorem State.modCore_agenda (x : State) (c : CoreRef) (f : Core → Core) : (x.modCore c f).agenda = x.agenda := rfl
@[simp] theorem State.modCore_cores (x : State) (c : CoreRef) (f : Core → Core) : (x.modCore c f).cores = x.cores.set c.die ((x.cores.get c.die).set c.core (f (x.core c))) := rfl
@[simp] theorem State.modCore_dies (x : State) (c : CoreRef) (f : Core → Core) : (x.modCore c f).dies = x.dies := rfl
@[simp] theorem State.modCore_teams (x : State) (c : CoreRef) (f : Core → Core) : (x.modCore c f).teams = x.teams := rfl
@[simp] theorem State.modCore_bars (x : State) (c : CoreRef) (f : Core → Core) : (x.modCore c f).bars = x.bars := rfl
@[simp] theorem State.modCore_launches (x : State) (c : CoreRef) (f : Core → Core) : (x.modCore c f).launches = x.launches := rfl
@[simp] theorem State.modCore_mem (x : State) (c : CoreRef) (f : Core → Core) : (x.modCore c f).mem = x.mem := rfl
@[simp] theorem State.modCore_gddr (x : State) (c : CoreRef) (f : Core → Core) : (x.modCore c f).gddr = x.gddr := rfl
@[simp] theorem State.modCore_dirty (x : State) (c : CoreRef) (f : Core → Core) : (x.modCore c f).dirty = x.dirty := rfl
@[simp] theorem State.modCore_poison (x : State) (c : CoreRef) (f : Core → Core) : (x.modCore c f).poison = x.poison := rfl
@[simp] theorem State.modCore_ahead (x : State) (c : CoreRef) (f : Core → Core) : (x.modCore c f).ahead = x.ahead := rfl
@[simp] theorem State.modCore_errs (x : State) (c : CoreRef) (f : Core → Core) : (x.modCore c f).errs = x.errs := rfl
@[simp] theorem State.modCore_down (x : State) (c : CoreRef) (f : Core → Core) : (x.modCore c f).down = x.down := rfl
@[simp] theorem State.modCore_boots (x : State) (c : CoreRef) (f : Core → Core) : (x.modCore c f).boots = x.boots := rfl
@[simp] theorem State.modCore_plat (x : State) (c : CoreRef) (f : Core → Core) : (x.modCore c f).plat = x.plat := rfl
@[simp] theorem State.modCore_window (x : State) (c : CoreRef) (f : Core → Core) : (x.modCore c f).window = x.window := rfl
@[simp] theorem State.modCore_locked (x : State) (c : CoreRef) (f : Core → Core) : (x.modCore c f).locked = x.locked := rfl
@[simp] theorem State.modCore_lost (x : State) (c : CoreRef) (f : Core → Core) : (x.modCore c f).lost = x.lost := rfl
@[simp] theorem State.modCore_recs (x : State) (c : CoreRef) (f : Core → Core) : (x.modCore c f).recs = x.recs := rfl
@[simp] theorem State.modCore_unserved (x : State) (c : CoreRef) (f : Core → Core) : (x.modCore c f).unserved = x.unserved := rfl
@[simp] theorem State.modCore_halts (x : State) (c : CoreRef) (f : Core → Core) : (x.modCore c f).halts = x.halts := rfl
@[simp] theorem State.modCore_failed (x : State) (c : CoreRef) (f : Core → Core) : (x.modCore c f).failed = x.failed := rfl
@[simp] theorem State.modCore_sent (x : State) (c : CoreRef) (f : Core → Core) : (x.modCore c f).sent = x.sent := rfl
@[simp] theorem State.modCore_colls (x : State) (c : CoreRef) (f : Core → Core) : (x.modCore c f).colls = x.colls := rfl
@[simp] theorem State.modCore_overs (x : State) (c : CoreRef) (f : Core → Core) : (x.modCore c f).overs = x.overs := rfl
@[simp] theorem State.modCore_answer (x : State) (c : CoreRef) (f : Core → Core) : (x.modCore c f).answer = x.answer := rfl
@[simp] theorem State.modCore_key (x : State) (c : CoreRef) (f : Core → Core) : (x.modCore c f).key = x.key := rfl

/-! ### One die -/

@[simp] theorem State.setDie_g (x : State) (d : Fin 2) (y : Die) : (x.setDie d y).g = x.g := rfl
@[simp] theorem State.setDie_rest (x : State) (d : Fin 2) (y : Die) : (x.setDie d y).rest = x.rest := rfl
@[simp] theorem State.setDie_agenda (x : State) (d : Fin 2) (y : Die) : (x.setDie d y).agenda = x.agenda := rfl
@[simp] theorem State.setDie_cores (x : State) (d : Fin 2) (y : Die) : (x.setDie d y).cores = x.cores := rfl
@[simp] theorem State.setDie_dies (x : State) (d : Fin 2) (y : Die) : (x.setDie d y).dies = x.dies.set d y := rfl
@[simp] theorem State.setDie_teams (x : State) (d : Fin 2) (y : Die) : (x.setDie d y).teams = x.teams := rfl
@[simp] theorem State.setDie_bars (x : State) (d : Fin 2) (y : Die) : (x.setDie d y).bars = x.bars := rfl
@[simp] theorem State.setDie_launches (x : State) (d : Fin 2) (y : Die) : (x.setDie d y).launches = x.launches := rfl
@[simp] theorem State.setDie_mem (x : State) (d : Fin 2) (y : Die) : (x.setDie d y).mem = x.mem := rfl
@[simp] theorem State.setDie_gddr (x : State) (d : Fin 2) (y : Die) : (x.setDie d y).gddr = x.gddr := rfl
@[simp] theorem State.setDie_dirty (x : State) (d : Fin 2) (y : Die) : (x.setDie d y).dirty = x.dirty := rfl
@[simp] theorem State.setDie_poison (x : State) (d : Fin 2) (y : Die) : (x.setDie d y).poison = x.poison := rfl
@[simp] theorem State.setDie_ahead (x : State) (d : Fin 2) (y : Die) : (x.setDie d y).ahead = x.ahead := rfl
@[simp] theorem State.setDie_errs (x : State) (d : Fin 2) (y : Die) : (x.setDie d y).errs = x.errs := rfl
@[simp] theorem State.setDie_down (x : State) (d : Fin 2) (y : Die) : (x.setDie d y).down = x.down := rfl
@[simp] theorem State.setDie_boots (x : State) (d : Fin 2) (y : Die) : (x.setDie d y).boots = x.boots := rfl
@[simp] theorem State.setDie_plat (x : State) (d : Fin 2) (y : Die) : (x.setDie d y).plat = x.plat := rfl
@[simp] theorem State.setDie_window (x : State) (d : Fin 2) (y : Die) : (x.setDie d y).window = x.window := rfl
@[simp] theorem State.setDie_locked (x : State) (d : Fin 2) (y : Die) : (x.setDie d y).locked = x.locked := rfl
@[simp] theorem State.setDie_lost (x : State) (d : Fin 2) (y : Die) : (x.setDie d y).lost = x.lost := rfl
@[simp] theorem State.setDie_recs (x : State) (d : Fin 2) (y : Die) : (x.setDie d y).recs = x.recs := rfl
@[simp] theorem State.setDie_unserved (x : State) (d : Fin 2) (y : Die) : (x.setDie d y).unserved = x.unserved := rfl
@[simp] theorem State.setDie_halts (x : State) (d : Fin 2) (y : Die) : (x.setDie d y).halts = x.halts := rfl
@[simp] theorem State.setDie_failed (x : State) (d : Fin 2) (y : Die) : (x.setDie d y).failed = x.failed := rfl
@[simp] theorem State.setDie_sent (x : State) (d : Fin 2) (y : Die) : (x.setDie d y).sent = x.sent := rfl
@[simp] theorem State.setDie_colls (x : State) (d : Fin 2) (y : Die) : (x.setDie d y).colls = x.colls := rfl
@[simp] theorem State.setDie_overs (x : State) (d : Fin 2) (y : Die) : (x.setDie d y).overs = x.overs := rfl
@[simp] theorem State.setDie_answer (x : State) (d : Fin 2) (y : Die) : (x.setDie d y).answer = x.answer := rfl
@[simp] theorem State.setDie_key (x : State) (d : Fin 2) (y : Die) : (x.setDie d y).key = x.key := rfl

/-! ### One die, by a function -/

@[simp] theorem State.modDie_g (x : State) (d : Fin 2) (f : Die → Die) : (x.modDie d f).g = x.g := rfl
@[simp] theorem State.modDie_rest (x : State) (d : Fin 2) (f : Die → Die) : (x.modDie d f).rest = x.rest := rfl
@[simp] theorem State.modDie_agenda (x : State) (d : Fin 2) (f : Die → Die) : (x.modDie d f).agenda = x.agenda := rfl
@[simp] theorem State.modDie_cores (x : State) (d : Fin 2) (f : Die → Die) : (x.modDie d f).cores = x.cores := rfl
@[simp] theorem State.modDie_dies (x : State) (d : Fin 2) (f : Die → Die) : (x.modDie d f).dies = x.dies.set d (f (x.die d)) := rfl
@[simp] theorem State.modDie_teams (x : State) (d : Fin 2) (f : Die → Die) : (x.modDie d f).teams = x.teams := rfl
@[simp] theorem State.modDie_bars (x : State) (d : Fin 2) (f : Die → Die) : (x.modDie d f).bars = x.bars := rfl
@[simp] theorem State.modDie_launches (x : State) (d : Fin 2) (f : Die → Die) : (x.modDie d f).launches = x.launches := rfl
@[simp] theorem State.modDie_mem (x : State) (d : Fin 2) (f : Die → Die) : (x.modDie d f).mem = x.mem := rfl
@[simp] theorem State.modDie_gddr (x : State) (d : Fin 2) (f : Die → Die) : (x.modDie d f).gddr = x.gddr := rfl
@[simp] theorem State.modDie_dirty (x : State) (d : Fin 2) (f : Die → Die) : (x.modDie d f).dirty = x.dirty := rfl
@[simp] theorem State.modDie_poison (x : State) (d : Fin 2) (f : Die → Die) : (x.modDie d f).poison = x.poison := rfl
@[simp] theorem State.modDie_ahead (x : State) (d : Fin 2) (f : Die → Die) : (x.modDie d f).ahead = x.ahead := rfl
@[simp] theorem State.modDie_errs (x : State) (d : Fin 2) (f : Die → Die) : (x.modDie d f).errs = x.errs := rfl
@[simp] theorem State.modDie_down (x : State) (d : Fin 2) (f : Die → Die) : (x.modDie d f).down = x.down := rfl
@[simp] theorem State.modDie_boots (x : State) (d : Fin 2) (f : Die → Die) : (x.modDie d f).boots = x.boots := rfl
@[simp] theorem State.modDie_plat (x : State) (d : Fin 2) (f : Die → Die) : (x.modDie d f).plat = x.plat := rfl
@[simp] theorem State.modDie_window (x : State) (d : Fin 2) (f : Die → Die) : (x.modDie d f).window = x.window := rfl
@[simp] theorem State.modDie_locked (x : State) (d : Fin 2) (f : Die → Die) : (x.modDie d f).locked = x.locked := rfl
@[simp] theorem State.modDie_lost (x : State) (d : Fin 2) (f : Die → Die) : (x.modDie d f).lost = x.lost := rfl
@[simp] theorem State.modDie_recs (x : State) (d : Fin 2) (f : Die → Die) : (x.modDie d f).recs = x.recs := rfl
@[simp] theorem State.modDie_unserved (x : State) (d : Fin 2) (f : Die → Die) : (x.modDie d f).unserved = x.unserved := rfl
@[simp] theorem State.modDie_halts (x : State) (d : Fin 2) (f : Die → Die) : (x.modDie d f).halts = x.halts := rfl
@[simp] theorem State.modDie_failed (x : State) (d : Fin 2) (f : Die → Die) : (x.modDie d f).failed = x.failed := rfl
@[simp] theorem State.modDie_sent (x : State) (d : Fin 2) (f : Die → Die) : (x.modDie d f).sent = x.sent := rfl
@[simp] theorem State.modDie_colls (x : State) (d : Fin 2) (f : Die → Die) : (x.modDie d f).colls = x.colls := rfl
@[simp] theorem State.modDie_overs (x : State) (d : Fin 2) (f : Die → Die) : (x.modDie d f).overs = x.overs := rfl
@[simp] theorem State.modDie_answer (x : State) (d : Fin 2) (f : Die → Die) : (x.modDie d f).answer = x.answer := rfl
@[simp] theorem State.modDie_key (x : State) (d : Fin 2) (f : Die → Die) : (x.modDie d f).key = x.key := rfl

/-! ### Every group -/

@[simp] theorem State.mapGroups_g (x : State) (f : Group → Group) : (x.mapGroups f).g = f x.g := rfl
@[simp] theorem State.mapGroups_rest (x : State) (f : Group → Group) : (x.mapGroups f).rest = x.rest.map f := rfl
@[simp] theorem State.mapGroups_agenda (x : State) (f : Group → Group) : (x.mapGroups f).agenda = x.agenda := rfl
@[simp] theorem State.mapGroups_cores (x : State) (f : Group → Group) : (x.mapGroups f).cores = x.cores := rfl
@[simp] theorem State.mapGroups_dies (x : State) (f : Group → Group) : (x.mapGroups f).dies = x.dies := rfl
@[simp] theorem State.mapGroups_teams (x : State) (f : Group → Group) : (x.mapGroups f).teams = x.teams := rfl
@[simp] theorem State.mapGroups_bars (x : State) (f : Group → Group) : (x.mapGroups f).bars = x.bars := rfl
@[simp] theorem State.mapGroups_launches (x : State) (f : Group → Group) : (x.mapGroups f).launches = x.launches := rfl
@[simp] theorem State.mapGroups_mem (x : State) (f : Group → Group) : (x.mapGroups f).mem = x.mem := rfl
@[simp] theorem State.mapGroups_gddr (x : State) (f : Group → Group) : (x.mapGroups f).gddr = x.gddr := rfl
@[simp] theorem State.mapGroups_dirty (x : State) (f : Group → Group) : (x.mapGroups f).dirty = x.dirty := rfl
@[simp] theorem State.mapGroups_poison (x : State) (f : Group → Group) : (x.mapGroups f).poison = x.poison := rfl
@[simp] theorem State.mapGroups_ahead (x : State) (f : Group → Group) : (x.mapGroups f).ahead = x.ahead := rfl
@[simp] theorem State.mapGroups_errs (x : State) (f : Group → Group) : (x.mapGroups f).errs = x.errs := rfl
@[simp] theorem State.mapGroups_down (x : State) (f : Group → Group) : (x.mapGroups f).down = x.down := rfl
@[simp] theorem State.mapGroups_boots (x : State) (f : Group → Group) : (x.mapGroups f).boots = x.boots := rfl
@[simp] theorem State.mapGroups_plat (x : State) (f : Group → Group) : (x.mapGroups f).plat = x.plat := rfl
@[simp] theorem State.mapGroups_window (x : State) (f : Group → Group) : (x.mapGroups f).window = x.window := rfl
@[simp] theorem State.mapGroups_locked (x : State) (f : Group → Group) : (x.mapGroups f).locked = x.locked := rfl
@[simp] theorem State.mapGroups_lost (x : State) (f : Group → Group) : (x.mapGroups f).lost = x.lost := rfl
@[simp] theorem State.mapGroups_recs (x : State) (f : Group → Group) : (x.mapGroups f).recs = x.recs := rfl
@[simp] theorem State.mapGroups_unserved (x : State) (f : Group → Group) : (x.mapGroups f).unserved = x.unserved := rfl
@[simp] theorem State.mapGroups_halts (x : State) (f : Group → Group) : (x.mapGroups f).halts = x.halts := rfl
@[simp] theorem State.mapGroups_failed (x : State) (f : Group → Group) : (x.mapGroups f).failed = x.failed := rfl
@[simp] theorem State.mapGroups_sent (x : State) (f : Group → Group) : (x.mapGroups f).sent = x.sent := rfl
@[simp] theorem State.mapGroups_colls (x : State) (f : Group → Group) : (x.mapGroups f).colls = x.colls := rfl
@[simp] theorem State.mapGroups_overs (x : State) (f : Group → Group) : (x.mapGroups f).overs = x.overs := rfl
@[simp] theorem State.mapGroups_answer (x : State) (f : Group → Group) : (x.mapGroups f).answer = x.answer := rfl
@[simp] theorem State.mapGroups_key (x : State) (f : Group → Group) : (x.mapGroups f).key = x.key := rfl

/-! ### One launch -/

@[simp] theorem State.modLaunch_g (x : State) (k : Nat) (f : Launch → Launch) : (x.modLaunch k f).g = x.g := rfl
@[simp] theorem State.modLaunch_rest (x : State) (k : Nat) (f : Launch → Launch) : (x.modLaunch k f).rest = x.rest := rfl
@[simp] theorem State.modLaunch_agenda (x : State) (k : Nat) (f : Launch → Launch) : (x.modLaunch k f).agenda = x.agenda := rfl
@[simp] theorem State.modLaunch_cores (x : State) (k : Nat) (f : Launch → Launch) : (x.modLaunch k f).cores = x.cores := rfl
@[simp] theorem State.modLaunch_dies (x : State) (k : Nat) (f : Launch → Launch) : (x.modLaunch k f).dies = x.dies := rfl
@[simp] theorem State.modLaunch_teams (x : State) (k : Nat) (f : Launch → Launch) : (x.modLaunch k f).teams = x.teams := rfl
@[simp] theorem State.modLaunch_bars (x : State) (k : Nat) (f : Launch → Launch) : (x.modLaunch k f).bars = x.bars := rfl
@[simp] theorem State.modLaunch_launches (x : State) (k : Nat) (f : Launch → Launch) : (x.modLaunch k f).launches = x.launches.map fun l => if l.key == k then f l else l := rfl
@[simp] theorem State.modLaunch_mem (x : State) (k : Nat) (f : Launch → Launch) : (x.modLaunch k f).mem = x.mem := rfl
@[simp] theorem State.modLaunch_gddr (x : State) (k : Nat) (f : Launch → Launch) : (x.modLaunch k f).gddr = x.gddr := rfl
@[simp] theorem State.modLaunch_dirty (x : State) (k : Nat) (f : Launch → Launch) : (x.modLaunch k f).dirty = x.dirty := rfl
@[simp] theorem State.modLaunch_poison (x : State) (k : Nat) (f : Launch → Launch) : (x.modLaunch k f).poison = x.poison := rfl
@[simp] theorem State.modLaunch_ahead (x : State) (k : Nat) (f : Launch → Launch) : (x.modLaunch k f).ahead = x.ahead := rfl
@[simp] theorem State.modLaunch_errs (x : State) (k : Nat) (f : Launch → Launch) : (x.modLaunch k f).errs = x.errs := rfl
@[simp] theorem State.modLaunch_down (x : State) (k : Nat) (f : Launch → Launch) : (x.modLaunch k f).down = x.down := rfl
@[simp] theorem State.modLaunch_boots (x : State) (k : Nat) (f : Launch → Launch) : (x.modLaunch k f).boots = x.boots := rfl
@[simp] theorem State.modLaunch_plat (x : State) (k : Nat) (f : Launch → Launch) : (x.modLaunch k f).plat = x.plat := rfl
@[simp] theorem State.modLaunch_window (x : State) (k : Nat) (f : Launch → Launch) : (x.modLaunch k f).window = x.window := rfl
@[simp] theorem State.modLaunch_locked (x : State) (k : Nat) (f : Launch → Launch) : (x.modLaunch k f).locked = x.locked := rfl
@[simp] theorem State.modLaunch_lost (x : State) (k : Nat) (f : Launch → Launch) : (x.modLaunch k f).lost = x.lost := rfl
@[simp] theorem State.modLaunch_recs (x : State) (k : Nat) (f : Launch → Launch) : (x.modLaunch k f).recs = x.recs := rfl
@[simp] theorem State.modLaunch_unserved (x : State) (k : Nat) (f : Launch → Launch) : (x.modLaunch k f).unserved = x.unserved := rfl
@[simp] theorem State.modLaunch_halts (x : State) (k : Nat) (f : Launch → Launch) : (x.modLaunch k f).halts = x.halts := rfl
@[simp] theorem State.modLaunch_failed (x : State) (k : Nat) (f : Launch → Launch) : (x.modLaunch k f).failed = x.failed := rfl
@[simp] theorem State.modLaunch_sent (x : State) (k : Nat) (f : Launch → Launch) : (x.modLaunch k f).sent = x.sent := rfl
@[simp] theorem State.modLaunch_colls (x : State) (k : Nat) (f : Launch → Launch) : (x.modLaunch k f).colls = x.colls := rfl
@[simp] theorem State.modLaunch_overs (x : State) (k : Nat) (f : Launch → Launch) : (x.modLaunch k f).overs = x.overs := rfl
@[simp] theorem State.modLaunch_answer (x : State) (k : Nat) (f : Launch → Launch) : (x.modLaunch k f).answer = x.answer := rfl
@[simp] theorem State.modLaunch_key (x : State) (k : Nat) (f : Launch → Launch) : (x.modLaunch k f).key = x.key := rfl

/-! ### One team -/

@[simp] theorem State.modTeam_g (x : State) (k : Nat) (f : Team → Team) : (x.modTeam k f).g = x.g := rfl
@[simp] theorem State.modTeam_rest (x : State) (k : Nat) (f : Team → Team) : (x.modTeam k f).rest = x.rest := rfl
@[simp] theorem State.modTeam_agenda (x : State) (k : Nat) (f : Team → Team) : (x.modTeam k f).agenda = x.agenda := rfl
@[simp] theorem State.modTeam_cores (x : State) (k : Nat) (f : Team → Team) : (x.modTeam k f).cores = x.cores := rfl
@[simp] theorem State.modTeam_dies (x : State) (k : Nat) (f : Team → Team) : (x.modTeam k f).dies = x.dies := rfl
@[simp] theorem State.modTeam_teams (x : State) (k : Nat) (f : Team → Team) : (x.modTeam k f).teams = x.teams.map fun t => if t.key == k then f t else t := rfl
@[simp] theorem State.modTeam_bars (x : State) (k : Nat) (f : Team → Team) : (x.modTeam k f).bars = x.bars := rfl
@[simp] theorem State.modTeam_launches (x : State) (k : Nat) (f : Team → Team) : (x.modTeam k f).launches = x.launches := rfl
@[simp] theorem State.modTeam_mem (x : State) (k : Nat) (f : Team → Team) : (x.modTeam k f).mem = x.mem := rfl
@[simp] theorem State.modTeam_gddr (x : State) (k : Nat) (f : Team → Team) : (x.modTeam k f).gddr = x.gddr := rfl
@[simp] theorem State.modTeam_dirty (x : State) (k : Nat) (f : Team → Team) : (x.modTeam k f).dirty = x.dirty := rfl
@[simp] theorem State.modTeam_poison (x : State) (k : Nat) (f : Team → Team) : (x.modTeam k f).poison = x.poison := rfl
@[simp] theorem State.modTeam_ahead (x : State) (k : Nat) (f : Team → Team) : (x.modTeam k f).ahead = x.ahead := rfl
@[simp] theorem State.modTeam_errs (x : State) (k : Nat) (f : Team → Team) : (x.modTeam k f).errs = x.errs := rfl
@[simp] theorem State.modTeam_down (x : State) (k : Nat) (f : Team → Team) : (x.modTeam k f).down = x.down := rfl
@[simp] theorem State.modTeam_boots (x : State) (k : Nat) (f : Team → Team) : (x.modTeam k f).boots = x.boots := rfl
@[simp] theorem State.modTeam_plat (x : State) (k : Nat) (f : Team → Team) : (x.modTeam k f).plat = x.plat := rfl
@[simp] theorem State.modTeam_window (x : State) (k : Nat) (f : Team → Team) : (x.modTeam k f).window = x.window := rfl
@[simp] theorem State.modTeam_locked (x : State) (k : Nat) (f : Team → Team) : (x.modTeam k f).locked = x.locked := rfl
@[simp] theorem State.modTeam_lost (x : State) (k : Nat) (f : Team → Team) : (x.modTeam k f).lost = x.lost := rfl
@[simp] theorem State.modTeam_recs (x : State) (k : Nat) (f : Team → Team) : (x.modTeam k f).recs = x.recs := rfl
@[simp] theorem State.modTeam_unserved (x : State) (k : Nat) (f : Team → Team) : (x.modTeam k f).unserved = x.unserved := rfl
@[simp] theorem State.modTeam_halts (x : State) (k : Nat) (f : Team → Team) : (x.modTeam k f).halts = x.halts := rfl
@[simp] theorem State.modTeam_failed (x : State) (k : Nat) (f : Team → Team) : (x.modTeam k f).failed = x.failed := rfl
@[simp] theorem State.modTeam_sent (x : State) (k : Nat) (f : Team → Team) : (x.modTeam k f).sent = x.sent := rfl
@[simp] theorem State.modTeam_colls (x : State) (k : Nat) (f : Team → Team) : (x.modTeam k f).colls = x.colls := rfl
@[simp] theorem State.modTeam_overs (x : State) (k : Nat) (f : Team → Team) : (x.modTeam k f).overs = x.overs := rfl
@[simp] theorem State.modTeam_answer (x : State) (k : Nat) (f : Team → Team) : (x.modTeam k f).answer = x.answer := rfl
@[simp] theorem State.modTeam_key (x : State) (k : Nat) (f : Team → Team) : (x.modTeam k f).key = x.key := rfl

/-! ### Requests dropped -/

@[simp] theorem State.dropRequests_g (x : State) (p : Requester → Bool) : (x.dropRequests p).g = x.g := rfl
@[simp] theorem State.dropRequests_rest (x : State) (p : Requester → Bool) : (x.dropRequests p).rest = x.rest := rfl
@[simp] theorem State.dropRequests_agenda (x : State) (p : Requester → Bool) : (x.dropRequests p).agenda = x.agenda := rfl
@[simp] theorem State.dropRequests_cores (x : State) (p : Requester → Bool) : (x.dropRequests p).cores = x.cores := rfl
@[simp] theorem State.dropRequests_dies (x : State) (p : Requester → Bool) : (x.dropRequests p).dies = mapVec (fun d => d.dropRequests p) x.dies := rfl
@[simp] theorem State.dropRequests_teams (x : State) (p : Requester → Bool) : (x.dropRequests p).teams = x.teams := rfl
@[simp] theorem State.dropRequests_bars (x : State) (p : Requester → Bool) : (x.dropRequests p).bars = x.bars := rfl
@[simp] theorem State.dropRequests_launches (x : State) (p : Requester → Bool) : (x.dropRequests p).launches = x.launches := rfl
@[simp] theorem State.dropRequests_mem (x : State) (p : Requester → Bool) : (x.dropRequests p).mem = x.mem := rfl
@[simp] theorem State.dropRequests_gddr (x : State) (p : Requester → Bool) : (x.dropRequests p).gddr = x.gddr := rfl
@[simp] theorem State.dropRequests_dirty (x : State) (p : Requester → Bool) : (x.dropRequests p).dirty = x.dirty := rfl
@[simp] theorem State.dropRequests_poison (x : State) (p : Requester → Bool) : (x.dropRequests p).poison = x.poison := rfl
@[simp] theorem State.dropRequests_ahead (x : State) (p : Requester → Bool) : (x.dropRequests p).ahead = x.ahead := rfl
@[simp] theorem State.dropRequests_errs (x : State) (p : Requester → Bool) : (x.dropRequests p).errs = x.errs := rfl
@[simp] theorem State.dropRequests_down (x : State) (p : Requester → Bool) : (x.dropRequests p).down = x.down := rfl
@[simp] theorem State.dropRequests_boots (x : State) (p : Requester → Bool) : (x.dropRequests p).boots = x.boots := rfl
@[simp] theorem State.dropRequests_plat (x : State) (p : Requester → Bool) : (x.dropRequests p).plat = x.plat := rfl
@[simp] theorem State.dropRequests_window (x : State) (p : Requester → Bool) : (x.dropRequests p).window = x.window := rfl
@[simp] theorem State.dropRequests_locked (x : State) (p : Requester → Bool) : (x.dropRequests p).locked = x.locked := rfl
@[simp] theorem State.dropRequests_lost (x : State) (p : Requester → Bool) : (x.dropRequests p).lost = x.lost := rfl
@[simp] theorem State.dropRequests_recs (x : State) (p : Requester → Bool) : (x.dropRequests p).recs = x.recs := rfl
@[simp] theorem State.dropRequests_unserved (x : State) (p : Requester → Bool) : (x.dropRequests p).unserved = x.unserved := rfl
@[simp] theorem State.dropRequests_halts (x : State) (p : Requester → Bool) : (x.dropRequests p).halts = x.halts := rfl
@[simp] theorem State.dropRequests_failed (x : State) (p : Requester → Bool) : (x.dropRequests p).failed = x.failed := rfl
@[simp] theorem State.dropRequests_sent (x : State) (p : Requester → Bool) : (x.dropRequests p).sent = x.sent := rfl
@[simp] theorem State.dropRequests_colls (x : State) (p : Requester → Bool) : (x.dropRequests p).colls = x.colls := rfl
@[simp] theorem State.dropRequests_overs (x : State) (p : Requester → Bool) : (x.dropRequests p).overs = x.overs := rfl
@[simp] theorem State.dropRequests_answer (x : State) (p : Requester → Bool) : (x.dropRequests p).answer = x.answer := rfl
@[simp] theorem State.dropRequests_key (x : State) (p : Requester → Bool) : (x.dropRequests p).key = x.key := rfl

/-! ### A new grant -/

@[simp] theorem State.regrant_g (x : State) : (x.regrant).g = { x.g with grant := (x.core x.g.coreRef).grant } := rfl
@[simp] theorem State.regrant_rest (x : State) : (x.regrant).rest = x.rest := rfl
@[simp] theorem State.regrant_agenda (x : State) : (x.regrant).agenda = x.agenda := rfl
@[simp] theorem State.regrant_cores (x : State) : (x.regrant).cores = (x.modCore x.g.coreRef fun y => { y with grant := y.grant + 1 }).cores := rfl
@[simp] theorem State.regrant_dies (x : State) : (x.regrant).dies = x.dies := rfl
@[simp] theorem State.regrant_teams (x : State) : (x.regrant).teams = x.teams := rfl
@[simp] theorem State.regrant_bars (x : State) : (x.regrant).bars = x.bars := rfl
@[simp] theorem State.regrant_launches (x : State) : (x.regrant).launches = x.launches := rfl
@[simp] theorem State.regrant_mem (x : State) : (x.regrant).mem = x.mem := rfl
@[simp] theorem State.regrant_gddr (x : State) : (x.regrant).gddr = x.gddr := rfl
@[simp] theorem State.regrant_dirty (x : State) : (x.regrant).dirty = x.dirty := rfl
@[simp] theorem State.regrant_poison (x : State) : (x.regrant).poison = x.poison := rfl
@[simp] theorem State.regrant_ahead (x : State) : (x.regrant).ahead = x.ahead := rfl
@[simp] theorem State.regrant_errs (x : State) : (x.regrant).errs = x.errs := rfl
@[simp] theorem State.regrant_down (x : State) : (x.regrant).down = x.down := rfl
@[simp] theorem State.regrant_boots (x : State) : (x.regrant).boots = x.boots := rfl
@[simp] theorem State.regrant_plat (x : State) : (x.regrant).plat = x.plat := rfl
@[simp] theorem State.regrant_window (x : State) : (x.regrant).window = x.window := rfl
@[simp] theorem State.regrant_locked (x : State) : (x.regrant).locked = x.locked := rfl
@[simp] theorem State.regrant_lost (x : State) : (x.regrant).lost = x.lost := rfl
@[simp] theorem State.regrant_recs (x : State) : (x.regrant).recs = x.recs := rfl
@[simp] theorem State.regrant_unserved (x : State) : (x.regrant).unserved = x.unserved := rfl
@[simp] theorem State.regrant_halts (x : State) : (x.regrant).halts = x.halts := rfl
@[simp] theorem State.regrant_failed (x : State) : (x.regrant).failed = x.failed := rfl
@[simp] theorem State.regrant_sent (x : State) : (x.regrant).sent = x.sent := rfl
@[simp] theorem State.regrant_colls (x : State) : (x.regrant).colls = x.colls := rfl
@[simp] theorem State.regrant_overs (x : State) : (x.regrant).overs = x.overs := rfl
@[simp] theorem State.regrant_answer (x : State) : (x.regrant).answer = x.answer := rfl
@[simp] theorem State.regrant_key (x : State) : (x.regrant).key = x.key := rfl

/-! ### YIELD has its grant at the end of the cycle -/

@[simp] theorem State.yields_g (x : State) : (x.yields).g = x.g := rfl
@[simp] theorem State.yields_rest (x : State) : (x.yields).rest = x.rest := rfl
@[simp] theorem State.yields_agenda (x : State) : (x.yields).agenda = x.agenda := rfl
@[simp] theorem State.yields_cores (x : State) : (x.yields).cores = (x.modCore x.g.coreRef fun k => { k with issue := { k.issue with yields := k.issue.yields ++ [x.g.slot] } }).cores := rfl
@[simp] theorem State.yields_dies (x : State) : (x.yields).dies = x.dies := rfl
@[simp] theorem State.yields_teams (x : State) : (x.yields).teams = x.teams := rfl
@[simp] theorem State.yields_bars (x : State) : (x.yields).bars = x.bars := rfl
@[simp] theorem State.yields_launches (x : State) : (x.yields).launches = x.launches := rfl
@[simp] theorem State.yields_mem (x : State) : (x.yields).mem = x.mem := rfl
@[simp] theorem State.yields_gddr (x : State) : (x.yields).gddr = x.gddr := rfl
@[simp] theorem State.yields_dirty (x : State) : (x.yields).dirty = x.dirty := rfl
@[simp] theorem State.yields_poison (x : State) : (x.yields).poison = x.poison := rfl
@[simp] theorem State.yields_ahead (x : State) : (x.yields).ahead = x.ahead := rfl
@[simp] theorem State.yields_errs (x : State) : (x.yields).errs = x.errs := rfl
@[simp] theorem State.yields_down (x : State) : (x.yields).down = x.down := rfl
@[simp] theorem State.yields_boots (x : State) : (x.yields).boots = x.boots := rfl
@[simp] theorem State.yields_plat (x : State) : (x.yields).plat = x.plat := rfl
@[simp] theorem State.yields_window (x : State) : (x.yields).window = x.window := rfl
@[simp] theorem State.yields_locked (x : State) : (x.yields).locked = x.locked := rfl
@[simp] theorem State.yields_lost (x : State) : (x.yields).lost = x.lost := rfl
@[simp] theorem State.yields_recs (x : State) : (x.yields).recs = x.recs := rfl
@[simp] theorem State.yields_unserved (x : State) : (x.yields).unserved = x.unserved := rfl
@[simp] theorem State.yields_halts (x : State) : (x.yields).halts = x.halts := rfl
@[simp] theorem State.yields_failed (x : State) : (x.yields).failed = x.failed := rfl
@[simp] theorem State.yields_sent (x : State) : (x.yields).sent = x.sent := rfl
@[simp] theorem State.yields_colls (x : State) : (x.yields).colls = x.colls := rfl
@[simp] theorem State.yields_overs (x : State) : (x.yields).overs = x.overs := rfl
@[simp] theorem State.yields_answer (x : State) : (x.yields).answer = x.answer := rfl
@[simp] theorem State.yields_key (x : State) : (x.yields).key = x.key := rfl

/-! ### Errors gone -/

@[simp] theorem Group.cleanIf_die (x : Group) (p : RegName → Bool) : (x.cleanIf p).die = x.die := rfl
@[simp] theorem Group.cleanIf_core (x : Group) (p : RegName → Bool) : (x.cleanIf p).core = x.core := rfl
@[simp] theorem Group.cleanIf_slot (x : Group) (p : RegName → Bool) : (x.cleanIf p).slot = x.slot := rfl
@[simp] theorem Group.cleanIf_launch (x : Group) (p : RegName → Bool) : (x.cleanIf p).launch = x.launch := rfl
@[simp] theorem Group.cleanIf_team (x : Group) (p : RegName → Bool) : (x.cleanIf p).team = x.team := rfl
@[simp] theorem Group.cleanIf_ctx (x : Group) (p : RegName → Bool) : (x.cleanIf p).ctx = x.ctx := rfl
@[simp] theorem Group.cleanIf_spawned (x : Group) (p : RegName → Bool) : (x.cleanIf p).spawned = x.spawned := rfl
@[simp] theorem Group.cleanIf_run (x : Group) (p : RegName → Bool) : (x.cleanIf p).run = x.run := rfl
@[simp] theorem Group.cleanIf_s (x : Group) (p : RegName → Bool) : (x.cleanIf p).s = x.s := rfl
@[simp] theorem Group.cleanIf_v (x : Group) (p : RegName → Bool) : (x.cleanIf p).v = x.v := rfl
@[simp] theorem Group.cleanIf_k (x : Group) (p : RegName → Bool) : (x.cleanIf p).k = x.k := rfl
@[simp] theorem Group.cleanIf_h (x : Group) (p : RegName → Bool) : (x.cleanIf p).h = x.h := rfl
@[simp] theorem Group.cleanIf_valloc (x : Group) (p : RegName → Bool) : (x.cleanIf p).valloc = x.valloc := rfl
@[simp] theorem Group.cleanIf_pc (x : Group) (p : RegName → Bool) : (x.cleanIf p).pc = x.pc := rfl
@[simp] theorem Group.cleanIf_plane (x : Group) (p : RegName → Bool) : (x.cleanIf p).plane = x.plane := rfl
@[simp] theorem Group.cleanIf_fresh (x : Group) (p : RegName → Bool) : (x.cleanIf p).fresh = x.fresh := rfl
@[simp] theorem Group.cleanIf_issued (x : Group) (p : RegName → Bool) : (x.cleanIf p).issued = x.issued := rfl
@[simp] theorem Group.cleanIf_span (x : Group) (p : RegName → Bool) : (x.cleanIf p).span = x.span := rfl
@[simp] theorem Group.cleanIf_live (x : Group) (p : RegName → Bool) : (x.cleanIf p).live = x.live := rfl
@[simp] theorem Group.cleanIf_sc (x : Group) (p : RegName → Bool) : (x.cleanIf p).sc = x.sc := rfl
@[simp] theorem Group.cleanIf_status (x : Group) (p : RegName → Bool) : (x.cleanIf p).status = x.status := rfl
@[simp] theorem Group.cleanIf_exec (x : Group) (p : RegName → Bool) : (x.cleanIf p).exec = x.exec := rfl
@[simp] theorem Group.cleanIf_exitm (x : Group) (p : RegName → Bool) : (x.cleanIf p).exitm = x.exitm := rfl
@[simp] theorem Group.cleanIf_pln (x : Group) (p : RegName → Bool) : (x.cleanIf p).pln = x.pln := rfl
@[simp] theorem Group.cleanIf_fmt (x : Group) (p : RegName → Bool) : (x.cleanIf p).fmt = x.fmt := rfl
@[simp] theorem Group.cleanIf_wdog (x : Group) (p : RegName → Bool) : (x.cleanIf p).wdog = x.wdog := rfl
@[simp] theorem Group.cleanIf_wcnt (x : Group) (p : RegName → Bool) : (x.cleanIf p).wcnt = x.wcnt := rfl
@[simp] theorem Group.cleanIf_wdue (x : Group) (p : RegName → Bool) : (x.cleanIf p).wdue = x.wdue := rfl
@[simp] theorem Group.cleanIf_trapbase (x : Group) (p : RegName → Bool) : (x.cleanIf p).trapbase = x.trapbase := rfl
@[simp] theorem Group.cleanIf_xpc (x : Group) (p : RegName → Bool) : (x.cleanIf p).xpc = x.xpc := rfl
@[simp] theorem Group.cleanIf_xcause (x : Group) (p : RegName → Bool) : (x.cleanIf p).xcause = x.xcause := rfl
@[simp] theorem Group.cleanIf_xinfo (x : Group) (p : RegName → Bool) : (x.cleanIf p).xinfo = x.xinfo := rfl
@[simp] theorem Group.cleanIf_xscratch (x : Group) (p : RegName → Bool) : (x.cleanIf p).xscratch = x.xscratch := rfl
@[simp] theorem Group.cleanIf_groupid (x : Group) (p : RegName → Bool) : (x.cleanIf p).groupid = x.groupid := rfl
@[simp] theorem Group.cleanIf_teamid (x : Group) (p : RegName → Bool) : (x.cleanIf p).teamid = x.teamid := rfl
@[simp] theorem Group.cleanIf_clusterid (x : Group) (p : RegName → Bool) : (x.cleanIf p).clusterid = x.clusterid := rfl
@[simp] theorem Group.cleanIf_cbase (x : Group) (p : RegName → Bool) : (x.cleanIf p).cbase = x.cbase := rfl
@[simp] theorem Group.cleanIf_csize (x : Group) (p : RegName → Bool) : (x.cleanIf p).csize = x.csize := rfl
@[simp] theorem Group.cleanIf_regions (x : Group) (p : RegName → Bool) : (x.cleanIf p).regions = x.regions := rfl
@[simp] theorem Group.cleanIf_log (x : Group) (p : RegName → Bool) : (x.cleanIf p).log = x.log := rfl
@[simp] theorem Group.cleanIf_fifo (x : Group) (p : RegName → Bool) : (x.cleanIf p).fifo = x.fifo := rfl
@[simp] theorem Group.cleanIf_seq (x : Group) (p : RegName → Bool) : (x.cleanIf p).seq = x.seq := rfl
@[simp] theorem Group.cleanIf_stores (x : Group) (p : RegName → Bool) : (x.cleanIf p).stores = x.stores := rfl
@[simp] theorem Group.cleanIf_fences (x : Group) (p : RegName → Bool) : (x.cleanIf p).fences = x.fences := rfl
@[simp] theorem Group.cleanIf_cflush (x : Group) (p : RegName → Bool) : (x.cleanIf p).cflush = x.cflush := rfl
@[simp] theorem Group.cleanIf_deferred (x : Group) (p : RegName → Bool) : (x.cleanIf p).deferred = x.deferred := rfl
@[simp] theorem Group.cleanIf_settled (x : Group) (p : RegName → Bool) : (x.cleanIf p).settled = x.settled := rfl
@[simp] theorem Group.cleanIf_grant (x : Group) (p : RegName → Bool) : (x.cleanIf p).grant = x.grant := rfl
@[simp] theorem Group.cleanIf_spawnq (x : Group) (p : RegName → Bool) : (x.cleanIf p).spawnq = x.spawnq := rfl
@[simp] theorem Group.cleanIf_spawnc (x : Group) (p : RegName → Bool) : (x.cleanIf p).spawnc = x.spawnc := rfl
@[simp] theorem Group.cleanIf_spawnAt (x : Group) (p : RegName → Bool) : (x.cleanIf p).spawnAt = x.spawnAt := rfl
@[simp] theorem Group.cleanIf_arrived (x : Group) (p : RegName → Bool) : (x.cleanIf p).arrived = x.arrived := rfl
@[simp] theorem Group.cleanIf_owes (x : Group) (p : RegName → Bool) : (x.cleanIf p).owes = x.owes := rfl
@[simp] theorem Group.cleanIf_owesH (x : Group) (p : RegName → Bool) : (x.cleanIf p).owesH = x.owesH := rfl
@[simp] theorem Group.cleanIf_stop (x : Group) (p : RegName → Bool) : (x.cleanIf p).stop = x.stop := rfl
@[simp] theorem Group.cleanIf_waitw (x : Group) (p : RegName → Bool) : (x.cleanIf p).waitw = x.waitw := rfl
@[simp] theorem Group.cleanIf_waits (x : Group) (p : RegName → Bool) : (x.cleanIf p).waits = x.waits := rfl
@[simp] theorem Group.cleanIf_errs (x : Group) (p : RegName → Bool) : (x.cleanIf p).errs = x.errs.filter fun n => !p n := rfl
@[simp] theorem Group.cleanIf_leftAt (x : Group) (p : RegName → Bool) : (x.cleanIf p).leftAt = x.leftAt := rfl

/-! ### One error gone -/

@[simp] theorem Group.clean_die (x : Group) (n : RegName) : (x.clean n).die = x.die := rfl
@[simp] theorem Group.clean_core (x : Group) (n : RegName) : (x.clean n).core = x.core := rfl
@[simp] theorem Group.clean_slot (x : Group) (n : RegName) : (x.clean n).slot = x.slot := rfl
@[simp] theorem Group.clean_launch (x : Group) (n : RegName) : (x.clean n).launch = x.launch := rfl
@[simp] theorem Group.clean_team (x : Group) (n : RegName) : (x.clean n).team = x.team := rfl
@[simp] theorem Group.clean_ctx (x : Group) (n : RegName) : (x.clean n).ctx = x.ctx := rfl
@[simp] theorem Group.clean_spawned (x : Group) (n : RegName) : (x.clean n).spawned = x.spawned := rfl
@[simp] theorem Group.clean_run (x : Group) (n : RegName) : (x.clean n).run = x.run := rfl
@[simp] theorem Group.clean_s (x : Group) (n : RegName) : (x.clean n).s = x.s := rfl
@[simp] theorem Group.clean_v (x : Group) (n : RegName) : (x.clean n).v = x.v := rfl
@[simp] theorem Group.clean_k (x : Group) (n : RegName) : (x.clean n).k = x.k := rfl
@[simp] theorem Group.clean_h (x : Group) (n : RegName) : (x.clean n).h = x.h := rfl
@[simp] theorem Group.clean_valloc (x : Group) (n : RegName) : (x.clean n).valloc = x.valloc := rfl
@[simp] theorem Group.clean_pc (x : Group) (n : RegName) : (x.clean n).pc = x.pc := rfl
@[simp] theorem Group.clean_plane (x : Group) (n : RegName) : (x.clean n).plane = x.plane := rfl
@[simp] theorem Group.clean_fresh (x : Group) (n : RegName) : (x.clean n).fresh = x.fresh := rfl
@[simp] theorem Group.clean_issued (x : Group) (n : RegName) : (x.clean n).issued = x.issued := rfl
@[simp] theorem Group.clean_span (x : Group) (n : RegName) : (x.clean n).span = x.span := rfl
@[simp] theorem Group.clean_live (x : Group) (n : RegName) : (x.clean n).live = x.live := rfl
@[simp] theorem Group.clean_sc (x : Group) (n : RegName) : (x.clean n).sc = x.sc := rfl
@[simp] theorem Group.clean_status (x : Group) (n : RegName) : (x.clean n).status = x.status := rfl
@[simp] theorem Group.clean_exec (x : Group) (n : RegName) : (x.clean n).exec = x.exec := rfl
@[simp] theorem Group.clean_exitm (x : Group) (n : RegName) : (x.clean n).exitm = x.exitm := rfl
@[simp] theorem Group.clean_pln (x : Group) (n : RegName) : (x.clean n).pln = x.pln := rfl
@[simp] theorem Group.clean_fmt (x : Group) (n : RegName) : (x.clean n).fmt = x.fmt := rfl
@[simp] theorem Group.clean_wdog (x : Group) (n : RegName) : (x.clean n).wdog = x.wdog := rfl
@[simp] theorem Group.clean_wcnt (x : Group) (n : RegName) : (x.clean n).wcnt = x.wcnt := rfl
@[simp] theorem Group.clean_wdue (x : Group) (n : RegName) : (x.clean n).wdue = x.wdue := rfl
@[simp] theorem Group.clean_trapbase (x : Group) (n : RegName) : (x.clean n).trapbase = x.trapbase := rfl
@[simp] theorem Group.clean_xpc (x : Group) (n : RegName) : (x.clean n).xpc = x.xpc := rfl
@[simp] theorem Group.clean_xcause (x : Group) (n : RegName) : (x.clean n).xcause = x.xcause := rfl
@[simp] theorem Group.clean_xinfo (x : Group) (n : RegName) : (x.clean n).xinfo = x.xinfo := rfl
@[simp] theorem Group.clean_xscratch (x : Group) (n : RegName) : (x.clean n).xscratch = x.xscratch := rfl
@[simp] theorem Group.clean_groupid (x : Group) (n : RegName) : (x.clean n).groupid = x.groupid := rfl
@[simp] theorem Group.clean_teamid (x : Group) (n : RegName) : (x.clean n).teamid = x.teamid := rfl
@[simp] theorem Group.clean_clusterid (x : Group) (n : RegName) : (x.clean n).clusterid = x.clusterid := rfl
@[simp] theorem Group.clean_cbase (x : Group) (n : RegName) : (x.clean n).cbase = x.cbase := rfl
@[simp] theorem Group.clean_csize (x : Group) (n : RegName) : (x.clean n).csize = x.csize := rfl
@[simp] theorem Group.clean_regions (x : Group) (n : RegName) : (x.clean n).regions = x.regions := rfl
@[simp] theorem Group.clean_log (x : Group) (n : RegName) : (x.clean n).log = x.log := rfl
@[simp] theorem Group.clean_fifo (x : Group) (n : RegName) : (x.clean n).fifo = x.fifo := rfl
@[simp] theorem Group.clean_seq (x : Group) (n : RegName) : (x.clean n).seq = x.seq := rfl
@[simp] theorem Group.clean_stores (x : Group) (n : RegName) : (x.clean n).stores = x.stores := rfl
@[simp] theorem Group.clean_fences (x : Group) (n : RegName) : (x.clean n).fences = x.fences := rfl
@[simp] theorem Group.clean_cflush (x : Group) (n : RegName) : (x.clean n).cflush = x.cflush := rfl
@[simp] theorem Group.clean_deferred (x : Group) (n : RegName) : (x.clean n).deferred = x.deferred := rfl
@[simp] theorem Group.clean_settled (x : Group) (n : RegName) : (x.clean n).settled = x.settled := rfl
@[simp] theorem Group.clean_grant (x : Group) (n : RegName) : (x.clean n).grant = x.grant := rfl
@[simp] theorem Group.clean_spawnq (x : Group) (n : RegName) : (x.clean n).spawnq = x.spawnq := rfl
@[simp] theorem Group.clean_spawnc (x : Group) (n : RegName) : (x.clean n).spawnc = x.spawnc := rfl
@[simp] theorem Group.clean_spawnAt (x : Group) (n : RegName) : (x.clean n).spawnAt = x.spawnAt := rfl
@[simp] theorem Group.clean_arrived (x : Group) (n : RegName) : (x.clean n).arrived = x.arrived := rfl
@[simp] theorem Group.clean_owes (x : Group) (n : RegName) : (x.clean n).owes = x.owes := rfl
@[simp] theorem Group.clean_owesH (x : Group) (n : RegName) : (x.clean n).owesH = x.owesH := rfl
@[simp] theorem Group.clean_stop (x : Group) (n : RegName) : (x.clean n).stop = x.stop := rfl
@[simp] theorem Group.clean_waitw (x : Group) (n : RegName) : (x.clean n).waitw = x.waitw := rfl
@[simp] theorem Group.clean_waits (x : Group) (n : RegName) : (x.clean n).waits = x.waits := rfl
@[simp] theorem Group.clean_errs (x : Group) (n : RegName) : (x.clean n).errs = x.errs.filter fun k => !(k == n) := rfl
@[simp] theorem Group.clean_leftAt (x : Group) (n : RegName) : (x.clean n).leftAt = x.leftAt := rfl

/-! ### Later writes to a register of an outstanding result -/

@[simp] theorem Group.cut_die (x : Group) (n : Nat) (r : Operand) (m : LaneMask) : (x.cut n r m).die = x.die := rfl
@[simp] theorem Group.cut_core (x : Group) (n : Nat) (r : Operand) (m : LaneMask) : (x.cut n r m).core = x.core := rfl
@[simp] theorem Group.cut_slot (x : Group) (n : Nat) (r : Operand) (m : LaneMask) : (x.cut n r m).slot = x.slot := rfl
@[simp] theorem Group.cut_launch (x : Group) (n : Nat) (r : Operand) (m : LaneMask) : (x.cut n r m).launch = x.launch := rfl
@[simp] theorem Group.cut_team (x : Group) (n : Nat) (r : Operand) (m : LaneMask) : (x.cut n r m).team = x.team := rfl
@[simp] theorem Group.cut_ctx (x : Group) (n : Nat) (r : Operand) (m : LaneMask) : (x.cut n r m).ctx = x.ctx := rfl
@[simp] theorem Group.cut_spawned (x : Group) (n : Nat) (r : Operand) (m : LaneMask) : (x.cut n r m).spawned = x.spawned := rfl
@[simp] theorem Group.cut_run (x : Group) (n : Nat) (r : Operand) (m : LaneMask) : (x.cut n r m).run = x.run := rfl
@[simp] theorem Group.cut_s (x : Group) (n : Nat) (r : Operand) (m : LaneMask) : (x.cut n r m).s = x.s := rfl
@[simp] theorem Group.cut_v (x : Group) (n : Nat) (r : Operand) (m : LaneMask) : (x.cut n r m).v = x.v := rfl
@[simp] theorem Group.cut_k (x : Group) (n : Nat) (r : Operand) (m : LaneMask) : (x.cut n r m).k = x.k := rfl
@[simp] theorem Group.cut_h (x : Group) (n : Nat) (r : Operand) (m : LaneMask) : (x.cut n r m).h = x.h := rfl
@[simp] theorem Group.cut_valloc (x : Group) (n : Nat) (r : Operand) (m : LaneMask) : (x.cut n r m).valloc = x.valloc := rfl
@[simp] theorem Group.cut_pc (x : Group) (n : Nat) (r : Operand) (m : LaneMask) : (x.cut n r m).pc = x.pc := rfl
@[simp] theorem Group.cut_plane (x : Group) (n : Nat) (r : Operand) (m : LaneMask) : (x.cut n r m).plane = x.plane := rfl
@[simp] theorem Group.cut_fresh (x : Group) (n : Nat) (r : Operand) (m : LaneMask) : (x.cut n r m).fresh = x.fresh := rfl
@[simp] theorem Group.cut_issued (x : Group) (n : Nat) (r : Operand) (m : LaneMask) : (x.cut n r m).issued = x.issued := rfl
@[simp] theorem Group.cut_span (x : Group) (n : Nat) (r : Operand) (m : LaneMask) : (x.cut n r m).span = x.span := rfl
@[simp] theorem Group.cut_live (x : Group) (n : Nat) (r : Operand) (m : LaneMask) : (x.cut n r m).live = x.live := rfl
@[simp] theorem Group.cut_sc (x : Group) (n : Nat) (r : Operand) (m : LaneMask) : (x.cut n r m).sc = x.sc := rfl
@[simp] theorem Group.cut_status (x : Group) (n : Nat) (r : Operand) (m : LaneMask) : (x.cut n r m).status = x.status := rfl
@[simp] theorem Group.cut_exec (x : Group) (n : Nat) (r : Operand) (m : LaneMask) : (x.cut n r m).exec = x.exec := rfl
@[simp] theorem Group.cut_exitm (x : Group) (n : Nat) (r : Operand) (m : LaneMask) : (x.cut n r m).exitm = x.exitm := rfl
@[simp] theorem Group.cut_pln (x : Group) (n : Nat) (r : Operand) (m : LaneMask) : (x.cut n r m).pln = x.pln := rfl
@[simp] theorem Group.cut_fmt (x : Group) (n : Nat) (r : Operand) (m : LaneMask) : (x.cut n r m).fmt = x.fmt := rfl
@[simp] theorem Group.cut_wdog (x : Group) (n : Nat) (r : Operand) (m : LaneMask) : (x.cut n r m).wdog = x.wdog := rfl
@[simp] theorem Group.cut_wcnt (x : Group) (n : Nat) (r : Operand) (m : LaneMask) : (x.cut n r m).wcnt = x.wcnt := rfl
@[simp] theorem Group.cut_wdue (x : Group) (n : Nat) (r : Operand) (m : LaneMask) : (x.cut n r m).wdue = x.wdue := rfl
@[simp] theorem Group.cut_trapbase (x : Group) (n : Nat) (r : Operand) (m : LaneMask) : (x.cut n r m).trapbase = x.trapbase := rfl
@[simp] theorem Group.cut_xpc (x : Group) (n : Nat) (r : Operand) (m : LaneMask) : (x.cut n r m).xpc = x.xpc := rfl
@[simp] theorem Group.cut_xcause (x : Group) (n : Nat) (r : Operand) (m : LaneMask) : (x.cut n r m).xcause = x.xcause := rfl
@[simp] theorem Group.cut_xinfo (x : Group) (n : Nat) (r : Operand) (m : LaneMask) : (x.cut n r m).xinfo = x.xinfo := rfl
@[simp] theorem Group.cut_xscratch (x : Group) (n : Nat) (r : Operand) (m : LaneMask) : (x.cut n r m).xscratch = x.xscratch := rfl
@[simp] theorem Group.cut_groupid (x : Group) (n : Nat) (r : Operand) (m : LaneMask) : (x.cut n r m).groupid = x.groupid := rfl
@[simp] theorem Group.cut_teamid (x : Group) (n : Nat) (r : Operand) (m : LaneMask) : (x.cut n r m).teamid = x.teamid := rfl
@[simp] theorem Group.cut_clusterid (x : Group) (n : Nat) (r : Operand) (m : LaneMask) : (x.cut n r m).clusterid = x.clusterid := rfl
@[simp] theorem Group.cut_cbase (x : Group) (n : Nat) (r : Operand) (m : LaneMask) : (x.cut n r m).cbase = x.cbase := rfl
@[simp] theorem Group.cut_csize (x : Group) (n : Nat) (r : Operand) (m : LaneMask) : (x.cut n r m).csize = x.csize := rfl
@[simp] theorem Group.cut_regions (x : Group) (n : Nat) (r : Operand) (m : LaneMask) : (x.cut n r m).regions = x.regions := rfl
@[simp] theorem Group.cut_log (x : Group) (n : Nat) (r : Operand) (m : LaneMask) : (x.cut n r m).log = x.log.map fun p => if p.seq < n then p.cut r m else p := rfl
@[simp] theorem Group.cut_fifo (x : Group) (n : Nat) (r : Operand) (m : LaneMask) : (x.cut n r m).fifo = x.fifo := rfl
@[simp] theorem Group.cut_seq (x : Group) (n : Nat) (r : Operand) (m : LaneMask) : (x.cut n r m).seq = x.seq := rfl
@[simp] theorem Group.cut_stores (x : Group) (n : Nat) (r : Operand) (m : LaneMask) : (x.cut n r m).stores = x.stores := rfl
@[simp] theorem Group.cut_fences (x : Group) (n : Nat) (r : Operand) (m : LaneMask) : (x.cut n r m).fences = x.fences := rfl
@[simp] theorem Group.cut_cflush (x : Group) (n : Nat) (r : Operand) (m : LaneMask) : (x.cut n r m).cflush = x.cflush := rfl
@[simp] theorem Group.cut_deferred (x : Group) (n : Nat) (r : Operand) (m : LaneMask) : (x.cut n r m).deferred = x.deferred := rfl
@[simp] theorem Group.cut_settled (x : Group) (n : Nat) (r : Operand) (m : LaneMask) : (x.cut n r m).settled = x.settled := rfl
@[simp] theorem Group.cut_grant (x : Group) (n : Nat) (r : Operand) (m : LaneMask) : (x.cut n r m).grant = x.grant := rfl
@[simp] theorem Group.cut_spawnq (x : Group) (n : Nat) (r : Operand) (m : LaneMask) : (x.cut n r m).spawnq = x.spawnq := rfl
@[simp] theorem Group.cut_spawnc (x : Group) (n : Nat) (r : Operand) (m : LaneMask) : (x.cut n r m).spawnc = x.spawnc := rfl
@[simp] theorem Group.cut_spawnAt (x : Group) (n : Nat) (r : Operand) (m : LaneMask) : (x.cut n r m).spawnAt = x.spawnAt := rfl
@[simp] theorem Group.cut_arrived (x : Group) (n : Nat) (r : Operand) (m : LaneMask) : (x.cut n r m).arrived = x.arrived := rfl
@[simp] theorem Group.cut_owes (x : Group) (n : Nat) (r : Operand) (m : LaneMask) : (x.cut n r m).owes = x.owes := rfl
@[simp] theorem Group.cut_owesH (x : Group) (n : Nat) (r : Operand) (m : LaneMask) : (x.cut n r m).owesH = x.owesH := rfl
@[simp] theorem Group.cut_stop (x : Group) (n : Nat) (r : Operand) (m : LaneMask) : (x.cut n r m).stop = x.stop := rfl
@[simp] theorem Group.cut_waitw (x : Group) (n : Nat) (r : Operand) (m : LaneMask) : (x.cut n r m).waitw = x.waitw := rfl
@[simp] theorem Group.cut_waits (x : Group) (n : Nat) (r : Operand) (m : LaneMask) : (x.cut n r m).waits = x.waits := rfl
@[simp] theorem Group.cut_errs (x : Group) (n : Nat) (r : Operand) (m : LaneMask) : (x.cut n r m).errs = x.errs := rfl
@[simp] theorem Group.cut_leftAt (x : Group) (n : Nat) (r : Operand) (m : LaneMask) : (x.cut n r m).leftAt = x.leftAt := rfl

/-! ### A V register, without the outstanding results -/

@[simp] theorem Group.putV_die (x : Group) (n : Fin 128) (m : LaneMask) (f : Lane → Word) : (x.putV n m f).die = x.die := rfl
@[simp] theorem Group.putV_core (x : Group) (n : Fin 128) (m : LaneMask) (f : Lane → Word) : (x.putV n m f).core = x.core := rfl
@[simp] theorem Group.putV_slot (x : Group) (n : Fin 128) (m : LaneMask) (f : Lane → Word) : (x.putV n m f).slot = x.slot := rfl
@[simp] theorem Group.putV_launch (x : Group) (n : Fin 128) (m : LaneMask) (f : Lane → Word) : (x.putV n m f).launch = x.launch := rfl
@[simp] theorem Group.putV_team (x : Group) (n : Fin 128) (m : LaneMask) (f : Lane → Word) : (x.putV n m f).team = x.team := rfl
@[simp] theorem Group.putV_ctx (x : Group) (n : Fin 128) (m : LaneMask) (f : Lane → Word) : (x.putV n m f).ctx = x.ctx := rfl
@[simp] theorem Group.putV_spawned (x : Group) (n : Fin 128) (m : LaneMask) (f : Lane → Word) : (x.putV n m f).spawned = x.spawned := rfl
@[simp] theorem Group.putV_run (x : Group) (n : Fin 128) (m : LaneMask) (f : Lane → Word) : (x.putV n m f).run = x.run := rfl
@[simp] theorem Group.putV_s (x : Group) (n : Fin 128) (m : LaneMask) (f : Lane → Word) : (x.putV n m f).s = x.s := rfl
@[simp] theorem Group.putV_v (x : Group) (n : Fin 128) (m : LaneMask) (f : Lane → Word) : (x.putV n m f).v = x.v.set n (Vector.ofFn fun i => if m.getLsbD i.val then f i else (x.v.get n).get i) := rfl
@[simp] theorem Group.putV_k (x : Group) (n : Fin 128) (m : LaneMask) (f : Lane → Word) : (x.putV n m f).k = x.k := rfl
@[simp] theorem Group.putV_h (x : Group) (n : Fin 128) (m : LaneMask) (f : Lane → Word) : (x.putV n m f).h = x.h := rfl
@[simp] theorem Group.putV_valloc (x : Group) (n : Fin 128) (m : LaneMask) (f : Lane → Word) : (x.putV n m f).valloc = x.valloc := rfl
@[simp] theorem Group.putV_pc (x : Group) (n : Fin 128) (m : LaneMask) (f : Lane → Word) : (x.putV n m f).pc = x.pc := rfl
@[simp] theorem Group.putV_plane (x : Group) (n : Fin 128) (m : LaneMask) (f : Lane → Word) : (x.putV n m f).plane = x.plane := rfl
@[simp] theorem Group.putV_fresh (x : Group) (n : Fin 128) (m : LaneMask) (f : Lane → Word) : (x.putV n m f).fresh = x.fresh := rfl
@[simp] theorem Group.putV_issued (x : Group) (n : Fin 128) (m : LaneMask) (f : Lane → Word) : (x.putV n m f).issued = x.issued := rfl
@[simp] theorem Group.putV_span (x : Group) (n : Fin 128) (m : LaneMask) (f : Lane → Word) : (x.putV n m f).span = x.span := rfl
@[simp] theorem Group.putV_live (x : Group) (n : Fin 128) (m : LaneMask) (f : Lane → Word) : (x.putV n m f).live = x.live := rfl
@[simp] theorem Group.putV_sc (x : Group) (n : Fin 128) (m : LaneMask) (f : Lane → Word) : (x.putV n m f).sc = x.sc := rfl
@[simp] theorem Group.putV_status (x : Group) (n : Fin 128) (m : LaneMask) (f : Lane → Word) : (x.putV n m f).status = x.status := rfl
@[simp] theorem Group.putV_exec (x : Group) (n : Fin 128) (m : LaneMask) (f : Lane → Word) : (x.putV n m f).exec = x.exec := rfl
@[simp] theorem Group.putV_exitm (x : Group) (n : Fin 128) (m : LaneMask) (f : Lane → Word) : (x.putV n m f).exitm = x.exitm := rfl
@[simp] theorem Group.putV_pln (x : Group) (n : Fin 128) (m : LaneMask) (f : Lane → Word) : (x.putV n m f).pln = x.pln := rfl
@[simp] theorem Group.putV_fmt (x : Group) (n : Fin 128) (m : LaneMask) (f : Lane → Word) : (x.putV n m f).fmt = x.fmt := rfl
@[simp] theorem Group.putV_wdog (x : Group) (n : Fin 128) (m : LaneMask) (f : Lane → Word) : (x.putV n m f).wdog = x.wdog := rfl
@[simp] theorem Group.putV_wcnt (x : Group) (n : Fin 128) (m : LaneMask) (f : Lane → Word) : (x.putV n m f).wcnt = x.wcnt := rfl
@[simp] theorem Group.putV_wdue (x : Group) (n : Fin 128) (m : LaneMask) (f : Lane → Word) : (x.putV n m f).wdue = x.wdue := rfl
@[simp] theorem Group.putV_trapbase (x : Group) (n : Fin 128) (m : LaneMask) (f : Lane → Word) : (x.putV n m f).trapbase = x.trapbase := rfl
@[simp] theorem Group.putV_xpc (x : Group) (n : Fin 128) (m : LaneMask) (f : Lane → Word) : (x.putV n m f).xpc = x.xpc := rfl
@[simp] theorem Group.putV_xcause (x : Group) (n : Fin 128) (m : LaneMask) (f : Lane → Word) : (x.putV n m f).xcause = x.xcause := rfl
@[simp] theorem Group.putV_xinfo (x : Group) (n : Fin 128) (m : LaneMask) (f : Lane → Word) : (x.putV n m f).xinfo = x.xinfo := rfl
@[simp] theorem Group.putV_xscratch (x : Group) (n : Fin 128) (m : LaneMask) (f : Lane → Word) : (x.putV n m f).xscratch = x.xscratch := rfl
@[simp] theorem Group.putV_groupid (x : Group) (n : Fin 128) (m : LaneMask) (f : Lane → Word) : (x.putV n m f).groupid = x.groupid := rfl
@[simp] theorem Group.putV_teamid (x : Group) (n : Fin 128) (m : LaneMask) (f : Lane → Word) : (x.putV n m f).teamid = x.teamid := rfl
@[simp] theorem Group.putV_clusterid (x : Group) (n : Fin 128) (m : LaneMask) (f : Lane → Word) : (x.putV n m f).clusterid = x.clusterid := rfl
@[simp] theorem Group.putV_cbase (x : Group) (n : Fin 128) (m : LaneMask) (f : Lane → Word) : (x.putV n m f).cbase = x.cbase := rfl
@[simp] theorem Group.putV_csize (x : Group) (n : Fin 128) (m : LaneMask) (f : Lane → Word) : (x.putV n m f).csize = x.csize := rfl
@[simp] theorem Group.putV_regions (x : Group) (n : Fin 128) (m : LaneMask) (f : Lane → Word) : (x.putV n m f).regions = x.regions := rfl
@[simp] theorem Group.putV_log (x : Group) (n : Fin 128) (m : LaneMask) (f : Lane → Word) : (x.putV n m f).log = x.log := rfl
@[simp] theorem Group.putV_fifo (x : Group) (n : Fin 128) (m : LaneMask) (f : Lane → Word) : (x.putV n m f).fifo = x.fifo := rfl
@[simp] theorem Group.putV_seq (x : Group) (n : Fin 128) (m : LaneMask) (f : Lane → Word) : (x.putV n m f).seq = x.seq := rfl
@[simp] theorem Group.putV_stores (x : Group) (n : Fin 128) (m : LaneMask) (f : Lane → Word) : (x.putV n m f).stores = x.stores := rfl
@[simp] theorem Group.putV_fences (x : Group) (n : Fin 128) (m : LaneMask) (f : Lane → Word) : (x.putV n m f).fences = x.fences := rfl
@[simp] theorem Group.putV_cflush (x : Group) (n : Fin 128) (m : LaneMask) (f : Lane → Word) : (x.putV n m f).cflush = x.cflush := rfl
@[simp] theorem Group.putV_deferred (x : Group) (n : Fin 128) (m : LaneMask) (f : Lane → Word) : (x.putV n m f).deferred = x.deferred := rfl
@[simp] theorem Group.putV_settled (x : Group) (n : Fin 128) (m : LaneMask) (f : Lane → Word) : (x.putV n m f).settled = x.settled := rfl
@[simp] theorem Group.putV_grant (x : Group) (n : Fin 128) (m : LaneMask) (f : Lane → Word) : (x.putV n m f).grant = x.grant := rfl
@[simp] theorem Group.putV_spawnq (x : Group) (n : Fin 128) (m : LaneMask) (f : Lane → Word) : (x.putV n m f).spawnq = x.spawnq := rfl
@[simp] theorem Group.putV_spawnc (x : Group) (n : Fin 128) (m : LaneMask) (f : Lane → Word) : (x.putV n m f).spawnc = x.spawnc := rfl
@[simp] theorem Group.putV_spawnAt (x : Group) (n : Fin 128) (m : LaneMask) (f : Lane → Word) : (x.putV n m f).spawnAt = x.spawnAt := rfl
@[simp] theorem Group.putV_arrived (x : Group) (n : Fin 128) (m : LaneMask) (f : Lane → Word) : (x.putV n m f).arrived = x.arrived := rfl
@[simp] theorem Group.putV_owes (x : Group) (n : Fin 128) (m : LaneMask) (f : Lane → Word) : (x.putV n m f).owes = x.owes := rfl
@[simp] theorem Group.putV_owesH (x : Group) (n : Fin 128) (m : LaneMask) (f : Lane → Word) : (x.putV n m f).owesH = x.owesH := rfl
@[simp] theorem Group.putV_stop (x : Group) (n : Fin 128) (m : LaneMask) (f : Lane → Word) : (x.putV n m f).stop = x.stop := rfl
@[simp] theorem Group.putV_waitw (x : Group) (n : Fin 128) (m : LaneMask) (f : Lane → Word) : (x.putV n m f).waitw = x.waitw := rfl
@[simp] theorem Group.putV_waits (x : Group) (n : Fin 128) (m : LaneMask) (f : Lane → Word) : (x.putV n m f).waits = x.waits := rfl
@[simp] theorem Group.putV_leftAt (x : Group) (n : Fin 128) (m : LaneMask) (f : Lane → Word) : (x.putV n m f).leftAt = x.leftAt := rfl

/-! ### A V register -/

@[simp] theorem Group.writeV_die (x : Group) (n : Fin 128) (m : LaneMask) (f : Lane → Word) : (x.writeV n m f).die = x.die := rfl
@[simp] theorem Group.writeV_core (x : Group) (n : Fin 128) (m : LaneMask) (f : Lane → Word) : (x.writeV n m f).core = x.core := rfl
@[simp] theorem Group.writeV_slot (x : Group) (n : Fin 128) (m : LaneMask) (f : Lane → Word) : (x.writeV n m f).slot = x.slot := rfl
@[simp] theorem Group.writeV_launch (x : Group) (n : Fin 128) (m : LaneMask) (f : Lane → Word) : (x.writeV n m f).launch = x.launch := rfl
@[simp] theorem Group.writeV_team (x : Group) (n : Fin 128) (m : LaneMask) (f : Lane → Word) : (x.writeV n m f).team = x.team := rfl
@[simp] theorem Group.writeV_ctx (x : Group) (n : Fin 128) (m : LaneMask) (f : Lane → Word) : (x.writeV n m f).ctx = x.ctx := rfl
@[simp] theorem Group.writeV_spawned (x : Group) (n : Fin 128) (m : LaneMask) (f : Lane → Word) : (x.writeV n m f).spawned = x.spawned := rfl
@[simp] theorem Group.writeV_run (x : Group) (n : Fin 128) (m : LaneMask) (f : Lane → Word) : (x.writeV n m f).run = x.run := rfl
@[simp] theorem Group.writeV_s (x : Group) (n : Fin 128) (m : LaneMask) (f : Lane → Word) : (x.writeV n m f).s = x.s := rfl
@[simp] theorem Group.writeV_v (x : Group) (n : Fin 128) (m : LaneMask) (f : Lane → Word) : (x.writeV n m f).v = (x.putV n m f).v := rfl
@[simp] theorem Group.writeV_k (x : Group) (n : Fin 128) (m : LaneMask) (f : Lane → Word) : (x.writeV n m f).k = x.k := rfl
@[simp] theorem Group.writeV_h (x : Group) (n : Fin 128) (m : LaneMask) (f : Lane → Word) : (x.writeV n m f).h = x.h := rfl
@[simp] theorem Group.writeV_valloc (x : Group) (n : Fin 128) (m : LaneMask) (f : Lane → Word) : (x.writeV n m f).valloc = x.valloc := rfl
@[simp] theorem Group.writeV_pc (x : Group) (n : Fin 128) (m : LaneMask) (f : Lane → Word) : (x.writeV n m f).pc = x.pc := rfl
@[simp] theorem Group.writeV_plane (x : Group) (n : Fin 128) (m : LaneMask) (f : Lane → Word) : (x.writeV n m f).plane = x.plane := rfl
@[simp] theorem Group.writeV_fresh (x : Group) (n : Fin 128) (m : LaneMask) (f : Lane → Word) : (x.writeV n m f).fresh = x.fresh := rfl
@[simp] theorem Group.writeV_issued (x : Group) (n : Fin 128) (m : LaneMask) (f : Lane → Word) : (x.writeV n m f).issued = x.issued := rfl
@[simp] theorem Group.writeV_span (x : Group) (n : Fin 128) (m : LaneMask) (f : Lane → Word) : (x.writeV n m f).span = x.span := rfl
@[simp] theorem Group.writeV_live (x : Group) (n : Fin 128) (m : LaneMask) (f : Lane → Word) : (x.writeV n m f).live = x.live := rfl
@[simp] theorem Group.writeV_sc (x : Group) (n : Fin 128) (m : LaneMask) (f : Lane → Word) : (x.writeV n m f).sc = x.sc := rfl
@[simp] theorem Group.writeV_status (x : Group) (n : Fin 128) (m : LaneMask) (f : Lane → Word) : (x.writeV n m f).status = x.status := rfl
@[simp] theorem Group.writeV_exec (x : Group) (n : Fin 128) (m : LaneMask) (f : Lane → Word) : (x.writeV n m f).exec = x.exec := rfl
@[simp] theorem Group.writeV_exitm (x : Group) (n : Fin 128) (m : LaneMask) (f : Lane → Word) : (x.writeV n m f).exitm = x.exitm := rfl
@[simp] theorem Group.writeV_pln (x : Group) (n : Fin 128) (m : LaneMask) (f : Lane → Word) : (x.writeV n m f).pln = x.pln := rfl
@[simp] theorem Group.writeV_fmt (x : Group) (n : Fin 128) (m : LaneMask) (f : Lane → Word) : (x.writeV n m f).fmt = x.fmt := rfl
@[simp] theorem Group.writeV_wdog (x : Group) (n : Fin 128) (m : LaneMask) (f : Lane → Word) : (x.writeV n m f).wdog = x.wdog := rfl
@[simp] theorem Group.writeV_wcnt (x : Group) (n : Fin 128) (m : LaneMask) (f : Lane → Word) : (x.writeV n m f).wcnt = x.wcnt := rfl
@[simp] theorem Group.writeV_wdue (x : Group) (n : Fin 128) (m : LaneMask) (f : Lane → Word) : (x.writeV n m f).wdue = x.wdue := rfl
@[simp] theorem Group.writeV_trapbase (x : Group) (n : Fin 128) (m : LaneMask) (f : Lane → Word) : (x.writeV n m f).trapbase = x.trapbase := rfl
@[simp] theorem Group.writeV_xpc (x : Group) (n : Fin 128) (m : LaneMask) (f : Lane → Word) : (x.writeV n m f).xpc = x.xpc := rfl
@[simp] theorem Group.writeV_xcause (x : Group) (n : Fin 128) (m : LaneMask) (f : Lane → Word) : (x.writeV n m f).xcause = x.xcause := rfl
@[simp] theorem Group.writeV_xinfo (x : Group) (n : Fin 128) (m : LaneMask) (f : Lane → Word) : (x.writeV n m f).xinfo = x.xinfo := rfl
@[simp] theorem Group.writeV_xscratch (x : Group) (n : Fin 128) (m : LaneMask) (f : Lane → Word) : (x.writeV n m f).xscratch = x.xscratch := rfl
@[simp] theorem Group.writeV_groupid (x : Group) (n : Fin 128) (m : LaneMask) (f : Lane → Word) : (x.writeV n m f).groupid = x.groupid := rfl
@[simp] theorem Group.writeV_teamid (x : Group) (n : Fin 128) (m : LaneMask) (f : Lane → Word) : (x.writeV n m f).teamid = x.teamid := rfl
@[simp] theorem Group.writeV_clusterid (x : Group) (n : Fin 128) (m : LaneMask) (f : Lane → Word) : (x.writeV n m f).clusterid = x.clusterid := rfl
@[simp] theorem Group.writeV_cbase (x : Group) (n : Fin 128) (m : LaneMask) (f : Lane → Word) : (x.writeV n m f).cbase = x.cbase := rfl
@[simp] theorem Group.writeV_csize (x : Group) (n : Fin 128) (m : LaneMask) (f : Lane → Word) : (x.writeV n m f).csize = x.csize := rfl
@[simp] theorem Group.writeV_regions (x : Group) (n : Fin 128) (m : LaneMask) (f : Lane → Word) : (x.writeV n m f).regions = x.regions := rfl
@[simp] theorem Group.writeV_log (x : Group) (n : Fin 128) (m : LaneMask) (f : Lane → Word) : (x.writeV n m f).log = (x.cut x.seq (.v n) m).log := rfl
@[simp] theorem Group.writeV_fifo (x : Group) (n : Fin 128) (m : LaneMask) (f : Lane → Word) : (x.writeV n m f).fifo = x.fifo := rfl
@[simp] theorem Group.writeV_seq (x : Group) (n : Fin 128) (m : LaneMask) (f : Lane → Word) : (x.writeV n m f).seq = x.seq := rfl
@[simp] theorem Group.writeV_stores (x : Group) (n : Fin 128) (m : LaneMask) (f : Lane → Word) : (x.writeV n m f).stores = x.stores := rfl
@[simp] theorem Group.writeV_fences (x : Group) (n : Fin 128) (m : LaneMask) (f : Lane → Word) : (x.writeV n m f).fences = x.fences := rfl
@[simp] theorem Group.writeV_cflush (x : Group) (n : Fin 128) (m : LaneMask) (f : Lane → Word) : (x.writeV n m f).cflush = x.cflush := rfl
@[simp] theorem Group.writeV_deferred (x : Group) (n : Fin 128) (m : LaneMask) (f : Lane → Word) : (x.writeV n m f).deferred = x.deferred := rfl
@[simp] theorem Group.writeV_settled (x : Group) (n : Fin 128) (m : LaneMask) (f : Lane → Word) : (x.writeV n m f).settled = x.settled := rfl
@[simp] theorem Group.writeV_grant (x : Group) (n : Fin 128) (m : LaneMask) (f : Lane → Word) : (x.writeV n m f).grant = x.grant := rfl
@[simp] theorem Group.writeV_spawnq (x : Group) (n : Fin 128) (m : LaneMask) (f : Lane → Word) : (x.writeV n m f).spawnq = x.spawnq := rfl
@[simp] theorem Group.writeV_spawnc (x : Group) (n : Fin 128) (m : LaneMask) (f : Lane → Word) : (x.writeV n m f).spawnc = x.spawnc := rfl
@[simp] theorem Group.writeV_spawnAt (x : Group) (n : Fin 128) (m : LaneMask) (f : Lane → Word) : (x.writeV n m f).spawnAt = x.spawnAt := rfl
@[simp] theorem Group.writeV_arrived (x : Group) (n : Fin 128) (m : LaneMask) (f : Lane → Word) : (x.writeV n m f).arrived = x.arrived := rfl
@[simp] theorem Group.writeV_owes (x : Group) (n : Fin 128) (m : LaneMask) (f : Lane → Word) : (x.writeV n m f).owes = x.owes := rfl
@[simp] theorem Group.writeV_owesH (x : Group) (n : Fin 128) (m : LaneMask) (f : Lane → Word) : (x.writeV n m f).owesH = x.owesH := rfl
@[simp] theorem Group.writeV_stop (x : Group) (n : Fin 128) (m : LaneMask) (f : Lane → Word) : (x.writeV n m f).stop = x.stop := rfl
@[simp] theorem Group.writeV_waitw (x : Group) (n : Fin 128) (m : LaneMask) (f : Lane → Word) : (x.writeV n m f).waitw = x.waitw := rfl
@[simp] theorem Group.writeV_waits (x : Group) (n : Fin 128) (m : LaneMask) (f : Lane → Word) : (x.writeV n m f).waits = x.waits := rfl
@[simp] theorem Group.writeV_leftAt (x : Group) (n : Fin 128) (m : LaneMask) (f : Lane → Word) : (x.writeV n m f).leftAt = x.leftAt := rfl

/-! ### SC -/

@[simp] theorem Group.writeSc_die (x : Group) (f : BitVec 4) : (x.writeSc f).die = x.die := rfl
@[simp] theorem Group.writeSc_core (x : Group) (f : BitVec 4) : (x.writeSc f).core = x.core := rfl
@[simp] theorem Group.writeSc_slot (x : Group) (f : BitVec 4) : (x.writeSc f).slot = x.slot := rfl
@[simp] theorem Group.writeSc_launch (x : Group) (f : BitVec 4) : (x.writeSc f).launch = x.launch := rfl
@[simp] theorem Group.writeSc_team (x : Group) (f : BitVec 4) : (x.writeSc f).team = x.team := rfl
@[simp] theorem Group.writeSc_ctx (x : Group) (f : BitVec 4) : (x.writeSc f).ctx = x.ctx := rfl
@[simp] theorem Group.writeSc_spawned (x : Group) (f : BitVec 4) : (x.writeSc f).spawned = x.spawned := rfl
@[simp] theorem Group.writeSc_run (x : Group) (f : BitVec 4) : (x.writeSc f).run = x.run := rfl
@[simp] theorem Group.writeSc_s (x : Group) (f : BitVec 4) : (x.writeSc f).s = x.s := rfl
@[simp] theorem Group.writeSc_v (x : Group) (f : BitVec 4) : (x.writeSc f).v = x.v := rfl
@[simp] theorem Group.writeSc_k (x : Group) (f : BitVec 4) : (x.writeSc f).k = x.k := rfl
@[simp] theorem Group.writeSc_h (x : Group) (f : BitVec 4) : (x.writeSc f).h = x.h := rfl
@[simp] theorem Group.writeSc_valloc (x : Group) (f : BitVec 4) : (x.writeSc f).valloc = x.valloc := rfl
@[simp] theorem Group.writeSc_pc (x : Group) (f : BitVec 4) : (x.writeSc f).pc = x.pc := rfl
@[simp] theorem Group.writeSc_plane (x : Group) (f : BitVec 4) : (x.writeSc f).plane = x.plane := rfl
@[simp] theorem Group.writeSc_fresh (x : Group) (f : BitVec 4) : (x.writeSc f).fresh = x.fresh := rfl
@[simp] theorem Group.writeSc_issued (x : Group) (f : BitVec 4) : (x.writeSc f).issued = x.issued := rfl
@[simp] theorem Group.writeSc_span (x : Group) (f : BitVec 4) : (x.writeSc f).span = x.span := rfl
@[simp] theorem Group.writeSc_live (x : Group) (f : BitVec 4) : (x.writeSc f).live = x.live := rfl
@[simp] theorem Group.writeSc_sc (x : Group) (f : BitVec 4) : (x.writeSc f).sc = f := rfl
@[simp] theorem Group.writeSc_status (x : Group) (f : BitVec 4) : (x.writeSc f).status = x.status := rfl
@[simp] theorem Group.writeSc_exec (x : Group) (f : BitVec 4) : (x.writeSc f).exec = x.exec := rfl
@[simp] theorem Group.writeSc_exitm (x : Group) (f : BitVec 4) : (x.writeSc f).exitm = x.exitm := rfl
@[simp] theorem Group.writeSc_pln (x : Group) (f : BitVec 4) : (x.writeSc f).pln = x.pln := rfl
@[simp] theorem Group.writeSc_fmt (x : Group) (f : BitVec 4) : (x.writeSc f).fmt = x.fmt := rfl
@[simp] theorem Group.writeSc_wdog (x : Group) (f : BitVec 4) : (x.writeSc f).wdog = x.wdog := rfl
@[simp] theorem Group.writeSc_wcnt (x : Group) (f : BitVec 4) : (x.writeSc f).wcnt = x.wcnt := rfl
@[simp] theorem Group.writeSc_wdue (x : Group) (f : BitVec 4) : (x.writeSc f).wdue = x.wdue := rfl
@[simp] theorem Group.writeSc_trapbase (x : Group) (f : BitVec 4) : (x.writeSc f).trapbase = x.trapbase := rfl
@[simp] theorem Group.writeSc_xpc (x : Group) (f : BitVec 4) : (x.writeSc f).xpc = x.xpc := rfl
@[simp] theorem Group.writeSc_xcause (x : Group) (f : BitVec 4) : (x.writeSc f).xcause = x.xcause := rfl
@[simp] theorem Group.writeSc_xinfo (x : Group) (f : BitVec 4) : (x.writeSc f).xinfo = x.xinfo := rfl
@[simp] theorem Group.writeSc_xscratch (x : Group) (f : BitVec 4) : (x.writeSc f).xscratch = x.xscratch := rfl
@[simp] theorem Group.writeSc_groupid (x : Group) (f : BitVec 4) : (x.writeSc f).groupid = x.groupid := rfl
@[simp] theorem Group.writeSc_teamid (x : Group) (f : BitVec 4) : (x.writeSc f).teamid = x.teamid := rfl
@[simp] theorem Group.writeSc_clusterid (x : Group) (f : BitVec 4) : (x.writeSc f).clusterid = x.clusterid := rfl
@[simp] theorem Group.writeSc_cbase (x : Group) (f : BitVec 4) : (x.writeSc f).cbase = x.cbase := rfl
@[simp] theorem Group.writeSc_csize (x : Group) (f : BitVec 4) : (x.writeSc f).csize = x.csize := rfl
@[simp] theorem Group.writeSc_regions (x : Group) (f : BitVec 4) : (x.writeSc f).regions = x.regions := rfl
@[simp] theorem Group.writeSc_log (x : Group) (f : BitVec 4) : (x.writeSc f).log = (x.cut x.seq .sc 0).log := rfl
@[simp] theorem Group.writeSc_fifo (x : Group) (f : BitVec 4) : (x.writeSc f).fifo = x.fifo := rfl
@[simp] theorem Group.writeSc_seq (x : Group) (f : BitVec 4) : (x.writeSc f).seq = x.seq := rfl
@[simp] theorem Group.writeSc_stores (x : Group) (f : BitVec 4) : (x.writeSc f).stores = x.stores := rfl
@[simp] theorem Group.writeSc_fences (x : Group) (f : BitVec 4) : (x.writeSc f).fences = x.fences := rfl
@[simp] theorem Group.writeSc_cflush (x : Group) (f : BitVec 4) : (x.writeSc f).cflush = x.cflush := rfl
@[simp] theorem Group.writeSc_deferred (x : Group) (f : BitVec 4) : (x.writeSc f).deferred = x.deferred := rfl
@[simp] theorem Group.writeSc_settled (x : Group) (f : BitVec 4) : (x.writeSc f).settled = x.settled := rfl
@[simp] theorem Group.writeSc_grant (x : Group) (f : BitVec 4) : (x.writeSc f).grant = x.grant := rfl
@[simp] theorem Group.writeSc_spawnq (x : Group) (f : BitVec 4) : (x.writeSc f).spawnq = x.spawnq := rfl
@[simp] theorem Group.writeSc_spawnc (x : Group) (f : BitVec 4) : (x.writeSc f).spawnc = x.spawnc := rfl
@[simp] theorem Group.writeSc_spawnAt (x : Group) (f : BitVec 4) : (x.writeSc f).spawnAt = x.spawnAt := rfl
@[simp] theorem Group.writeSc_arrived (x : Group) (f : BitVec 4) : (x.writeSc f).arrived = x.arrived := rfl
@[simp] theorem Group.writeSc_owes (x : Group) (f : BitVec 4) : (x.writeSc f).owes = x.owes := rfl
@[simp] theorem Group.writeSc_owesH (x : Group) (f : BitVec 4) : (x.writeSc f).owesH = x.owesH := rfl
@[simp] theorem Group.writeSc_stop (x : Group) (f : BitVec 4) : (x.writeSc f).stop = x.stop := rfl
@[simp] theorem Group.writeSc_waitw (x : Group) (f : BitVec 4) : (x.writeSc f).waitw = x.waitw := rfl
@[simp] theorem Group.writeSc_waits (x : Group) (f : BitVec 4) : (x.writeSc f).waits = x.waits := rfl
@[simp] theorem Group.writeSc_leftAt (x : Group) (f : BitVec 4) : (x.writeSc f).leftAt = x.leftAt := rfl

/-! ### EXEC -/

@[simp] theorem Group.writeExec_die (x : Group) (m : LaneMask) : (x.writeExec m).die = x.die := rfl
@[simp] theorem Group.writeExec_core (x : Group) (m : LaneMask) : (x.writeExec m).core = x.core := rfl
@[simp] theorem Group.writeExec_slot (x : Group) (m : LaneMask) : (x.writeExec m).slot = x.slot := rfl
@[simp] theorem Group.writeExec_launch (x : Group) (m : LaneMask) : (x.writeExec m).launch = x.launch := rfl
@[simp] theorem Group.writeExec_team (x : Group) (m : LaneMask) : (x.writeExec m).team = x.team := rfl
@[simp] theorem Group.writeExec_ctx (x : Group) (m : LaneMask) : (x.writeExec m).ctx = x.ctx := rfl
@[simp] theorem Group.writeExec_spawned (x : Group) (m : LaneMask) : (x.writeExec m).spawned = x.spawned := rfl
@[simp] theorem Group.writeExec_run (x : Group) (m : LaneMask) : (x.writeExec m).run = x.run := rfl
@[simp] theorem Group.writeExec_s (x : Group) (m : LaneMask) : (x.writeExec m).s = x.s := rfl
@[simp] theorem Group.writeExec_v (x : Group) (m : LaneMask) : (x.writeExec m).v = x.v := rfl
@[simp] theorem Group.writeExec_k (x : Group) (m : LaneMask) : (x.writeExec m).k = x.k := rfl
@[simp] theorem Group.writeExec_h (x : Group) (m : LaneMask) : (x.writeExec m).h = x.h := rfl
@[simp] theorem Group.writeExec_valloc (x : Group) (m : LaneMask) : (x.writeExec m).valloc = x.valloc := rfl
@[simp] theorem Group.writeExec_pc (x : Group) (m : LaneMask) : (x.writeExec m).pc = x.pc := rfl
@[simp] theorem Group.writeExec_plane (x : Group) (m : LaneMask) : (x.writeExec m).plane = x.plane := rfl
@[simp] theorem Group.writeExec_fresh (x : Group) (m : LaneMask) : (x.writeExec m).fresh = x.fresh := rfl
@[simp] theorem Group.writeExec_issued (x : Group) (m : LaneMask) : (x.writeExec m).issued = x.issued := rfl
@[simp] theorem Group.writeExec_span (x : Group) (m : LaneMask) : (x.writeExec m).span = x.span := rfl
@[simp] theorem Group.writeExec_live (x : Group) (m : LaneMask) : (x.writeExec m).live = x.live := rfl
@[simp] theorem Group.writeExec_sc (x : Group) (m : LaneMask) : (x.writeExec m).sc = x.sc := rfl
@[simp] theorem Group.writeExec_status (x : Group) (m : LaneMask) : (x.writeExec m).status = x.status := rfl
@[simp] theorem Group.writeExec_exec (x : Group) (m : LaneMask) : (x.writeExec m).exec = m &&& ~~~x.exitm := rfl
@[simp] theorem Group.writeExec_exitm (x : Group) (m : LaneMask) : (x.writeExec m).exitm = x.exitm := rfl
@[simp] theorem Group.writeExec_pln (x : Group) (m : LaneMask) : (x.writeExec m).pln = x.pln := rfl
@[simp] theorem Group.writeExec_fmt (x : Group) (m : LaneMask) : (x.writeExec m).fmt = x.fmt := rfl
@[simp] theorem Group.writeExec_wdog (x : Group) (m : LaneMask) : (x.writeExec m).wdog = x.wdog := rfl
@[simp] theorem Group.writeExec_wcnt (x : Group) (m : LaneMask) : (x.writeExec m).wcnt = x.wcnt := rfl
@[simp] theorem Group.writeExec_wdue (x : Group) (m : LaneMask) : (x.writeExec m).wdue = x.wdue := rfl
@[simp] theorem Group.writeExec_trapbase (x : Group) (m : LaneMask) : (x.writeExec m).trapbase = x.trapbase := rfl
@[simp] theorem Group.writeExec_xpc (x : Group) (m : LaneMask) : (x.writeExec m).xpc = x.xpc := rfl
@[simp] theorem Group.writeExec_xcause (x : Group) (m : LaneMask) : (x.writeExec m).xcause = x.xcause := rfl
@[simp] theorem Group.writeExec_xinfo (x : Group) (m : LaneMask) : (x.writeExec m).xinfo = x.xinfo := rfl
@[simp] theorem Group.writeExec_xscratch (x : Group) (m : LaneMask) : (x.writeExec m).xscratch = x.xscratch := rfl
@[simp] theorem Group.writeExec_groupid (x : Group) (m : LaneMask) : (x.writeExec m).groupid = x.groupid := rfl
@[simp] theorem Group.writeExec_teamid (x : Group) (m : LaneMask) : (x.writeExec m).teamid = x.teamid := rfl
@[simp] theorem Group.writeExec_clusterid (x : Group) (m : LaneMask) : (x.writeExec m).clusterid = x.clusterid := rfl
@[simp] theorem Group.writeExec_cbase (x : Group) (m : LaneMask) : (x.writeExec m).cbase = x.cbase := rfl
@[simp] theorem Group.writeExec_csize (x : Group) (m : LaneMask) : (x.writeExec m).csize = x.csize := rfl
@[simp] theorem Group.writeExec_regions (x : Group) (m : LaneMask) : (x.writeExec m).regions = x.regions := rfl
@[simp] theorem Group.writeExec_log (x : Group) (m : LaneMask) : (x.writeExec m).log = x.log := rfl
@[simp] theorem Group.writeExec_fifo (x : Group) (m : LaneMask) : (x.writeExec m).fifo = x.fifo := rfl
@[simp] theorem Group.writeExec_seq (x : Group) (m : LaneMask) : (x.writeExec m).seq = x.seq := rfl
@[simp] theorem Group.writeExec_stores (x : Group) (m : LaneMask) : (x.writeExec m).stores = x.stores := rfl
@[simp] theorem Group.writeExec_fences (x : Group) (m : LaneMask) : (x.writeExec m).fences = x.fences := rfl
@[simp] theorem Group.writeExec_cflush (x : Group) (m : LaneMask) : (x.writeExec m).cflush = x.cflush := rfl
@[simp] theorem Group.writeExec_deferred (x : Group) (m : LaneMask) : (x.writeExec m).deferred = x.deferred := rfl
@[simp] theorem Group.writeExec_settled (x : Group) (m : LaneMask) : (x.writeExec m).settled = x.settled := rfl
@[simp] theorem Group.writeExec_grant (x : Group) (m : LaneMask) : (x.writeExec m).grant = x.grant := rfl
@[simp] theorem Group.writeExec_spawnq (x : Group) (m : LaneMask) : (x.writeExec m).spawnq = x.spawnq := rfl
@[simp] theorem Group.writeExec_spawnc (x : Group) (m : LaneMask) : (x.writeExec m).spawnc = x.spawnc := rfl
@[simp] theorem Group.writeExec_spawnAt (x : Group) (m : LaneMask) : (x.writeExec m).spawnAt = x.spawnAt := rfl
@[simp] theorem Group.writeExec_arrived (x : Group) (m : LaneMask) : (x.writeExec m).arrived = x.arrived := rfl
@[simp] theorem Group.writeExec_owes (x : Group) (m : LaneMask) : (x.writeExec m).owes = x.owes := rfl
@[simp] theorem Group.writeExec_owesH (x : Group) (m : LaneMask) : (x.writeExec m).owesH = x.owesH := rfl
@[simp] theorem Group.writeExec_stop (x : Group) (m : LaneMask) : (x.writeExec m).stop = x.stop := rfl
@[simp] theorem Group.writeExec_waitw (x : Group) (m : LaneMask) : (x.writeExec m).waitw = x.waitw := rfl
@[simp] theorem Group.writeExec_waits (x : Group) (m : LaneMask) : (x.writeExec m).waits = x.waits := rfl
@[simp] theorem Group.writeExec_leftAt (x : Group) (m : LaneMask) : (x.writeExec m).leftAt = x.leftAt := rfl

/-! ### STATUS: setTm -/

@[simp] theorem Group.setTm_die (x : Group) (b : Bool) : (x.setTm b).die = x.die := rfl
@[simp] theorem Group.setTm_core (x : Group) (b : Bool) : (x.setTm b).core = x.core := rfl
@[simp] theorem Group.setTm_slot (x : Group) (b : Bool) : (x.setTm b).slot = x.slot := rfl
@[simp] theorem Group.setTm_launch (x : Group) (b : Bool) : (x.setTm b).launch = x.launch := rfl
@[simp] theorem Group.setTm_team (x : Group) (b : Bool) : (x.setTm b).team = x.team := rfl
@[simp] theorem Group.setTm_ctx (x : Group) (b : Bool) : (x.setTm b).ctx = x.ctx := rfl
@[simp] theorem Group.setTm_spawned (x : Group) (b : Bool) : (x.setTm b).spawned = x.spawned := rfl
@[simp] theorem Group.setTm_run (x : Group) (b : Bool) : (x.setTm b).run = x.run := rfl
@[simp] theorem Group.setTm_s (x : Group) (b : Bool) : (x.setTm b).s = x.s := rfl
@[simp] theorem Group.setTm_v (x : Group) (b : Bool) : (x.setTm b).v = x.v := rfl
@[simp] theorem Group.setTm_k (x : Group) (b : Bool) : (x.setTm b).k = x.k := rfl
@[simp] theorem Group.setTm_h (x : Group) (b : Bool) : (x.setTm b).h = x.h := rfl
@[simp] theorem Group.setTm_valloc (x : Group) (b : Bool) : (x.setTm b).valloc = x.valloc := rfl
@[simp] theorem Group.setTm_pc (x : Group) (b : Bool) : (x.setTm b).pc = x.pc := rfl
@[simp] theorem Group.setTm_plane (x : Group) (b : Bool) : (x.setTm b).plane = x.plane := rfl
@[simp] theorem Group.setTm_fresh (x : Group) (b : Bool) : (x.setTm b).fresh = x.fresh := rfl
@[simp] theorem Group.setTm_issued (x : Group) (b : Bool) : (x.setTm b).issued = x.issued := rfl
@[simp] theorem Group.setTm_span (x : Group) (b : Bool) : (x.setTm b).span = x.span := rfl
@[simp] theorem Group.setTm_live (x : Group) (b : Bool) : (x.setTm b).live = x.live := rfl
@[simp] theorem Group.setTm_sc (x : Group) (b : Bool) : (x.setTm b).sc = x.sc := rfl
@[simp] theorem Group.setTm_status (x : Group) (b : Bool) : (x.setTm b).status = mkStatus x.ssc x.wdx x.plerr b := rfl
@[simp] theorem Group.setTm_exec (x : Group) (b : Bool) : (x.setTm b).exec = x.exec := rfl
@[simp] theorem Group.setTm_exitm (x : Group) (b : Bool) : (x.setTm b).exitm = x.exitm := rfl
@[simp] theorem Group.setTm_pln (x : Group) (b : Bool) : (x.setTm b).pln = x.pln := rfl
@[simp] theorem Group.setTm_fmt (x : Group) (b : Bool) : (x.setTm b).fmt = x.fmt := rfl
@[simp] theorem Group.setTm_wdog (x : Group) (b : Bool) : (x.setTm b).wdog = x.wdog := rfl
@[simp] theorem Group.setTm_wcnt (x : Group) (b : Bool) : (x.setTm b).wcnt = x.wcnt := rfl
@[simp] theorem Group.setTm_wdue (x : Group) (b : Bool) : (x.setTm b).wdue = x.wdue := rfl
@[simp] theorem Group.setTm_trapbase (x : Group) (b : Bool) : (x.setTm b).trapbase = x.trapbase := rfl
@[simp] theorem Group.setTm_xpc (x : Group) (b : Bool) : (x.setTm b).xpc = x.xpc := rfl
@[simp] theorem Group.setTm_xcause (x : Group) (b : Bool) : (x.setTm b).xcause = x.xcause := rfl
@[simp] theorem Group.setTm_xinfo (x : Group) (b : Bool) : (x.setTm b).xinfo = x.xinfo := rfl
@[simp] theorem Group.setTm_xscratch (x : Group) (b : Bool) : (x.setTm b).xscratch = x.xscratch := rfl
@[simp] theorem Group.setTm_groupid (x : Group) (b : Bool) : (x.setTm b).groupid = x.groupid := rfl
@[simp] theorem Group.setTm_teamid (x : Group) (b : Bool) : (x.setTm b).teamid = x.teamid := rfl
@[simp] theorem Group.setTm_clusterid (x : Group) (b : Bool) : (x.setTm b).clusterid = x.clusterid := rfl
@[simp] theorem Group.setTm_cbase (x : Group) (b : Bool) : (x.setTm b).cbase = x.cbase := rfl
@[simp] theorem Group.setTm_csize (x : Group) (b : Bool) : (x.setTm b).csize = x.csize := rfl
@[simp] theorem Group.setTm_regions (x : Group) (b : Bool) : (x.setTm b).regions = x.regions := rfl
@[simp] theorem Group.setTm_log (x : Group) (b : Bool) : (x.setTm b).log = x.log := rfl
@[simp] theorem Group.setTm_fifo (x : Group) (b : Bool) : (x.setTm b).fifo = x.fifo := rfl
@[simp] theorem Group.setTm_seq (x : Group) (b : Bool) : (x.setTm b).seq = x.seq := rfl
@[simp] theorem Group.setTm_stores (x : Group) (b : Bool) : (x.setTm b).stores = x.stores := rfl
@[simp] theorem Group.setTm_fences (x : Group) (b : Bool) : (x.setTm b).fences = x.fences := rfl
@[simp] theorem Group.setTm_cflush (x : Group) (b : Bool) : (x.setTm b).cflush = x.cflush := rfl
@[simp] theorem Group.setTm_deferred (x : Group) (b : Bool) : (x.setTm b).deferred = x.deferred := rfl
@[simp] theorem Group.setTm_settled (x : Group) (b : Bool) : (x.setTm b).settled = x.settled := rfl
@[simp] theorem Group.setTm_grant (x : Group) (b : Bool) : (x.setTm b).grant = x.grant := rfl
@[simp] theorem Group.setTm_spawnq (x : Group) (b : Bool) : (x.setTm b).spawnq = x.spawnq := rfl
@[simp] theorem Group.setTm_spawnc (x : Group) (b : Bool) : (x.setTm b).spawnc = x.spawnc := rfl
@[simp] theorem Group.setTm_spawnAt (x : Group) (b : Bool) : (x.setTm b).spawnAt = x.spawnAt := rfl
@[simp] theorem Group.setTm_arrived (x : Group) (b : Bool) : (x.setTm b).arrived = x.arrived := rfl
@[simp] theorem Group.setTm_owes (x : Group) (b : Bool) : (x.setTm b).owes = x.owes := rfl
@[simp] theorem Group.setTm_owesH (x : Group) (b : Bool) : (x.setTm b).owesH = x.owesH := rfl
@[simp] theorem Group.setTm_stop (x : Group) (b : Bool) : (x.setTm b).stop = x.stop := rfl
@[simp] theorem Group.setTm_waitw (x : Group) (b : Bool) : (x.setTm b).waitw = x.waitw := rfl
@[simp] theorem Group.setTm_waits (x : Group) (b : Bool) : (x.setTm b).waits = x.waits := rfl
@[simp] theorem Group.setTm_errs (x : Group) (b : Bool) : (x.setTm b).errs = x.errs := rfl
@[simp] theorem Group.setTm_leftAt (x : Group) (b : Bool) : (x.setTm b).leftAt = x.leftAt := rfl

/-! ### STATUS: setWdx -/

@[simp] theorem Group.setWdx_die (x : Group) (b : Bool) : (x.setWdx b).die = x.die := rfl
@[simp] theorem Group.setWdx_core (x : Group) (b : Bool) : (x.setWdx b).core = x.core := rfl
@[simp] theorem Group.setWdx_slot (x : Group) (b : Bool) : (x.setWdx b).slot = x.slot := rfl
@[simp] theorem Group.setWdx_launch (x : Group) (b : Bool) : (x.setWdx b).launch = x.launch := rfl
@[simp] theorem Group.setWdx_team (x : Group) (b : Bool) : (x.setWdx b).team = x.team := rfl
@[simp] theorem Group.setWdx_ctx (x : Group) (b : Bool) : (x.setWdx b).ctx = x.ctx := rfl
@[simp] theorem Group.setWdx_spawned (x : Group) (b : Bool) : (x.setWdx b).spawned = x.spawned := rfl
@[simp] theorem Group.setWdx_run (x : Group) (b : Bool) : (x.setWdx b).run = x.run := rfl
@[simp] theorem Group.setWdx_s (x : Group) (b : Bool) : (x.setWdx b).s = x.s := rfl
@[simp] theorem Group.setWdx_v (x : Group) (b : Bool) : (x.setWdx b).v = x.v := rfl
@[simp] theorem Group.setWdx_k (x : Group) (b : Bool) : (x.setWdx b).k = x.k := rfl
@[simp] theorem Group.setWdx_h (x : Group) (b : Bool) : (x.setWdx b).h = x.h := rfl
@[simp] theorem Group.setWdx_valloc (x : Group) (b : Bool) : (x.setWdx b).valloc = x.valloc := rfl
@[simp] theorem Group.setWdx_pc (x : Group) (b : Bool) : (x.setWdx b).pc = x.pc := rfl
@[simp] theorem Group.setWdx_plane (x : Group) (b : Bool) : (x.setWdx b).plane = x.plane := rfl
@[simp] theorem Group.setWdx_fresh (x : Group) (b : Bool) : (x.setWdx b).fresh = x.fresh := rfl
@[simp] theorem Group.setWdx_issued (x : Group) (b : Bool) : (x.setWdx b).issued = x.issued := rfl
@[simp] theorem Group.setWdx_span (x : Group) (b : Bool) : (x.setWdx b).span = x.span := rfl
@[simp] theorem Group.setWdx_live (x : Group) (b : Bool) : (x.setWdx b).live = x.live := rfl
@[simp] theorem Group.setWdx_sc (x : Group) (b : Bool) : (x.setWdx b).sc = x.sc := rfl
@[simp] theorem Group.setWdx_status (x : Group) (b : Bool) : (x.setWdx b).status = mkStatus x.ssc b x.plerr x.tm := rfl
@[simp] theorem Group.setWdx_exec (x : Group) (b : Bool) : (x.setWdx b).exec = x.exec := rfl
@[simp] theorem Group.setWdx_exitm (x : Group) (b : Bool) : (x.setWdx b).exitm = x.exitm := rfl
@[simp] theorem Group.setWdx_pln (x : Group) (b : Bool) : (x.setWdx b).pln = x.pln := rfl
@[simp] theorem Group.setWdx_fmt (x : Group) (b : Bool) : (x.setWdx b).fmt = x.fmt := rfl
@[simp] theorem Group.setWdx_wdog (x : Group) (b : Bool) : (x.setWdx b).wdog = x.wdog := rfl
@[simp] theorem Group.setWdx_wcnt (x : Group) (b : Bool) : (x.setWdx b).wcnt = x.wcnt := rfl
@[simp] theorem Group.setWdx_wdue (x : Group) (b : Bool) : (x.setWdx b).wdue = x.wdue := rfl
@[simp] theorem Group.setWdx_trapbase (x : Group) (b : Bool) : (x.setWdx b).trapbase = x.trapbase := rfl
@[simp] theorem Group.setWdx_xpc (x : Group) (b : Bool) : (x.setWdx b).xpc = x.xpc := rfl
@[simp] theorem Group.setWdx_xcause (x : Group) (b : Bool) : (x.setWdx b).xcause = x.xcause := rfl
@[simp] theorem Group.setWdx_xinfo (x : Group) (b : Bool) : (x.setWdx b).xinfo = x.xinfo := rfl
@[simp] theorem Group.setWdx_xscratch (x : Group) (b : Bool) : (x.setWdx b).xscratch = x.xscratch := rfl
@[simp] theorem Group.setWdx_groupid (x : Group) (b : Bool) : (x.setWdx b).groupid = x.groupid := rfl
@[simp] theorem Group.setWdx_teamid (x : Group) (b : Bool) : (x.setWdx b).teamid = x.teamid := rfl
@[simp] theorem Group.setWdx_clusterid (x : Group) (b : Bool) : (x.setWdx b).clusterid = x.clusterid := rfl
@[simp] theorem Group.setWdx_cbase (x : Group) (b : Bool) : (x.setWdx b).cbase = x.cbase := rfl
@[simp] theorem Group.setWdx_csize (x : Group) (b : Bool) : (x.setWdx b).csize = x.csize := rfl
@[simp] theorem Group.setWdx_regions (x : Group) (b : Bool) : (x.setWdx b).regions = x.regions := rfl
@[simp] theorem Group.setWdx_log (x : Group) (b : Bool) : (x.setWdx b).log = x.log := rfl
@[simp] theorem Group.setWdx_fifo (x : Group) (b : Bool) : (x.setWdx b).fifo = x.fifo := rfl
@[simp] theorem Group.setWdx_seq (x : Group) (b : Bool) : (x.setWdx b).seq = x.seq := rfl
@[simp] theorem Group.setWdx_stores (x : Group) (b : Bool) : (x.setWdx b).stores = x.stores := rfl
@[simp] theorem Group.setWdx_fences (x : Group) (b : Bool) : (x.setWdx b).fences = x.fences := rfl
@[simp] theorem Group.setWdx_cflush (x : Group) (b : Bool) : (x.setWdx b).cflush = x.cflush := rfl
@[simp] theorem Group.setWdx_deferred (x : Group) (b : Bool) : (x.setWdx b).deferred = x.deferred := rfl
@[simp] theorem Group.setWdx_settled (x : Group) (b : Bool) : (x.setWdx b).settled = x.settled := rfl
@[simp] theorem Group.setWdx_grant (x : Group) (b : Bool) : (x.setWdx b).grant = x.grant := rfl
@[simp] theorem Group.setWdx_spawnq (x : Group) (b : Bool) : (x.setWdx b).spawnq = x.spawnq := rfl
@[simp] theorem Group.setWdx_spawnc (x : Group) (b : Bool) : (x.setWdx b).spawnc = x.spawnc := rfl
@[simp] theorem Group.setWdx_spawnAt (x : Group) (b : Bool) : (x.setWdx b).spawnAt = x.spawnAt := rfl
@[simp] theorem Group.setWdx_arrived (x : Group) (b : Bool) : (x.setWdx b).arrived = x.arrived := rfl
@[simp] theorem Group.setWdx_owes (x : Group) (b : Bool) : (x.setWdx b).owes = x.owes := rfl
@[simp] theorem Group.setWdx_owesH (x : Group) (b : Bool) : (x.setWdx b).owesH = x.owesH := rfl
@[simp] theorem Group.setWdx_stop (x : Group) (b : Bool) : (x.setWdx b).stop = x.stop := rfl
@[simp] theorem Group.setWdx_waitw (x : Group) (b : Bool) : (x.setWdx b).waitw = x.waitw := rfl
@[simp] theorem Group.setWdx_waits (x : Group) (b : Bool) : (x.setWdx b).waits = x.waits := rfl
@[simp] theorem Group.setWdx_errs (x : Group) (b : Bool) : (x.setWdx b).errs = x.errs := rfl
@[simp] theorem Group.setWdx_leftAt (x : Group) (b : Bool) : (x.setWdx b).leftAt = x.leftAt := rfl

/-! ### STATUS: setPlerr -/

@[simp] theorem Group.setPlerr_die (x : Group) (b : Bool) : (x.setPlerr b).die = x.die := rfl
@[simp] theorem Group.setPlerr_core (x : Group) (b : Bool) : (x.setPlerr b).core = x.core := rfl
@[simp] theorem Group.setPlerr_slot (x : Group) (b : Bool) : (x.setPlerr b).slot = x.slot := rfl
@[simp] theorem Group.setPlerr_launch (x : Group) (b : Bool) : (x.setPlerr b).launch = x.launch := rfl
@[simp] theorem Group.setPlerr_team (x : Group) (b : Bool) : (x.setPlerr b).team = x.team := rfl
@[simp] theorem Group.setPlerr_ctx (x : Group) (b : Bool) : (x.setPlerr b).ctx = x.ctx := rfl
@[simp] theorem Group.setPlerr_spawned (x : Group) (b : Bool) : (x.setPlerr b).spawned = x.spawned := rfl
@[simp] theorem Group.setPlerr_run (x : Group) (b : Bool) : (x.setPlerr b).run = x.run := rfl
@[simp] theorem Group.setPlerr_s (x : Group) (b : Bool) : (x.setPlerr b).s = x.s := rfl
@[simp] theorem Group.setPlerr_v (x : Group) (b : Bool) : (x.setPlerr b).v = x.v := rfl
@[simp] theorem Group.setPlerr_k (x : Group) (b : Bool) : (x.setPlerr b).k = x.k := rfl
@[simp] theorem Group.setPlerr_h (x : Group) (b : Bool) : (x.setPlerr b).h = x.h := rfl
@[simp] theorem Group.setPlerr_valloc (x : Group) (b : Bool) : (x.setPlerr b).valloc = x.valloc := rfl
@[simp] theorem Group.setPlerr_pc (x : Group) (b : Bool) : (x.setPlerr b).pc = x.pc := rfl
@[simp] theorem Group.setPlerr_plane (x : Group) (b : Bool) : (x.setPlerr b).plane = x.plane := rfl
@[simp] theorem Group.setPlerr_fresh (x : Group) (b : Bool) : (x.setPlerr b).fresh = x.fresh := rfl
@[simp] theorem Group.setPlerr_issued (x : Group) (b : Bool) : (x.setPlerr b).issued = x.issued := rfl
@[simp] theorem Group.setPlerr_span (x : Group) (b : Bool) : (x.setPlerr b).span = x.span := rfl
@[simp] theorem Group.setPlerr_live (x : Group) (b : Bool) : (x.setPlerr b).live = x.live := rfl
@[simp] theorem Group.setPlerr_sc (x : Group) (b : Bool) : (x.setPlerr b).sc = x.sc := rfl
@[simp] theorem Group.setPlerr_status (x : Group) (b : Bool) : (x.setPlerr b).status = mkStatus x.ssc x.wdx b x.tm := rfl
@[simp] theorem Group.setPlerr_exec (x : Group) (b : Bool) : (x.setPlerr b).exec = x.exec := rfl
@[simp] theorem Group.setPlerr_exitm (x : Group) (b : Bool) : (x.setPlerr b).exitm = x.exitm := rfl
@[simp] theorem Group.setPlerr_pln (x : Group) (b : Bool) : (x.setPlerr b).pln = x.pln := rfl
@[simp] theorem Group.setPlerr_fmt (x : Group) (b : Bool) : (x.setPlerr b).fmt = x.fmt := rfl
@[simp] theorem Group.setPlerr_wdog (x : Group) (b : Bool) : (x.setPlerr b).wdog = x.wdog := rfl
@[simp] theorem Group.setPlerr_wcnt (x : Group) (b : Bool) : (x.setPlerr b).wcnt = x.wcnt := rfl
@[simp] theorem Group.setPlerr_wdue (x : Group) (b : Bool) : (x.setPlerr b).wdue = x.wdue := rfl
@[simp] theorem Group.setPlerr_trapbase (x : Group) (b : Bool) : (x.setPlerr b).trapbase = x.trapbase := rfl
@[simp] theorem Group.setPlerr_xpc (x : Group) (b : Bool) : (x.setPlerr b).xpc = x.xpc := rfl
@[simp] theorem Group.setPlerr_xcause (x : Group) (b : Bool) : (x.setPlerr b).xcause = x.xcause := rfl
@[simp] theorem Group.setPlerr_xinfo (x : Group) (b : Bool) : (x.setPlerr b).xinfo = x.xinfo := rfl
@[simp] theorem Group.setPlerr_xscratch (x : Group) (b : Bool) : (x.setPlerr b).xscratch = x.xscratch := rfl
@[simp] theorem Group.setPlerr_groupid (x : Group) (b : Bool) : (x.setPlerr b).groupid = x.groupid := rfl
@[simp] theorem Group.setPlerr_teamid (x : Group) (b : Bool) : (x.setPlerr b).teamid = x.teamid := rfl
@[simp] theorem Group.setPlerr_clusterid (x : Group) (b : Bool) : (x.setPlerr b).clusterid = x.clusterid := rfl
@[simp] theorem Group.setPlerr_cbase (x : Group) (b : Bool) : (x.setPlerr b).cbase = x.cbase := rfl
@[simp] theorem Group.setPlerr_csize (x : Group) (b : Bool) : (x.setPlerr b).csize = x.csize := rfl
@[simp] theorem Group.setPlerr_regions (x : Group) (b : Bool) : (x.setPlerr b).regions = x.regions := rfl
@[simp] theorem Group.setPlerr_log (x : Group) (b : Bool) : (x.setPlerr b).log = x.log := rfl
@[simp] theorem Group.setPlerr_fifo (x : Group) (b : Bool) : (x.setPlerr b).fifo = x.fifo := rfl
@[simp] theorem Group.setPlerr_seq (x : Group) (b : Bool) : (x.setPlerr b).seq = x.seq := rfl
@[simp] theorem Group.setPlerr_stores (x : Group) (b : Bool) : (x.setPlerr b).stores = x.stores := rfl
@[simp] theorem Group.setPlerr_fences (x : Group) (b : Bool) : (x.setPlerr b).fences = x.fences := rfl
@[simp] theorem Group.setPlerr_cflush (x : Group) (b : Bool) : (x.setPlerr b).cflush = x.cflush := rfl
@[simp] theorem Group.setPlerr_deferred (x : Group) (b : Bool) : (x.setPlerr b).deferred = x.deferred := rfl
@[simp] theorem Group.setPlerr_settled (x : Group) (b : Bool) : (x.setPlerr b).settled = x.settled := rfl
@[simp] theorem Group.setPlerr_grant (x : Group) (b : Bool) : (x.setPlerr b).grant = x.grant := rfl
@[simp] theorem Group.setPlerr_spawnq (x : Group) (b : Bool) : (x.setPlerr b).spawnq = x.spawnq := rfl
@[simp] theorem Group.setPlerr_spawnc (x : Group) (b : Bool) : (x.setPlerr b).spawnc = x.spawnc := rfl
@[simp] theorem Group.setPlerr_spawnAt (x : Group) (b : Bool) : (x.setPlerr b).spawnAt = x.spawnAt := rfl
@[simp] theorem Group.setPlerr_arrived (x : Group) (b : Bool) : (x.setPlerr b).arrived = x.arrived := rfl
@[simp] theorem Group.setPlerr_owes (x : Group) (b : Bool) : (x.setPlerr b).owes = x.owes := rfl
@[simp] theorem Group.setPlerr_owesH (x : Group) (b : Bool) : (x.setPlerr b).owesH = x.owesH := rfl
@[simp] theorem Group.setPlerr_stop (x : Group) (b : Bool) : (x.setPlerr b).stop = x.stop := rfl
@[simp] theorem Group.setPlerr_waitw (x : Group) (b : Bool) : (x.setPlerr b).waitw = x.waitw := rfl
@[simp] theorem Group.setPlerr_waits (x : Group) (b : Bool) : (x.setPlerr b).waits = x.waits := rfl
@[simp] theorem Group.setPlerr_errs (x : Group) (b : Bool) : (x.setPlerr b).errs = x.errs := rfl
@[simp] theorem Group.setPlerr_leftAt (x : Group) (b : Bool) : (x.setPlerr b).leftAt = x.leftAt := rfl

/-! ### STATUS: setSsc -/

@[simp] theorem Group.setSsc_die (x : Group) (b : BitVec 4) : (x.setSsc b).die = x.die := rfl
@[simp] theorem Group.setSsc_core (x : Group) (b : BitVec 4) : (x.setSsc b).core = x.core := rfl
@[simp] theorem Group.setSsc_slot (x : Group) (b : BitVec 4) : (x.setSsc b).slot = x.slot := rfl
@[simp] theorem Group.setSsc_launch (x : Group) (b : BitVec 4) : (x.setSsc b).launch = x.launch := rfl
@[simp] theorem Group.setSsc_team (x : Group) (b : BitVec 4) : (x.setSsc b).team = x.team := rfl
@[simp] theorem Group.setSsc_ctx (x : Group) (b : BitVec 4) : (x.setSsc b).ctx = x.ctx := rfl
@[simp] theorem Group.setSsc_spawned (x : Group) (b : BitVec 4) : (x.setSsc b).spawned = x.spawned := rfl
@[simp] theorem Group.setSsc_run (x : Group) (b : BitVec 4) : (x.setSsc b).run = x.run := rfl
@[simp] theorem Group.setSsc_s (x : Group) (b : BitVec 4) : (x.setSsc b).s = x.s := rfl
@[simp] theorem Group.setSsc_v (x : Group) (b : BitVec 4) : (x.setSsc b).v = x.v := rfl
@[simp] theorem Group.setSsc_k (x : Group) (b : BitVec 4) : (x.setSsc b).k = x.k := rfl
@[simp] theorem Group.setSsc_h (x : Group) (b : BitVec 4) : (x.setSsc b).h = x.h := rfl
@[simp] theorem Group.setSsc_valloc (x : Group) (b : BitVec 4) : (x.setSsc b).valloc = x.valloc := rfl
@[simp] theorem Group.setSsc_pc (x : Group) (b : BitVec 4) : (x.setSsc b).pc = x.pc := rfl
@[simp] theorem Group.setSsc_plane (x : Group) (b : BitVec 4) : (x.setSsc b).plane = x.plane := rfl
@[simp] theorem Group.setSsc_fresh (x : Group) (b : BitVec 4) : (x.setSsc b).fresh = x.fresh := rfl
@[simp] theorem Group.setSsc_issued (x : Group) (b : BitVec 4) : (x.setSsc b).issued = x.issued := rfl
@[simp] theorem Group.setSsc_span (x : Group) (b : BitVec 4) : (x.setSsc b).span = x.span := rfl
@[simp] theorem Group.setSsc_live (x : Group) (b : BitVec 4) : (x.setSsc b).live = x.live := rfl
@[simp] theorem Group.setSsc_sc (x : Group) (b : BitVec 4) : (x.setSsc b).sc = x.sc := rfl
@[simp] theorem Group.setSsc_status (x : Group) (b : BitVec 4) : (x.setSsc b).status = mkStatus b x.wdx x.plerr x.tm := rfl
@[simp] theorem Group.setSsc_exec (x : Group) (b : BitVec 4) : (x.setSsc b).exec = x.exec := rfl
@[simp] theorem Group.setSsc_exitm (x : Group) (b : BitVec 4) : (x.setSsc b).exitm = x.exitm := rfl
@[simp] theorem Group.setSsc_pln (x : Group) (b : BitVec 4) : (x.setSsc b).pln = x.pln := rfl
@[simp] theorem Group.setSsc_fmt (x : Group) (b : BitVec 4) : (x.setSsc b).fmt = x.fmt := rfl
@[simp] theorem Group.setSsc_wdog (x : Group) (b : BitVec 4) : (x.setSsc b).wdog = x.wdog := rfl
@[simp] theorem Group.setSsc_wcnt (x : Group) (b : BitVec 4) : (x.setSsc b).wcnt = x.wcnt := rfl
@[simp] theorem Group.setSsc_wdue (x : Group) (b : BitVec 4) : (x.setSsc b).wdue = x.wdue := rfl
@[simp] theorem Group.setSsc_trapbase (x : Group) (b : BitVec 4) : (x.setSsc b).trapbase = x.trapbase := rfl
@[simp] theorem Group.setSsc_xpc (x : Group) (b : BitVec 4) : (x.setSsc b).xpc = x.xpc := rfl
@[simp] theorem Group.setSsc_xcause (x : Group) (b : BitVec 4) : (x.setSsc b).xcause = x.xcause := rfl
@[simp] theorem Group.setSsc_xinfo (x : Group) (b : BitVec 4) : (x.setSsc b).xinfo = x.xinfo := rfl
@[simp] theorem Group.setSsc_xscratch (x : Group) (b : BitVec 4) : (x.setSsc b).xscratch = x.xscratch := rfl
@[simp] theorem Group.setSsc_groupid (x : Group) (b : BitVec 4) : (x.setSsc b).groupid = x.groupid := rfl
@[simp] theorem Group.setSsc_teamid (x : Group) (b : BitVec 4) : (x.setSsc b).teamid = x.teamid := rfl
@[simp] theorem Group.setSsc_clusterid (x : Group) (b : BitVec 4) : (x.setSsc b).clusterid = x.clusterid := rfl
@[simp] theorem Group.setSsc_cbase (x : Group) (b : BitVec 4) : (x.setSsc b).cbase = x.cbase := rfl
@[simp] theorem Group.setSsc_csize (x : Group) (b : BitVec 4) : (x.setSsc b).csize = x.csize := rfl
@[simp] theorem Group.setSsc_regions (x : Group) (b : BitVec 4) : (x.setSsc b).regions = x.regions := rfl
@[simp] theorem Group.setSsc_log (x : Group) (b : BitVec 4) : (x.setSsc b).log = x.log := rfl
@[simp] theorem Group.setSsc_fifo (x : Group) (b : BitVec 4) : (x.setSsc b).fifo = x.fifo := rfl
@[simp] theorem Group.setSsc_seq (x : Group) (b : BitVec 4) : (x.setSsc b).seq = x.seq := rfl
@[simp] theorem Group.setSsc_stores (x : Group) (b : BitVec 4) : (x.setSsc b).stores = x.stores := rfl
@[simp] theorem Group.setSsc_fences (x : Group) (b : BitVec 4) : (x.setSsc b).fences = x.fences := rfl
@[simp] theorem Group.setSsc_cflush (x : Group) (b : BitVec 4) : (x.setSsc b).cflush = x.cflush := rfl
@[simp] theorem Group.setSsc_deferred (x : Group) (b : BitVec 4) : (x.setSsc b).deferred = x.deferred := rfl
@[simp] theorem Group.setSsc_settled (x : Group) (b : BitVec 4) : (x.setSsc b).settled = x.settled := rfl
@[simp] theorem Group.setSsc_grant (x : Group) (b : BitVec 4) : (x.setSsc b).grant = x.grant := rfl
@[simp] theorem Group.setSsc_spawnq (x : Group) (b : BitVec 4) : (x.setSsc b).spawnq = x.spawnq := rfl
@[simp] theorem Group.setSsc_spawnc (x : Group) (b : BitVec 4) : (x.setSsc b).spawnc = x.spawnc := rfl
@[simp] theorem Group.setSsc_spawnAt (x : Group) (b : BitVec 4) : (x.setSsc b).spawnAt = x.spawnAt := rfl
@[simp] theorem Group.setSsc_arrived (x : Group) (b : BitVec 4) : (x.setSsc b).arrived = x.arrived := rfl
@[simp] theorem Group.setSsc_owes (x : Group) (b : BitVec 4) : (x.setSsc b).owes = x.owes := rfl
@[simp] theorem Group.setSsc_owesH (x : Group) (b : BitVec 4) : (x.setSsc b).owesH = x.owesH := rfl
@[simp] theorem Group.setSsc_stop (x : Group) (b : BitVec 4) : (x.setSsc b).stop = x.stop := rfl
@[simp] theorem Group.setSsc_waitw (x : Group) (b : BitVec 4) : (x.setSsc b).waitw = x.waitw := rfl
@[simp] theorem Group.setSsc_waits (x : Group) (b : BitVec 4) : (x.setSsc b).waits = x.waits := rfl
@[simp] theorem Group.setSsc_errs (x : Group) (b : BitVec 4) : (x.setSsc b).errs = x.errs := rfl
@[simp] theorem Group.setSsc_leftAt (x : Group) (b : BitVec 4) : (x.setSsc b).leftAt = x.leftAt := rfl

/-! ### The watchdog restarts -/

@[simp] theorem Group.restartWatchdog_die (x : Group) : (x.restartWatchdog).die = x.die := rfl
@[simp] theorem Group.restartWatchdog_core (x : Group) : (x.restartWatchdog).core = x.core := rfl
@[simp] theorem Group.restartWatchdog_slot (x : Group) : (x.restartWatchdog).slot = x.slot := rfl
@[simp] theorem Group.restartWatchdog_launch (x : Group) : (x.restartWatchdog).launch = x.launch := rfl
@[simp] theorem Group.restartWatchdog_team (x : Group) : (x.restartWatchdog).team = x.team := rfl
@[simp] theorem Group.restartWatchdog_ctx (x : Group) : (x.restartWatchdog).ctx = x.ctx := rfl
@[simp] theorem Group.restartWatchdog_spawned (x : Group) : (x.restartWatchdog).spawned = x.spawned := rfl
@[simp] theorem Group.restartWatchdog_run (x : Group) : (x.restartWatchdog).run = x.run := rfl
@[simp] theorem Group.restartWatchdog_s (x : Group) : (x.restartWatchdog).s = x.s := rfl
@[simp] theorem Group.restartWatchdog_v (x : Group) : (x.restartWatchdog).v = x.v := rfl
@[simp] theorem Group.restartWatchdog_k (x : Group) : (x.restartWatchdog).k = x.k := rfl
@[simp] theorem Group.restartWatchdog_h (x : Group) : (x.restartWatchdog).h = x.h := rfl
@[simp] theorem Group.restartWatchdog_valloc (x : Group) : (x.restartWatchdog).valloc = x.valloc := rfl
@[simp] theorem Group.restartWatchdog_pc (x : Group) : (x.restartWatchdog).pc = x.pc := rfl
@[simp] theorem Group.restartWatchdog_plane (x : Group) : (x.restartWatchdog).plane = x.plane := rfl
@[simp] theorem Group.restartWatchdog_fresh (x : Group) : (x.restartWatchdog).fresh = x.fresh := rfl
@[simp] theorem Group.restartWatchdog_issued (x : Group) : (x.restartWatchdog).issued = x.issued := rfl
@[simp] theorem Group.restartWatchdog_span (x : Group) : (x.restartWatchdog).span = x.span := rfl
@[simp] theorem Group.restartWatchdog_live (x : Group) : (x.restartWatchdog).live = x.live := rfl
@[simp] theorem Group.restartWatchdog_sc (x : Group) : (x.restartWatchdog).sc = x.sc := rfl
@[simp] theorem Group.restartWatchdog_status (x : Group) : (x.restartWatchdog).status = mkStatus x.ssc false x.plerr x.tm := rfl
@[simp] theorem Group.restartWatchdog_exec (x : Group) : (x.restartWatchdog).exec = x.exec := rfl
@[simp] theorem Group.restartWatchdog_exitm (x : Group) : (x.restartWatchdog).exitm = x.exitm := rfl
@[simp] theorem Group.restartWatchdog_pln (x : Group) : (x.restartWatchdog).pln = x.pln := rfl
@[simp] theorem Group.restartWatchdog_fmt (x : Group) : (x.restartWatchdog).fmt = x.fmt := rfl
@[simp] theorem Group.restartWatchdog_wdog (x : Group) : (x.restartWatchdog).wdog = x.wdog := rfl
@[simp] theorem Group.restartWatchdog_wcnt (x : Group) : (x.restartWatchdog).wcnt = x.wdog.toNat * 1024 := rfl
@[simp] theorem Group.restartWatchdog_wdue (x : Group) : (x.restartWatchdog).wdue = x.wdue := rfl
@[simp] theorem Group.restartWatchdog_trapbase (x : Group) : (x.restartWatchdog).trapbase = x.trapbase := rfl
@[simp] theorem Group.restartWatchdog_xpc (x : Group) : (x.restartWatchdog).xpc = x.xpc := rfl
@[simp] theorem Group.restartWatchdog_xcause (x : Group) : (x.restartWatchdog).xcause = x.xcause := rfl
@[simp] theorem Group.restartWatchdog_xinfo (x : Group) : (x.restartWatchdog).xinfo = x.xinfo := rfl
@[simp] theorem Group.restartWatchdog_xscratch (x : Group) : (x.restartWatchdog).xscratch = x.xscratch := rfl
@[simp] theorem Group.restartWatchdog_groupid (x : Group) : (x.restartWatchdog).groupid = x.groupid := rfl
@[simp] theorem Group.restartWatchdog_teamid (x : Group) : (x.restartWatchdog).teamid = x.teamid := rfl
@[simp] theorem Group.restartWatchdog_clusterid (x : Group) : (x.restartWatchdog).clusterid = x.clusterid := rfl
@[simp] theorem Group.restartWatchdog_cbase (x : Group) : (x.restartWatchdog).cbase = x.cbase := rfl
@[simp] theorem Group.restartWatchdog_csize (x : Group) : (x.restartWatchdog).csize = x.csize := rfl
@[simp] theorem Group.restartWatchdog_regions (x : Group) : (x.restartWatchdog).regions = x.regions := rfl
@[simp] theorem Group.restartWatchdog_log (x : Group) : (x.restartWatchdog).log = x.log := rfl
@[simp] theorem Group.restartWatchdog_fifo (x : Group) : (x.restartWatchdog).fifo = x.fifo := rfl
@[simp] theorem Group.restartWatchdog_seq (x : Group) : (x.restartWatchdog).seq = x.seq := rfl
@[simp] theorem Group.restartWatchdog_stores (x : Group) : (x.restartWatchdog).stores = x.stores := rfl
@[simp] theorem Group.restartWatchdog_fences (x : Group) : (x.restartWatchdog).fences = x.fences := rfl
@[simp] theorem Group.restartWatchdog_cflush (x : Group) : (x.restartWatchdog).cflush = x.cflush := rfl
@[simp] theorem Group.restartWatchdog_deferred (x : Group) : (x.restartWatchdog).deferred = x.deferred := rfl
@[simp] theorem Group.restartWatchdog_settled (x : Group) : (x.restartWatchdog).settled = x.settled := rfl
@[simp] theorem Group.restartWatchdog_grant (x : Group) : (x.restartWatchdog).grant = x.grant := rfl
@[simp] theorem Group.restartWatchdog_spawnq (x : Group) : (x.restartWatchdog).spawnq = x.spawnq := rfl
@[simp] theorem Group.restartWatchdog_spawnc (x : Group) : (x.restartWatchdog).spawnc = x.spawnc := rfl
@[simp] theorem Group.restartWatchdog_spawnAt (x : Group) : (x.restartWatchdog).spawnAt = x.spawnAt := rfl
@[simp] theorem Group.restartWatchdog_arrived (x : Group) : (x.restartWatchdog).arrived = x.arrived := rfl
@[simp] theorem Group.restartWatchdog_owes (x : Group) : (x.restartWatchdog).owes = x.owes := rfl
@[simp] theorem Group.restartWatchdog_owesH (x : Group) : (x.restartWatchdog).owesH = x.owesH := rfl
@[simp] theorem Group.restartWatchdog_stop (x : Group) : (x.restartWatchdog).stop = x.stop := rfl
@[simp] theorem Group.restartWatchdog_waitw (x : Group) : (x.restartWatchdog).waitw = x.waitw := rfl
@[simp] theorem Group.restartWatchdog_waits (x : Group) : (x.restartWatchdog).waits = x.waits := rfl
@[simp] theorem Group.restartWatchdog_errs (x : Group) : (x.restartWatchdog).errs = x.errs := rfl
@[simp] theorem Group.restartWatchdog_leftAt (x : Group) : (x.restartWatchdog).leftAt = x.leftAt := rfl

/-! ### A new place in the program -/

@[simp] theorem Group.goto_die (x : Group) (p : Word) : (x.goto p).die = x.die := rfl
@[simp] theorem Group.goto_core (x : Group) (p : Word) : (x.goto p).core = x.core := rfl
@[simp] theorem Group.goto_slot (x : Group) (p : Word) : (x.goto p).slot = x.slot := rfl
@[simp] theorem Group.goto_launch (x : Group) (p : Word) : (x.goto p).launch = x.launch := rfl
@[simp] theorem Group.goto_team (x : Group) (p : Word) : (x.goto p).team = x.team := rfl
@[simp] theorem Group.goto_ctx (x : Group) (p : Word) : (x.goto p).ctx = x.ctx := rfl
@[simp] theorem Group.goto_spawned (x : Group) (p : Word) : (x.goto p).spawned = x.spawned := rfl
@[simp] theorem Group.goto_run (x : Group) (p : Word) : (x.goto p).run = x.run := rfl
@[simp] theorem Group.goto_s (x : Group) (p : Word) : (x.goto p).s = x.s := rfl
@[simp] theorem Group.goto_v (x : Group) (p : Word) : (x.goto p).v = x.v := rfl
@[simp] theorem Group.goto_k (x : Group) (p : Word) : (x.goto p).k = x.k := rfl
@[simp] theorem Group.goto_h (x : Group) (p : Word) : (x.goto p).h = x.h := rfl
@[simp] theorem Group.goto_valloc (x : Group) (p : Word) : (x.goto p).valloc = x.valloc := rfl
@[simp] theorem Group.goto_pc (x : Group) (p : Word) : (x.goto p).pc = p := rfl
@[simp] theorem Group.goto_plane (x : Group) (p : Word) : (x.goto p).plane = 0 := rfl
@[simp] theorem Group.goto_fresh (x : Group) (p : Word) : (x.goto p).fresh = true := rfl
@[simp] theorem Group.goto_issued (x : Group) (p : Word) : (x.goto p).issued = false := rfl
@[simp] theorem Group.goto_span (x : Group) (p : Word) : (x.goto p).span = x.span := rfl
@[simp] theorem Group.goto_live (x : Group) (p : Word) : (x.goto p).live = x.live := rfl
@[simp] theorem Group.goto_sc (x : Group) (p : Word) : (x.goto p).sc = x.sc := rfl
@[simp] theorem Group.goto_status (x : Group) (p : Word) : (x.goto p).status = x.status := rfl
@[simp] theorem Group.goto_exec (x : Group) (p : Word) : (x.goto p).exec = x.exec := rfl
@[simp] theorem Group.goto_exitm (x : Group) (p : Word) : (x.goto p).exitm = x.exitm := rfl
@[simp] theorem Group.goto_pln (x : Group) (p : Word) : (x.goto p).pln = x.pln := rfl
@[simp] theorem Group.goto_fmt (x : Group) (p : Word) : (x.goto p).fmt = x.fmt := rfl
@[simp] theorem Group.goto_wdog (x : Group) (p : Word) : (x.goto p).wdog = x.wdog := rfl
@[simp] theorem Group.goto_wcnt (x : Group) (p : Word) : (x.goto p).wcnt = x.wcnt := rfl
@[simp] theorem Group.goto_wdue (x : Group) (p : Word) : (x.goto p).wdue = x.wdue := rfl
@[simp] theorem Group.goto_trapbase (x : Group) (p : Word) : (x.goto p).trapbase = x.trapbase := rfl
@[simp] theorem Group.goto_xpc (x : Group) (p : Word) : (x.goto p).xpc = x.xpc := rfl
@[simp] theorem Group.goto_xcause (x : Group) (p : Word) : (x.goto p).xcause = x.xcause := rfl
@[simp] theorem Group.goto_xinfo (x : Group) (p : Word) : (x.goto p).xinfo = x.xinfo := rfl
@[simp] theorem Group.goto_xscratch (x : Group) (p : Word) : (x.goto p).xscratch = x.xscratch := rfl
@[simp] theorem Group.goto_groupid (x : Group) (p : Word) : (x.goto p).groupid = x.groupid := rfl
@[simp] theorem Group.goto_teamid (x : Group) (p : Word) : (x.goto p).teamid = x.teamid := rfl
@[simp] theorem Group.goto_clusterid (x : Group) (p : Word) : (x.goto p).clusterid = x.clusterid := rfl
@[simp] theorem Group.goto_cbase (x : Group) (p : Word) : (x.goto p).cbase = x.cbase := rfl
@[simp] theorem Group.goto_csize (x : Group) (p : Word) : (x.goto p).csize = x.csize := rfl
@[simp] theorem Group.goto_regions (x : Group) (p : Word) : (x.goto p).regions = x.regions := rfl
@[simp] theorem Group.goto_log (x : Group) (p : Word) : (x.goto p).log = x.log := rfl
@[simp] theorem Group.goto_fifo (x : Group) (p : Word) : (x.goto p).fifo = x.fifo := rfl
@[simp] theorem Group.goto_seq (x : Group) (p : Word) : (x.goto p).seq = x.seq := rfl
@[simp] theorem Group.goto_stores (x : Group) (p : Word) : (x.goto p).stores = x.stores := rfl
@[simp] theorem Group.goto_fences (x : Group) (p : Word) : (x.goto p).fences = x.fences := rfl
@[simp] theorem Group.goto_cflush (x : Group) (p : Word) : (x.goto p).cflush = x.cflush := rfl
@[simp] theorem Group.goto_deferred (x : Group) (p : Word) : (x.goto p).deferred = x.deferred := rfl
@[simp] theorem Group.goto_settled (x : Group) (p : Word) : (x.goto p).settled = x.settled := rfl
@[simp] theorem Group.goto_grant (x : Group) (p : Word) : (x.goto p).grant = x.grant := rfl
@[simp] theorem Group.goto_spawnq (x : Group) (p : Word) : (x.goto p).spawnq = x.spawnq := rfl
@[simp] theorem Group.goto_spawnc (x : Group) (p : Word) : (x.goto p).spawnc = x.spawnc := rfl
@[simp] theorem Group.goto_spawnAt (x : Group) (p : Word) : (x.goto p).spawnAt = x.spawnAt := rfl
@[simp] theorem Group.goto_arrived (x : Group) (p : Word) : (x.goto p).arrived = x.arrived := rfl
@[simp] theorem Group.goto_owes (x : Group) (p : Word) : (x.goto p).owes = x.owes := rfl
@[simp] theorem Group.goto_owesH (x : Group) (p : Word) : (x.goto p).owesH = x.owesH := rfl
@[simp] theorem Group.goto_stop (x : Group) (p : Word) : (x.goto p).stop = x.stop := rfl
@[simp] theorem Group.goto_waitw (x : Group) (p : Word) : (x.goto p).waitw = x.waitw := rfl
@[simp] theorem Group.goto_waits (x : Group) (p : Word) : (x.goto p).waits = x.waits := rfl
@[simp] theorem Group.goto_errs (x : Group) (p : Word) : (x.goto p).errs = x.errs := rfl
@[simp] theorem Group.goto_leftAt (x : Group) (p : Word) : (x.goto p).leftAt = x.leftAt := rfl

/-! ### One more outstanding result -/

@[simp] theorem Group.pushLog_die (x : Group) (p : Pend) : (x.pushLog p).die = x.die := rfl
@[simp] theorem Group.pushLog_core (x : Group) (p : Pend) : (x.pushLog p).core = x.core := rfl
@[simp] theorem Group.pushLog_slot (x : Group) (p : Pend) : (x.pushLog p).slot = x.slot := rfl
@[simp] theorem Group.pushLog_launch (x : Group) (p : Pend) : (x.pushLog p).launch = x.launch := rfl
@[simp] theorem Group.pushLog_team (x : Group) (p : Pend) : (x.pushLog p).team = x.team := rfl
@[simp] theorem Group.pushLog_ctx (x : Group) (p : Pend) : (x.pushLog p).ctx = x.ctx := rfl
@[simp] theorem Group.pushLog_spawned (x : Group) (p : Pend) : (x.pushLog p).spawned = x.spawned := rfl
@[simp] theorem Group.pushLog_run (x : Group) (p : Pend) : (x.pushLog p).run = x.run := rfl
@[simp] theorem Group.pushLog_s (x : Group) (p : Pend) : (x.pushLog p).s = x.s := rfl
@[simp] theorem Group.pushLog_v (x : Group) (p : Pend) : (x.pushLog p).v = x.v := rfl
@[simp] theorem Group.pushLog_k (x : Group) (p : Pend) : (x.pushLog p).k = x.k := rfl
@[simp] theorem Group.pushLog_h (x : Group) (p : Pend) : (x.pushLog p).h = x.h := rfl
@[simp] theorem Group.pushLog_valloc (x : Group) (p : Pend) : (x.pushLog p).valloc = x.valloc := rfl
@[simp] theorem Group.pushLog_pc (x : Group) (p : Pend) : (x.pushLog p).pc = x.pc := rfl
@[simp] theorem Group.pushLog_plane (x : Group) (p : Pend) : (x.pushLog p).plane = x.plane := rfl
@[simp] theorem Group.pushLog_fresh (x : Group) (p : Pend) : (x.pushLog p).fresh = x.fresh := rfl
@[simp] theorem Group.pushLog_issued (x : Group) (p : Pend) : (x.pushLog p).issued = x.issued := rfl
@[simp] theorem Group.pushLog_span (x : Group) (p : Pend) : (x.pushLog p).span = x.span := rfl
@[simp] theorem Group.pushLog_live (x : Group) (p : Pend) : (x.pushLog p).live = x.live := rfl
@[simp] theorem Group.pushLog_sc (x : Group) (p : Pend) : (x.pushLog p).sc = x.sc := rfl
@[simp] theorem Group.pushLog_status (x : Group) (p : Pend) : (x.pushLog p).status = x.status := rfl
@[simp] theorem Group.pushLog_exec (x : Group) (p : Pend) : (x.pushLog p).exec = x.exec := rfl
@[simp] theorem Group.pushLog_exitm (x : Group) (p : Pend) : (x.pushLog p).exitm = x.exitm := rfl
@[simp] theorem Group.pushLog_pln (x : Group) (p : Pend) : (x.pushLog p).pln = x.pln := rfl
@[simp] theorem Group.pushLog_fmt (x : Group) (p : Pend) : (x.pushLog p).fmt = x.fmt := rfl
@[simp] theorem Group.pushLog_wdog (x : Group) (p : Pend) : (x.pushLog p).wdog = x.wdog := rfl
@[simp] theorem Group.pushLog_wcnt (x : Group) (p : Pend) : (x.pushLog p).wcnt = x.wcnt := rfl
@[simp] theorem Group.pushLog_wdue (x : Group) (p : Pend) : (x.pushLog p).wdue = x.wdue := rfl
@[simp] theorem Group.pushLog_trapbase (x : Group) (p : Pend) : (x.pushLog p).trapbase = x.trapbase := rfl
@[simp] theorem Group.pushLog_xpc (x : Group) (p : Pend) : (x.pushLog p).xpc = x.xpc := rfl
@[simp] theorem Group.pushLog_xcause (x : Group) (p : Pend) : (x.pushLog p).xcause = x.xcause := rfl
@[simp] theorem Group.pushLog_xinfo (x : Group) (p : Pend) : (x.pushLog p).xinfo = x.xinfo := rfl
@[simp] theorem Group.pushLog_xscratch (x : Group) (p : Pend) : (x.pushLog p).xscratch = x.xscratch := rfl
@[simp] theorem Group.pushLog_groupid (x : Group) (p : Pend) : (x.pushLog p).groupid = x.groupid := rfl
@[simp] theorem Group.pushLog_teamid (x : Group) (p : Pend) : (x.pushLog p).teamid = x.teamid := rfl
@[simp] theorem Group.pushLog_clusterid (x : Group) (p : Pend) : (x.pushLog p).clusterid = x.clusterid := rfl
@[simp] theorem Group.pushLog_cbase (x : Group) (p : Pend) : (x.pushLog p).cbase = x.cbase := rfl
@[simp] theorem Group.pushLog_csize (x : Group) (p : Pend) : (x.pushLog p).csize = x.csize := rfl
@[simp] theorem Group.pushLog_regions (x : Group) (p : Pend) : (x.pushLog p).regions = x.regions := rfl
@[simp] theorem Group.pushLog_log (x : Group) (p : Pend) : (x.pushLog p).log = x.log ++ [p] := rfl
@[simp] theorem Group.pushLog_fifo (x : Group) (p : Pend) : (x.pushLog p).fifo = x.fifo := rfl
@[simp] theorem Group.pushLog_seq (x : Group) (p : Pend) : (x.pushLog p).seq = x.seq + 1 := rfl
@[simp] theorem Group.pushLog_stores (x : Group) (p : Pend) : (x.pushLog p).stores = x.stores := rfl
@[simp] theorem Group.pushLog_fences (x : Group) (p : Pend) : (x.pushLog p).fences = x.fences := rfl
@[simp] theorem Group.pushLog_cflush (x : Group) (p : Pend) : (x.pushLog p).cflush = x.cflush := rfl
@[simp] theorem Group.pushLog_deferred (x : Group) (p : Pend) : (x.pushLog p).deferred = x.deferred := rfl
@[simp] theorem Group.pushLog_settled (x : Group) (p : Pend) : (x.pushLog p).settled = x.settled := rfl
@[simp] theorem Group.pushLog_grant (x : Group) (p : Pend) : (x.pushLog p).grant = x.grant := rfl
@[simp] theorem Group.pushLog_spawnq (x : Group) (p : Pend) : (x.pushLog p).spawnq = x.spawnq := rfl
@[simp] theorem Group.pushLog_spawnc (x : Group) (p : Pend) : (x.pushLog p).spawnc = x.spawnc := rfl
@[simp] theorem Group.pushLog_spawnAt (x : Group) (p : Pend) : (x.pushLog p).spawnAt = x.spawnAt := rfl
@[simp] theorem Group.pushLog_arrived (x : Group) (p : Pend) : (x.pushLog p).arrived = x.arrived := rfl
@[simp] theorem Group.pushLog_owes (x : Group) (p : Pend) : (x.pushLog p).owes = x.owes := rfl
@[simp] theorem Group.pushLog_owesH (x : Group) (p : Pend) : (x.pushLog p).owesH = x.owesH := rfl
@[simp] theorem Group.pushLog_stop (x : Group) (p : Pend) : (x.pushLog p).stop = x.stop := rfl
@[simp] theorem Group.pushLog_waitw (x : Group) (p : Pend) : (x.pushLog p).waitw = x.waitw := rfl
@[simp] theorem Group.pushLog_waits (x : Group) (p : Pend) : (x.pushLog p).waits = x.waits := rfl
@[simp] theorem Group.pushLog_errs (x : Group) (p : Pend) : (x.pushLog p).errs = x.errs := rfl
@[simp] theorem Group.pushLog_leftAt (x : Group) (p : Pend) : (x.pushLog p).leftAt = x.leftAt := rfl

/-! ### One more store -/

@[simp] theorem Group.pushFifo_die (x : Group) (p : FifoEntry) : (x.pushFifo p).die = x.die := rfl
@[simp] theorem Group.pushFifo_core (x : Group) (p : FifoEntry) : (x.pushFifo p).core = x.core := rfl
@[simp] theorem Group.pushFifo_slot (x : Group) (p : FifoEntry) : (x.pushFifo p).slot = x.slot := rfl
@[simp] theorem Group.pushFifo_launch (x : Group) (p : FifoEntry) : (x.pushFifo p).launch = x.launch := rfl
@[simp] theorem Group.pushFifo_team (x : Group) (p : FifoEntry) : (x.pushFifo p).team = x.team := rfl
@[simp] theorem Group.pushFifo_ctx (x : Group) (p : FifoEntry) : (x.pushFifo p).ctx = x.ctx := rfl
@[simp] theorem Group.pushFifo_spawned (x : Group) (p : FifoEntry) : (x.pushFifo p).spawned = x.spawned := rfl
@[simp] theorem Group.pushFifo_run (x : Group) (p : FifoEntry) : (x.pushFifo p).run = x.run := rfl
@[simp] theorem Group.pushFifo_s (x : Group) (p : FifoEntry) : (x.pushFifo p).s = x.s := rfl
@[simp] theorem Group.pushFifo_v (x : Group) (p : FifoEntry) : (x.pushFifo p).v = x.v := rfl
@[simp] theorem Group.pushFifo_k (x : Group) (p : FifoEntry) : (x.pushFifo p).k = x.k := rfl
@[simp] theorem Group.pushFifo_h (x : Group) (p : FifoEntry) : (x.pushFifo p).h = x.h := rfl
@[simp] theorem Group.pushFifo_valloc (x : Group) (p : FifoEntry) : (x.pushFifo p).valloc = x.valloc := rfl
@[simp] theorem Group.pushFifo_pc (x : Group) (p : FifoEntry) : (x.pushFifo p).pc = x.pc := rfl
@[simp] theorem Group.pushFifo_plane (x : Group) (p : FifoEntry) : (x.pushFifo p).plane = x.plane := rfl
@[simp] theorem Group.pushFifo_fresh (x : Group) (p : FifoEntry) : (x.pushFifo p).fresh = x.fresh := rfl
@[simp] theorem Group.pushFifo_issued (x : Group) (p : FifoEntry) : (x.pushFifo p).issued = x.issued := rfl
@[simp] theorem Group.pushFifo_span (x : Group) (p : FifoEntry) : (x.pushFifo p).span = x.span := rfl
@[simp] theorem Group.pushFifo_live (x : Group) (p : FifoEntry) : (x.pushFifo p).live = x.live := rfl
@[simp] theorem Group.pushFifo_sc (x : Group) (p : FifoEntry) : (x.pushFifo p).sc = x.sc := rfl
@[simp] theorem Group.pushFifo_status (x : Group) (p : FifoEntry) : (x.pushFifo p).status = x.status := rfl
@[simp] theorem Group.pushFifo_exec (x : Group) (p : FifoEntry) : (x.pushFifo p).exec = x.exec := rfl
@[simp] theorem Group.pushFifo_exitm (x : Group) (p : FifoEntry) : (x.pushFifo p).exitm = x.exitm := rfl
@[simp] theorem Group.pushFifo_pln (x : Group) (p : FifoEntry) : (x.pushFifo p).pln = x.pln := rfl
@[simp] theorem Group.pushFifo_fmt (x : Group) (p : FifoEntry) : (x.pushFifo p).fmt = x.fmt := rfl
@[simp] theorem Group.pushFifo_wdog (x : Group) (p : FifoEntry) : (x.pushFifo p).wdog = x.wdog := rfl
@[simp] theorem Group.pushFifo_wcnt (x : Group) (p : FifoEntry) : (x.pushFifo p).wcnt = x.wcnt := rfl
@[simp] theorem Group.pushFifo_wdue (x : Group) (p : FifoEntry) : (x.pushFifo p).wdue = x.wdue := rfl
@[simp] theorem Group.pushFifo_trapbase (x : Group) (p : FifoEntry) : (x.pushFifo p).trapbase = x.trapbase := rfl
@[simp] theorem Group.pushFifo_xpc (x : Group) (p : FifoEntry) : (x.pushFifo p).xpc = x.xpc := rfl
@[simp] theorem Group.pushFifo_xcause (x : Group) (p : FifoEntry) : (x.pushFifo p).xcause = x.xcause := rfl
@[simp] theorem Group.pushFifo_xinfo (x : Group) (p : FifoEntry) : (x.pushFifo p).xinfo = x.xinfo := rfl
@[simp] theorem Group.pushFifo_xscratch (x : Group) (p : FifoEntry) : (x.pushFifo p).xscratch = x.xscratch := rfl
@[simp] theorem Group.pushFifo_groupid (x : Group) (p : FifoEntry) : (x.pushFifo p).groupid = x.groupid := rfl
@[simp] theorem Group.pushFifo_teamid (x : Group) (p : FifoEntry) : (x.pushFifo p).teamid = x.teamid := rfl
@[simp] theorem Group.pushFifo_clusterid (x : Group) (p : FifoEntry) : (x.pushFifo p).clusterid = x.clusterid := rfl
@[simp] theorem Group.pushFifo_cbase (x : Group) (p : FifoEntry) : (x.pushFifo p).cbase = x.cbase := rfl
@[simp] theorem Group.pushFifo_csize (x : Group) (p : FifoEntry) : (x.pushFifo p).csize = x.csize := rfl
@[simp] theorem Group.pushFifo_regions (x : Group) (p : FifoEntry) : (x.pushFifo p).regions = x.regions := rfl
@[simp] theorem Group.pushFifo_log (x : Group) (p : FifoEntry) : (x.pushFifo p).log = x.log := rfl
@[simp] theorem Group.pushFifo_fifo (x : Group) (p : FifoEntry) : (x.pushFifo p).fifo = x.fifo ++ [p] := rfl
@[simp] theorem Group.pushFifo_seq (x : Group) (p : FifoEntry) : (x.pushFifo p).seq = x.seq + 1 := rfl
@[simp] theorem Group.pushFifo_stores (x : Group) (p : FifoEntry) : (x.pushFifo p).stores = x.stores + 1 := rfl
@[simp] theorem Group.pushFifo_fences (x : Group) (p : FifoEntry) : (x.pushFifo p).fences = x.fences := rfl
@[simp] theorem Group.pushFifo_cflush (x : Group) (p : FifoEntry) : (x.pushFifo p).cflush = x.cflush := rfl
@[simp] theorem Group.pushFifo_deferred (x : Group) (p : FifoEntry) : (x.pushFifo p).deferred = x.deferred := rfl
@[simp] theorem Group.pushFifo_settled (x : Group) (p : FifoEntry) : (x.pushFifo p).settled = x.settled := rfl
@[simp] theorem Group.pushFifo_grant (x : Group) (p : FifoEntry) : (x.pushFifo p).grant = x.grant := rfl
@[simp] theorem Group.pushFifo_spawnq (x : Group) (p : FifoEntry) : (x.pushFifo p).spawnq = x.spawnq := rfl
@[simp] theorem Group.pushFifo_spawnc (x : Group) (p : FifoEntry) : (x.pushFifo p).spawnc = x.spawnc := rfl
@[simp] theorem Group.pushFifo_spawnAt (x : Group) (p : FifoEntry) : (x.pushFifo p).spawnAt = x.spawnAt := rfl
@[simp] theorem Group.pushFifo_arrived (x : Group) (p : FifoEntry) : (x.pushFifo p).arrived = x.arrived := rfl
@[simp] theorem Group.pushFifo_owes (x : Group) (p : FifoEntry) : (x.pushFifo p).owes = x.owes := rfl
@[simp] theorem Group.pushFifo_owesH (x : Group) (p : FifoEntry) : (x.pushFifo p).owesH = x.owesH := rfl
@[simp] theorem Group.pushFifo_stop (x : Group) (p : FifoEntry) : (x.pushFifo p).stop = x.stop := rfl
@[simp] theorem Group.pushFifo_waitw (x : Group) (p : FifoEntry) : (x.pushFifo p).waitw = x.waitw := rfl
@[simp] theorem Group.pushFifo_waits (x : Group) (p : FifoEntry) : (x.pushFifo p).waits = x.waits := rfl
@[simp] theorem Group.pushFifo_errs (x : Group) (p : FifoEntry) : (x.pushFifo p).errs = x.errs := rfl
@[simp] theorem Group.pushFifo_leftAt (x : Group) (p : FifoEntry) : (x.pushFifo p).leftAt = x.leftAt := rfl

/-! ### A handle -/

@[simp] theorem Group.setHandle_die (x : Group) (n : Fin 16) (y : Handle) : (x.setHandle n y).die = x.die := rfl
@[simp] theorem Group.setHandle_core (x : Group) (n : Fin 16) (y : Handle) : (x.setHandle n y).core = x.core := rfl
@[simp] theorem Group.setHandle_slot (x : Group) (n : Fin 16) (y : Handle) : (x.setHandle n y).slot = x.slot := rfl
@[simp] theorem Group.setHandle_launch (x : Group) (n : Fin 16) (y : Handle) : (x.setHandle n y).launch = x.launch := rfl
@[simp] theorem Group.setHandle_team (x : Group) (n : Fin 16) (y : Handle) : (x.setHandle n y).team = x.team := rfl
@[simp] theorem Group.setHandle_ctx (x : Group) (n : Fin 16) (y : Handle) : (x.setHandle n y).ctx = x.ctx := rfl
@[simp] theorem Group.setHandle_spawned (x : Group) (n : Fin 16) (y : Handle) : (x.setHandle n y).spawned = x.spawned := rfl
@[simp] theorem Group.setHandle_run (x : Group) (n : Fin 16) (y : Handle) : (x.setHandle n y).run = x.run := rfl
@[simp] theorem Group.setHandle_s (x : Group) (n : Fin 16) (y : Handle) : (x.setHandle n y).s = x.s := rfl
@[simp] theorem Group.setHandle_v (x : Group) (n : Fin 16) (y : Handle) : (x.setHandle n y).v = x.v := rfl
@[simp] theorem Group.setHandle_k (x : Group) (n : Fin 16) (y : Handle) : (x.setHandle n y).k = x.k := rfl
@[simp] theorem Group.setHandle_h (x : Group) (n : Fin 16) (y : Handle) : (x.setHandle n y).h = x.h.set n y := rfl
@[simp] theorem Group.setHandle_valloc (x : Group) (n : Fin 16) (y : Handle) : (x.setHandle n y).valloc = x.valloc := rfl
@[simp] theorem Group.setHandle_pc (x : Group) (n : Fin 16) (y : Handle) : (x.setHandle n y).pc = x.pc := rfl
@[simp] theorem Group.setHandle_plane (x : Group) (n : Fin 16) (y : Handle) : (x.setHandle n y).plane = x.plane := rfl
@[simp] theorem Group.setHandle_fresh (x : Group) (n : Fin 16) (y : Handle) : (x.setHandle n y).fresh = x.fresh := rfl
@[simp] theorem Group.setHandle_issued (x : Group) (n : Fin 16) (y : Handle) : (x.setHandle n y).issued = x.issued := rfl
@[simp] theorem Group.setHandle_span (x : Group) (n : Fin 16) (y : Handle) : (x.setHandle n y).span = x.span := rfl
@[simp] theorem Group.setHandle_live (x : Group) (n : Fin 16) (y : Handle) : (x.setHandle n y).live = x.live := rfl
@[simp] theorem Group.setHandle_sc (x : Group) (n : Fin 16) (y : Handle) : (x.setHandle n y).sc = x.sc := rfl
@[simp] theorem Group.setHandle_status (x : Group) (n : Fin 16) (y : Handle) : (x.setHandle n y).status = x.status := rfl
@[simp] theorem Group.setHandle_exec (x : Group) (n : Fin 16) (y : Handle) : (x.setHandle n y).exec = x.exec := rfl
@[simp] theorem Group.setHandle_exitm (x : Group) (n : Fin 16) (y : Handle) : (x.setHandle n y).exitm = x.exitm := rfl
@[simp] theorem Group.setHandle_pln (x : Group) (n : Fin 16) (y : Handle) : (x.setHandle n y).pln = x.pln := rfl
@[simp] theorem Group.setHandle_fmt (x : Group) (n : Fin 16) (y : Handle) : (x.setHandle n y).fmt = x.fmt := rfl
@[simp] theorem Group.setHandle_wdog (x : Group) (n : Fin 16) (y : Handle) : (x.setHandle n y).wdog = x.wdog := rfl
@[simp] theorem Group.setHandle_wcnt (x : Group) (n : Fin 16) (y : Handle) : (x.setHandle n y).wcnt = x.wcnt := rfl
@[simp] theorem Group.setHandle_wdue (x : Group) (n : Fin 16) (y : Handle) : (x.setHandle n y).wdue = x.wdue := rfl
@[simp] theorem Group.setHandle_trapbase (x : Group) (n : Fin 16) (y : Handle) : (x.setHandle n y).trapbase = x.trapbase := rfl
@[simp] theorem Group.setHandle_xpc (x : Group) (n : Fin 16) (y : Handle) : (x.setHandle n y).xpc = x.xpc := rfl
@[simp] theorem Group.setHandle_xcause (x : Group) (n : Fin 16) (y : Handle) : (x.setHandle n y).xcause = x.xcause := rfl
@[simp] theorem Group.setHandle_xinfo (x : Group) (n : Fin 16) (y : Handle) : (x.setHandle n y).xinfo = x.xinfo := rfl
@[simp] theorem Group.setHandle_xscratch (x : Group) (n : Fin 16) (y : Handle) : (x.setHandle n y).xscratch = x.xscratch := rfl
@[simp] theorem Group.setHandle_groupid (x : Group) (n : Fin 16) (y : Handle) : (x.setHandle n y).groupid = x.groupid := rfl
@[simp] theorem Group.setHandle_teamid (x : Group) (n : Fin 16) (y : Handle) : (x.setHandle n y).teamid = x.teamid := rfl
@[simp] theorem Group.setHandle_clusterid (x : Group) (n : Fin 16) (y : Handle) : (x.setHandle n y).clusterid = x.clusterid := rfl
@[simp] theorem Group.setHandle_cbase (x : Group) (n : Fin 16) (y : Handle) : (x.setHandle n y).cbase = x.cbase := rfl
@[simp] theorem Group.setHandle_csize (x : Group) (n : Fin 16) (y : Handle) : (x.setHandle n y).csize = x.csize := rfl
@[simp] theorem Group.setHandle_regions (x : Group) (n : Fin 16) (y : Handle) : (x.setHandle n y).regions = x.regions := rfl
@[simp] theorem Group.setHandle_log (x : Group) (n : Fin 16) (y : Handle) : (x.setHandle n y).log = x.log := rfl
@[simp] theorem Group.setHandle_fifo (x : Group) (n : Fin 16) (y : Handle) : (x.setHandle n y).fifo = x.fifo := rfl
@[simp] theorem Group.setHandle_seq (x : Group) (n : Fin 16) (y : Handle) : (x.setHandle n y).seq = x.seq := rfl
@[simp] theorem Group.setHandle_stores (x : Group) (n : Fin 16) (y : Handle) : (x.setHandle n y).stores = x.stores := rfl
@[simp] theorem Group.setHandle_fences (x : Group) (n : Fin 16) (y : Handle) : (x.setHandle n y).fences = x.fences := rfl
@[simp] theorem Group.setHandle_cflush (x : Group) (n : Fin 16) (y : Handle) : (x.setHandle n y).cflush = x.cflush := rfl
@[simp] theorem Group.setHandle_deferred (x : Group) (n : Fin 16) (y : Handle) : (x.setHandle n y).deferred = x.deferred := rfl
@[simp] theorem Group.setHandle_settled (x : Group) (n : Fin 16) (y : Handle) : (x.setHandle n y).settled = x.settled := rfl
@[simp] theorem Group.setHandle_grant (x : Group) (n : Fin 16) (y : Handle) : (x.setHandle n y).grant = x.grant := rfl
@[simp] theorem Group.setHandle_spawnq (x : Group) (n : Fin 16) (y : Handle) : (x.setHandle n y).spawnq = x.spawnq := rfl
@[simp] theorem Group.setHandle_spawnc (x : Group) (n : Fin 16) (y : Handle) : (x.setHandle n y).spawnc = x.spawnc := rfl
@[simp] theorem Group.setHandle_spawnAt (x : Group) (n : Fin 16) (y : Handle) : (x.setHandle n y).spawnAt = x.spawnAt := rfl
@[simp] theorem Group.setHandle_arrived (x : Group) (n : Fin 16) (y : Handle) : (x.setHandle n y).arrived = x.arrived := rfl
@[simp] theorem Group.setHandle_owes (x : Group) (n : Fin 16) (y : Handle) : (x.setHandle n y).owes = x.owes := rfl
@[simp] theorem Group.setHandle_owesH (x : Group) (n : Fin 16) (y : Handle) : (x.setHandle n y).owesH = x.owesH := rfl
@[simp] theorem Group.setHandle_stop (x : Group) (n : Fin 16) (y : Handle) : (x.setHandle n y).stop = x.stop := rfl
@[simp] theorem Group.setHandle_waitw (x : Group) (n : Fin 16) (y : Handle) : (x.setHandle n y).waitw = x.waitw := rfl
@[simp] theorem Group.setHandle_waits (x : Group) (n : Fin 16) (y : Handle) : (x.setHandle n y).waits = x.waits := rfl
@[simp] theorem Group.setHandle_leftAt (x : Group) (n : Fin 16) (y : Handle) : (x.setHandle n y).leftAt = x.leftAt := rfl

/-! ### A group that stops -/

@[simp] theorem Group.suspend_die (x : Group) (n : Fin 5) (w : Option Wait) : (x.suspend n w).die = x.die := rfl
@[simp] theorem Group.suspend_core (x : Group) (n : Fin 5) (w : Option Wait) : (x.suspend n w).core = x.core := rfl
@[simp] theorem Group.suspend_slot (x : Group) (n : Fin 5) (w : Option Wait) : (x.suspend n w).slot = x.slot := rfl
@[simp] theorem Group.suspend_launch (x : Group) (n : Fin 5) (w : Option Wait) : (x.suspend n w).launch = x.launch := rfl
@[simp] theorem Group.suspend_team (x : Group) (n : Fin 5) (w : Option Wait) : (x.suspend n w).team = x.team := rfl
@[simp] theorem Group.suspend_ctx (x : Group) (n : Fin 5) (w : Option Wait) : (x.suspend n w).ctx = x.ctx := rfl
@[simp] theorem Group.suspend_spawned (x : Group) (n : Fin 5) (w : Option Wait) : (x.suspend n w).spawned = x.spawned := rfl
@[simp] theorem Group.suspend_run (x : Group) (n : Fin 5) (w : Option Wait) : (x.suspend n w).run = .suspended := rfl
@[simp] theorem Group.suspend_s (x : Group) (n : Fin 5) (w : Option Wait) : (x.suspend n w).s = x.s := rfl
@[simp] theorem Group.suspend_v (x : Group) (n : Fin 5) (w : Option Wait) : (x.suspend n w).v = x.v := rfl
@[simp] theorem Group.suspend_k (x : Group) (n : Fin 5) (w : Option Wait) : (x.suspend n w).k = x.k := rfl
@[simp] theorem Group.suspend_h (x : Group) (n : Fin 5) (w : Option Wait) : (x.suspend n w).h = x.h := rfl
@[simp] theorem Group.suspend_valloc (x : Group) (n : Fin 5) (w : Option Wait) : (x.suspend n w).valloc = x.valloc := rfl
@[simp] theorem Group.suspend_pc (x : Group) (n : Fin 5) (w : Option Wait) : (x.suspend n w).pc = x.pc := rfl
@[simp] theorem Group.suspend_plane (x : Group) (n : Fin 5) (w : Option Wait) : (x.suspend n w).plane = x.plane := rfl
@[simp] theorem Group.suspend_fresh (x : Group) (n : Fin 5) (w : Option Wait) : (x.suspend n w).fresh = x.fresh := rfl
@[simp] theorem Group.suspend_issued (x : Group) (n : Fin 5) (w : Option Wait) : (x.suspend n w).issued = x.issued := rfl
@[simp] theorem Group.suspend_span (x : Group) (n : Fin 5) (w : Option Wait) : (x.suspend n w).span = x.span := rfl
@[simp] theorem Group.suspend_live (x : Group) (n : Fin 5) (w : Option Wait) : (x.suspend n w).live = x.live := rfl
@[simp] theorem Group.suspend_sc (x : Group) (n : Fin 5) (w : Option Wait) : (x.suspend n w).sc = x.sc := rfl
@[simp] theorem Group.suspend_status (x : Group) (n : Fin 5) (w : Option Wait) : (x.suspend n w).status = x.status := rfl
@[simp] theorem Group.suspend_exec (x : Group) (n : Fin 5) (w : Option Wait) : (x.suspend n w).exec = x.exec := rfl
@[simp] theorem Group.suspend_exitm (x : Group) (n : Fin 5) (w : Option Wait) : (x.suspend n w).exitm = x.exitm := rfl
@[simp] theorem Group.suspend_pln (x : Group) (n : Fin 5) (w : Option Wait) : (x.suspend n w).pln = x.pln := rfl
@[simp] theorem Group.suspend_fmt (x : Group) (n : Fin 5) (w : Option Wait) : (x.suspend n w).fmt = x.fmt := rfl
@[simp] theorem Group.suspend_wdog (x : Group) (n : Fin 5) (w : Option Wait) : (x.suspend n w).wdog = x.wdog := rfl
@[simp] theorem Group.suspend_wcnt (x : Group) (n : Fin 5) (w : Option Wait) : (x.suspend n w).wcnt = x.wcnt := rfl
@[simp] theorem Group.suspend_wdue (x : Group) (n : Fin 5) (w : Option Wait) : (x.suspend n w).wdue = false := rfl
@[simp] theorem Group.suspend_trapbase (x : Group) (n : Fin 5) (w : Option Wait) : (x.suspend n w).trapbase = x.trapbase := rfl
@[simp] theorem Group.suspend_xpc (x : Group) (n : Fin 5) (w : Option Wait) : (x.suspend n w).xpc = x.xpc := rfl
@[simp] theorem Group.suspend_xcause (x : Group) (n : Fin 5) (w : Option Wait) : (x.suspend n w).xcause = x.xcause := rfl
@[simp] theorem Group.suspend_xinfo (x : Group) (n : Fin 5) (w : Option Wait) : (x.suspend n w).xinfo = x.xinfo := rfl
@[simp] theorem Group.suspend_xscratch (x : Group) (n : Fin 5) (w : Option Wait) : (x.suspend n w).xscratch = x.xscratch := rfl
@[simp] theorem Group.suspend_groupid (x : Group) (n : Fin 5) (w : Option Wait) : (x.suspend n w).groupid = x.groupid := rfl
@[simp] theorem Group.suspend_teamid (x : Group) (n : Fin 5) (w : Option Wait) : (x.suspend n w).teamid = x.teamid := rfl
@[simp] theorem Group.suspend_clusterid (x : Group) (n : Fin 5) (w : Option Wait) : (x.suspend n w).clusterid = x.clusterid := rfl
@[simp] theorem Group.suspend_cbase (x : Group) (n : Fin 5) (w : Option Wait) : (x.suspend n w).cbase = x.cbase := rfl
@[simp] theorem Group.suspend_csize (x : Group) (n : Fin 5) (w : Option Wait) : (x.suspend n w).csize = x.csize := rfl
@[simp] theorem Group.suspend_regions (x : Group) (n : Fin 5) (w : Option Wait) : (x.suspend n w).regions = x.regions := rfl
@[simp] theorem Group.suspend_log (x : Group) (n : Fin 5) (w : Option Wait) : (x.suspend n w).log = x.log := rfl
@[simp] theorem Group.suspend_fifo (x : Group) (n : Fin 5) (w : Option Wait) : (x.suspend n w).fifo = x.fifo := rfl
@[simp] theorem Group.suspend_seq (x : Group) (n : Fin 5) (w : Option Wait) : (x.suspend n w).seq = x.seq := rfl
@[simp] theorem Group.suspend_stores (x : Group) (n : Fin 5) (w : Option Wait) : (x.suspend n w).stores = x.stores := rfl
@[simp] theorem Group.suspend_fences (x : Group) (n : Fin 5) (w : Option Wait) : (x.suspend n w).fences = x.fences := rfl
@[simp] theorem Group.suspend_cflush (x : Group) (n : Fin 5) (w : Option Wait) : (x.suspend n w).cflush = x.cflush := rfl
@[simp] theorem Group.suspend_deferred (x : Group) (n : Fin 5) (w : Option Wait) : (x.suspend n w).deferred = x.deferred := rfl
@[simp] theorem Group.suspend_settled (x : Group) (n : Fin 5) (w : Option Wait) : (x.suspend n w).settled = x.settled := rfl
@[simp] theorem Group.suspend_grant (x : Group) (n : Fin 5) (w : Option Wait) : (x.suspend n w).grant = x.grant := rfl
@[simp] theorem Group.suspend_spawnq (x : Group) (n : Fin 5) (w : Option Wait) : (x.suspend n w).spawnq = x.spawnq := rfl
@[simp] theorem Group.suspend_spawnc (x : Group) (n : Fin 5) (w : Option Wait) : (x.suspend n w).spawnc = x.spawnc := rfl
@[simp] theorem Group.suspend_spawnAt (x : Group) (n : Fin 5) (w : Option Wait) : (x.suspend n w).spawnAt = x.spawnAt := rfl
@[simp] theorem Group.suspend_arrived (x : Group) (n : Fin 5) (w : Option Wait) : (x.suspend n w).arrived = x.arrived := rfl
@[simp] theorem Group.suspend_owes (x : Group) (n : Fin 5) (w : Option Wait) : (x.suspend n w).owes = x.owes := rfl
@[simp] theorem Group.suspend_owesH (x : Group) (n : Fin 5) (w : Option Wait) : (x.suspend n w).owesH = x.owesH := rfl
@[simp] theorem Group.suspend_stop (x : Group) (n : Fin 5) (w : Option Wait) : (x.suspend n w).stop = n := rfl
@[simp] theorem Group.suspend_waitw (x : Group) (n : Fin 5) (w : Option Wait) : (x.suspend n w).waitw = x.waitw := rfl
@[simp] theorem Group.suspend_waits (x : Group) (n : Fin 5) (w : Option Wait) : (x.suspend n w).waits = w := rfl
@[simp] theorem Group.suspend_errs (x : Group) (n : Fin 5) (w : Option Wait) : (x.suspend n w).errs = x.errs := rfl
@[simp] theorem Group.suspend_leftAt (x : Group) (n : Fin 5) (w : Option Wait) : (x.suspend n w).leftAt = x.leftAt := rfl

/-! ### Registers with a number that reads as a constant -/

@[simp] theorem Group.putS_die (x : Group) (n : Fin 64) (y : Word64) : (x.putS n y).die = x.die := by
  unfold Group.putS; split <;> rfl
@[simp] theorem Group.putS_core (x : Group) (n : Fin 64) (y : Word64) : (x.putS n y).core = x.core := by
  unfold Group.putS; split <;> rfl
@[simp] theorem Group.putS_slot (x : Group) (n : Fin 64) (y : Word64) : (x.putS n y).slot = x.slot := by
  unfold Group.putS; split <;> rfl
@[simp] theorem Group.putS_launch (x : Group) (n : Fin 64) (y : Word64) : (x.putS n y).launch = x.launch := by
  unfold Group.putS; split <;> rfl
@[simp] theorem Group.putS_team (x : Group) (n : Fin 64) (y : Word64) : (x.putS n y).team = x.team := by
  unfold Group.putS; split <;> rfl
@[simp] theorem Group.putS_ctx (x : Group) (n : Fin 64) (y : Word64) : (x.putS n y).ctx = x.ctx := by
  unfold Group.putS; split <;> rfl
@[simp] theorem Group.putS_spawned (x : Group) (n : Fin 64) (y : Word64) : (x.putS n y).spawned = x.spawned := by
  unfold Group.putS; split <;> rfl
@[simp] theorem Group.putS_run (x : Group) (n : Fin 64) (y : Word64) : (x.putS n y).run = x.run := by
  unfold Group.putS; split <;> rfl
@[simp] theorem Group.putS_v (x : Group) (n : Fin 64) (y : Word64) : (x.putS n y).v = x.v := by
  unfold Group.putS; split <;> rfl
@[simp] theorem Group.putS_k (x : Group) (n : Fin 64) (y : Word64) : (x.putS n y).k = x.k := by
  unfold Group.putS; split <;> rfl
@[simp] theorem Group.putS_h (x : Group) (n : Fin 64) (y : Word64) : (x.putS n y).h = x.h := by
  unfold Group.putS; split <;> rfl
@[simp] theorem Group.putS_valloc (x : Group) (n : Fin 64) (y : Word64) : (x.putS n y).valloc = x.valloc := by
  unfold Group.putS; split <;> rfl
@[simp] theorem Group.putS_pc (x : Group) (n : Fin 64) (y : Word64) : (x.putS n y).pc = x.pc := by
  unfold Group.putS; split <;> rfl
@[simp] theorem Group.putS_plane (x : Group) (n : Fin 64) (y : Word64) : (x.putS n y).plane = x.plane := by
  unfold Group.putS; split <;> rfl
@[simp] theorem Group.putS_fresh (x : Group) (n : Fin 64) (y : Word64) : (x.putS n y).fresh = x.fresh := by
  unfold Group.putS; split <;> rfl
@[simp] theorem Group.putS_issued (x : Group) (n : Fin 64) (y : Word64) : (x.putS n y).issued = x.issued := by
  unfold Group.putS; split <;> rfl
@[simp] theorem Group.putS_span (x : Group) (n : Fin 64) (y : Word64) : (x.putS n y).span = x.span := by
  unfold Group.putS; split <;> rfl
@[simp] theorem Group.putS_live (x : Group) (n : Fin 64) (y : Word64) : (x.putS n y).live = x.live := by
  unfold Group.putS; split <;> rfl
@[simp] theorem Group.putS_sc (x : Group) (n : Fin 64) (y : Word64) : (x.putS n y).sc = x.sc := by
  unfold Group.putS; split <;> rfl
@[simp] theorem Group.putS_status (x : Group) (n : Fin 64) (y : Word64) : (x.putS n y).status = x.status := by
  unfold Group.putS; split <;> rfl
@[simp] theorem Group.putS_exec (x : Group) (n : Fin 64) (y : Word64) : (x.putS n y).exec = x.exec := by
  unfold Group.putS; split <;> rfl
@[simp] theorem Group.putS_exitm (x : Group) (n : Fin 64) (y : Word64) : (x.putS n y).exitm = x.exitm := by
  unfold Group.putS; split <;> rfl
@[simp] theorem Group.putS_pln (x : Group) (n : Fin 64) (y : Word64) : (x.putS n y).pln = x.pln := by
  unfold Group.putS; split <;> rfl
@[simp] theorem Group.putS_fmt (x : Group) (n : Fin 64) (y : Word64) : (x.putS n y).fmt = x.fmt := by
  unfold Group.putS; split <;> rfl
@[simp] theorem Group.putS_wdog (x : Group) (n : Fin 64) (y : Word64) : (x.putS n y).wdog = x.wdog := by
  unfold Group.putS; split <;> rfl
@[simp] theorem Group.putS_wcnt (x : Group) (n : Fin 64) (y : Word64) : (x.putS n y).wcnt = x.wcnt := by
  unfold Group.putS; split <;> rfl
@[simp] theorem Group.putS_wdue (x : Group) (n : Fin 64) (y : Word64) : (x.putS n y).wdue = x.wdue := by
  unfold Group.putS; split <;> rfl
@[simp] theorem Group.putS_trapbase (x : Group) (n : Fin 64) (y : Word64) : (x.putS n y).trapbase = x.trapbase := by
  unfold Group.putS; split <;> rfl
@[simp] theorem Group.putS_xpc (x : Group) (n : Fin 64) (y : Word64) : (x.putS n y).xpc = x.xpc := by
  unfold Group.putS; split <;> rfl
@[simp] theorem Group.putS_xcause (x : Group) (n : Fin 64) (y : Word64) : (x.putS n y).xcause = x.xcause := by
  unfold Group.putS; split <;> rfl
@[simp] theorem Group.putS_xinfo (x : Group) (n : Fin 64) (y : Word64) : (x.putS n y).xinfo = x.xinfo := by
  unfold Group.putS; split <;> rfl
@[simp] theorem Group.putS_xscratch (x : Group) (n : Fin 64) (y : Word64) : (x.putS n y).xscratch = x.xscratch := by
  unfold Group.putS; split <;> rfl
@[simp] theorem Group.putS_groupid (x : Group) (n : Fin 64) (y : Word64) : (x.putS n y).groupid = x.groupid := by
  unfold Group.putS; split <;> rfl
@[simp] theorem Group.putS_teamid (x : Group) (n : Fin 64) (y : Word64) : (x.putS n y).teamid = x.teamid := by
  unfold Group.putS; split <;> rfl
@[simp] theorem Group.putS_clusterid (x : Group) (n : Fin 64) (y : Word64) : (x.putS n y).clusterid = x.clusterid := by
  unfold Group.putS; split <;> rfl
@[simp] theorem Group.putS_cbase (x : Group) (n : Fin 64) (y : Word64) : (x.putS n y).cbase = x.cbase := by
  unfold Group.putS; split <;> rfl
@[simp] theorem Group.putS_csize (x : Group) (n : Fin 64) (y : Word64) : (x.putS n y).csize = x.csize := by
  unfold Group.putS; split <;> rfl
@[simp] theorem Group.putS_regions (x : Group) (n : Fin 64) (y : Word64) : (x.putS n y).regions = x.regions := by
  unfold Group.putS; split <;> rfl
@[simp] theorem Group.putS_log (x : Group) (n : Fin 64) (y : Word64) : (x.putS n y).log = x.log := by
  unfold Group.putS; split <;> rfl
@[simp] theorem Group.putS_fifo (x : Group) (n : Fin 64) (y : Word64) : (x.putS n y).fifo = x.fifo := by
  unfold Group.putS; split <;> rfl
@[simp] theorem Group.putS_seq (x : Group) (n : Fin 64) (y : Word64) : (x.putS n y).seq = x.seq := by
  unfold Group.putS; split <;> rfl
@[simp] theorem Group.putS_stores (x : Group) (n : Fin 64) (y : Word64) : (x.putS n y).stores = x.stores := by
  unfold Group.putS; split <;> rfl
@[simp] theorem Group.putS_fences (x : Group) (n : Fin 64) (y : Word64) : (x.putS n y).fences = x.fences := by
  unfold Group.putS; split <;> rfl
@[simp] theorem Group.putS_cflush (x : Group) (n : Fin 64) (y : Word64) : (x.putS n y).cflush = x.cflush := by
  unfold Group.putS; split <;> rfl
@[simp] theorem Group.putS_deferred (x : Group) (n : Fin 64) (y : Word64) : (x.putS n y).deferred = x.deferred := by
  unfold Group.putS; split <;> rfl
@[simp] theorem Group.putS_settled (x : Group) (n : Fin 64) (y : Word64) : (x.putS n y).settled = x.settled := by
  unfold Group.putS; split <;> rfl
@[simp] theorem Group.putS_grant (x : Group) (n : Fin 64) (y : Word64) : (x.putS n y).grant = x.grant := by
  unfold Group.putS; split <;> rfl
@[simp] theorem Group.putS_spawnq (x : Group) (n : Fin 64) (y : Word64) : (x.putS n y).spawnq = x.spawnq := by
  unfold Group.putS; split <;> rfl
@[simp] theorem Group.putS_spawnc (x : Group) (n : Fin 64) (y : Word64) : (x.putS n y).spawnc = x.spawnc := by
  unfold Group.putS; split <;> rfl
@[simp] theorem Group.putS_spawnAt (x : Group) (n : Fin 64) (y : Word64) : (x.putS n y).spawnAt = x.spawnAt := by
  unfold Group.putS; split <;> rfl
@[simp] theorem Group.putS_arrived (x : Group) (n : Fin 64) (y : Word64) : (x.putS n y).arrived = x.arrived := by
  unfold Group.putS; split <;> rfl
@[simp] theorem Group.putS_owes (x : Group) (n : Fin 64) (y : Word64) : (x.putS n y).owes = x.owes := by
  unfold Group.putS; split <;> rfl
@[simp] theorem Group.putS_owesH (x : Group) (n : Fin 64) (y : Word64) : (x.putS n y).owesH = x.owesH := by
  unfold Group.putS; split <;> rfl
@[simp] theorem Group.putS_stop (x : Group) (n : Fin 64) (y : Word64) : (x.putS n y).stop = x.stop := by
  unfold Group.putS; split <;> rfl
@[simp] theorem Group.putS_waitw (x : Group) (n : Fin 64) (y : Word64) : (x.putS n y).waitw = x.waitw := by
  unfold Group.putS; split <;> rfl
@[simp] theorem Group.putS_waits (x : Group) (n : Fin 64) (y : Word64) : (x.putS n y).waits = x.waits := by
  unfold Group.putS; split <;> rfl
@[simp] theorem Group.putS_leftAt (x : Group) (n : Fin 64) (y : Word64) : (x.putS n y).leftAt = x.leftAt := by
  unfold Group.putS; split <;> rfl
@[simp] theorem Group.writeS_die (x : Group) (n : Fin 64) (y : Word64) : (x.writeS n y).die = x.die := by
  simp [Group.writeS]
@[simp] theorem Group.writeS_core (x : Group) (n : Fin 64) (y : Word64) : (x.writeS n y).core = x.core := by
  simp [Group.writeS]
@[simp] theorem Group.writeS_slot (x : Group) (n : Fin 64) (y : Word64) : (x.writeS n y).slot = x.slot := by
  simp [Group.writeS]
@[simp] theorem Group.writeS_launch (x : Group) (n : Fin 64) (y : Word64) : (x.writeS n y).launch = x.launch := by
  simp [Group.writeS]
@[simp] theorem Group.writeS_team (x : Group) (n : Fin 64) (y : Word64) : (x.writeS n y).team = x.team := by
  simp [Group.writeS]
@[simp] theorem Group.writeS_ctx (x : Group) (n : Fin 64) (y : Word64) : (x.writeS n y).ctx = x.ctx := by
  simp [Group.writeS]
@[simp] theorem Group.writeS_spawned (x : Group) (n : Fin 64) (y : Word64) : (x.writeS n y).spawned = x.spawned := by
  simp [Group.writeS]
@[simp] theorem Group.writeS_run (x : Group) (n : Fin 64) (y : Word64) : (x.writeS n y).run = x.run := by
  simp [Group.writeS]
@[simp] theorem Group.writeS_v (x : Group) (n : Fin 64) (y : Word64) : (x.writeS n y).v = x.v := by
  simp [Group.writeS]
@[simp] theorem Group.writeS_k (x : Group) (n : Fin 64) (y : Word64) : (x.writeS n y).k = x.k := by
  simp [Group.writeS]
@[simp] theorem Group.writeS_h (x : Group) (n : Fin 64) (y : Word64) : (x.writeS n y).h = x.h := by
  simp [Group.writeS]
@[simp] theorem Group.writeS_valloc (x : Group) (n : Fin 64) (y : Word64) : (x.writeS n y).valloc = x.valloc := by
  simp [Group.writeS]
@[simp] theorem Group.writeS_pc (x : Group) (n : Fin 64) (y : Word64) : (x.writeS n y).pc = x.pc := by
  simp [Group.writeS]
@[simp] theorem Group.writeS_plane (x : Group) (n : Fin 64) (y : Word64) : (x.writeS n y).plane = x.plane := by
  simp [Group.writeS]
@[simp] theorem Group.writeS_fresh (x : Group) (n : Fin 64) (y : Word64) : (x.writeS n y).fresh = x.fresh := by
  simp [Group.writeS]
@[simp] theorem Group.writeS_issued (x : Group) (n : Fin 64) (y : Word64) : (x.writeS n y).issued = x.issued := by
  simp [Group.writeS]
@[simp] theorem Group.writeS_span (x : Group) (n : Fin 64) (y : Word64) : (x.writeS n y).span = x.span := by
  simp [Group.writeS]
@[simp] theorem Group.writeS_live (x : Group) (n : Fin 64) (y : Word64) : (x.writeS n y).live = x.live := by
  simp [Group.writeS]
@[simp] theorem Group.writeS_sc (x : Group) (n : Fin 64) (y : Word64) : (x.writeS n y).sc = x.sc := by
  simp [Group.writeS]
@[simp] theorem Group.writeS_status (x : Group) (n : Fin 64) (y : Word64) : (x.writeS n y).status = x.status := by
  simp [Group.writeS]
@[simp] theorem Group.writeS_exec (x : Group) (n : Fin 64) (y : Word64) : (x.writeS n y).exec = x.exec := by
  simp [Group.writeS]
@[simp] theorem Group.writeS_exitm (x : Group) (n : Fin 64) (y : Word64) : (x.writeS n y).exitm = x.exitm := by
  simp [Group.writeS]
@[simp] theorem Group.writeS_pln (x : Group) (n : Fin 64) (y : Word64) : (x.writeS n y).pln = x.pln := by
  simp [Group.writeS]
@[simp] theorem Group.writeS_fmt (x : Group) (n : Fin 64) (y : Word64) : (x.writeS n y).fmt = x.fmt := by
  simp [Group.writeS]
@[simp] theorem Group.writeS_wdog (x : Group) (n : Fin 64) (y : Word64) : (x.writeS n y).wdog = x.wdog := by
  simp [Group.writeS]
@[simp] theorem Group.writeS_wcnt (x : Group) (n : Fin 64) (y : Word64) : (x.writeS n y).wcnt = x.wcnt := by
  simp [Group.writeS]
@[simp] theorem Group.writeS_wdue (x : Group) (n : Fin 64) (y : Word64) : (x.writeS n y).wdue = x.wdue := by
  simp [Group.writeS]
@[simp] theorem Group.writeS_trapbase (x : Group) (n : Fin 64) (y : Word64) : (x.writeS n y).trapbase = x.trapbase := by
  simp [Group.writeS]
@[simp] theorem Group.writeS_xpc (x : Group) (n : Fin 64) (y : Word64) : (x.writeS n y).xpc = x.xpc := by
  simp [Group.writeS]
@[simp] theorem Group.writeS_xcause (x : Group) (n : Fin 64) (y : Word64) : (x.writeS n y).xcause = x.xcause := by
  simp [Group.writeS]
@[simp] theorem Group.writeS_xinfo (x : Group) (n : Fin 64) (y : Word64) : (x.writeS n y).xinfo = x.xinfo := by
  simp [Group.writeS]
@[simp] theorem Group.writeS_xscratch (x : Group) (n : Fin 64) (y : Word64) : (x.writeS n y).xscratch = x.xscratch := by
  simp [Group.writeS]
@[simp] theorem Group.writeS_groupid (x : Group) (n : Fin 64) (y : Word64) : (x.writeS n y).groupid = x.groupid := by
  simp [Group.writeS]
@[simp] theorem Group.writeS_teamid (x : Group) (n : Fin 64) (y : Word64) : (x.writeS n y).teamid = x.teamid := by
  simp [Group.writeS]
@[simp] theorem Group.writeS_clusterid (x : Group) (n : Fin 64) (y : Word64) : (x.writeS n y).clusterid = x.clusterid := by
  simp [Group.writeS]
@[simp] theorem Group.writeS_cbase (x : Group) (n : Fin 64) (y : Word64) : (x.writeS n y).cbase = x.cbase := by
  simp [Group.writeS]
@[simp] theorem Group.writeS_csize (x : Group) (n : Fin 64) (y : Word64) : (x.writeS n y).csize = x.csize := by
  simp [Group.writeS]
@[simp] theorem Group.writeS_regions (x : Group) (n : Fin 64) (y : Word64) : (x.writeS n y).regions = x.regions := by
  simp [Group.writeS]
@[simp] theorem Group.writeS_fifo (x : Group) (n : Fin 64) (y : Word64) : (x.writeS n y).fifo = x.fifo := by
  simp [Group.writeS]
@[simp] theorem Group.writeS_seq (x : Group) (n : Fin 64) (y : Word64) : (x.writeS n y).seq = x.seq := by
  simp [Group.writeS]
@[simp] theorem Group.writeS_stores (x : Group) (n : Fin 64) (y : Word64) : (x.writeS n y).stores = x.stores := by
  simp [Group.writeS]
@[simp] theorem Group.writeS_fences (x : Group) (n : Fin 64) (y : Word64) : (x.writeS n y).fences = x.fences := by
  simp [Group.writeS]
@[simp] theorem Group.writeS_cflush (x : Group) (n : Fin 64) (y : Word64) : (x.writeS n y).cflush = x.cflush := by
  simp [Group.writeS]
@[simp] theorem Group.writeS_deferred (x : Group) (n : Fin 64) (y : Word64) : (x.writeS n y).deferred = x.deferred := by
  simp [Group.writeS]
@[simp] theorem Group.writeS_settled (x : Group) (n : Fin 64) (y : Word64) : (x.writeS n y).settled = x.settled := by
  simp [Group.writeS]
@[simp] theorem Group.writeS_grant (x : Group) (n : Fin 64) (y : Word64) : (x.writeS n y).grant = x.grant := by
  simp [Group.writeS]
@[simp] theorem Group.writeS_spawnq (x : Group) (n : Fin 64) (y : Word64) : (x.writeS n y).spawnq = x.spawnq := by
  simp [Group.writeS]
@[simp] theorem Group.writeS_spawnc (x : Group) (n : Fin 64) (y : Word64) : (x.writeS n y).spawnc = x.spawnc := by
  simp [Group.writeS]
@[simp] theorem Group.writeS_spawnAt (x : Group) (n : Fin 64) (y : Word64) : (x.writeS n y).spawnAt = x.spawnAt := by
  simp [Group.writeS]
@[simp] theorem Group.writeS_arrived (x : Group) (n : Fin 64) (y : Word64) : (x.writeS n y).arrived = x.arrived := by
  simp [Group.writeS]
@[simp] theorem Group.writeS_owes (x : Group) (n : Fin 64) (y : Word64) : (x.writeS n y).owes = x.owes := by
  simp [Group.writeS]
@[simp] theorem Group.writeS_owesH (x : Group) (n : Fin 64) (y : Word64) : (x.writeS n y).owesH = x.owesH := by
  simp [Group.writeS]
@[simp] theorem Group.writeS_stop (x : Group) (n : Fin 64) (y : Word64) : (x.writeS n y).stop = x.stop := by
  simp [Group.writeS]
@[simp] theorem Group.writeS_waitw (x : Group) (n : Fin 64) (y : Word64) : (x.writeS n y).waitw = x.waitw := by
  simp [Group.writeS]
@[simp] theorem Group.writeS_waits (x : Group) (n : Fin 64) (y : Word64) : (x.writeS n y).waits = x.waits := by
  simp [Group.writeS]
@[simp] theorem Group.writeS_leftAt (x : Group) (n : Fin 64) (y : Word64) : (x.writeS n y).leftAt = x.leftAt := by
  simp [Group.writeS]
@[simp] theorem Group.writeK_die (x : Group) (n : Fin 8) (y : LaneMask) : (x.writeK n y).die = x.die := by
  unfold Group.writeK; split <;> rfl
@[simp] theorem Group.writeK_core (x : Group) (n : Fin 8) (y : LaneMask) : (x.writeK n y).core = x.core := by
  unfold Group.writeK; split <;> rfl
@[simp] theorem Group.writeK_slot (x : Group) (n : Fin 8) (y : LaneMask) : (x.writeK n y).slot = x.slot := by
  unfold Group.writeK; split <;> rfl
@[simp] theorem Group.writeK_launch (x : Group) (n : Fin 8) (y : LaneMask) : (x.writeK n y).launch = x.launch := by
  unfold Group.writeK; split <;> rfl
@[simp] theorem Group.writeK_team (x : Group) (n : Fin 8) (y : LaneMask) : (x.writeK n y).team = x.team := by
  unfold Group.writeK; split <;> rfl
@[simp] theorem Group.writeK_ctx (x : Group) (n : Fin 8) (y : LaneMask) : (x.writeK n y).ctx = x.ctx := by
  unfold Group.writeK; split <;> rfl
@[simp] theorem Group.writeK_spawned (x : Group) (n : Fin 8) (y : LaneMask) : (x.writeK n y).spawned = x.spawned := by
  unfold Group.writeK; split <;> rfl
@[simp] theorem Group.writeK_run (x : Group) (n : Fin 8) (y : LaneMask) : (x.writeK n y).run = x.run := by
  unfold Group.writeK; split <;> rfl
@[simp] theorem Group.writeK_s (x : Group) (n : Fin 8) (y : LaneMask) : (x.writeK n y).s = x.s := by
  unfold Group.writeK; split <;> rfl
@[simp] theorem Group.writeK_v (x : Group) (n : Fin 8) (y : LaneMask) : (x.writeK n y).v = x.v := by
  unfold Group.writeK; split <;> rfl
@[simp] theorem Group.writeK_h (x : Group) (n : Fin 8) (y : LaneMask) : (x.writeK n y).h = x.h := by
  unfold Group.writeK; split <;> rfl
@[simp] theorem Group.writeK_valloc (x : Group) (n : Fin 8) (y : LaneMask) : (x.writeK n y).valloc = x.valloc := by
  unfold Group.writeK; split <;> rfl
@[simp] theorem Group.writeK_pc (x : Group) (n : Fin 8) (y : LaneMask) : (x.writeK n y).pc = x.pc := by
  unfold Group.writeK; split <;> rfl
@[simp] theorem Group.writeK_plane (x : Group) (n : Fin 8) (y : LaneMask) : (x.writeK n y).plane = x.plane := by
  unfold Group.writeK; split <;> rfl
@[simp] theorem Group.writeK_fresh (x : Group) (n : Fin 8) (y : LaneMask) : (x.writeK n y).fresh = x.fresh := by
  unfold Group.writeK; split <;> rfl
@[simp] theorem Group.writeK_issued (x : Group) (n : Fin 8) (y : LaneMask) : (x.writeK n y).issued = x.issued := by
  unfold Group.writeK; split <;> rfl
@[simp] theorem Group.writeK_span (x : Group) (n : Fin 8) (y : LaneMask) : (x.writeK n y).span = x.span := by
  unfold Group.writeK; split <;> rfl
@[simp] theorem Group.writeK_live (x : Group) (n : Fin 8) (y : LaneMask) : (x.writeK n y).live = x.live := by
  unfold Group.writeK; split <;> rfl
@[simp] theorem Group.writeK_sc (x : Group) (n : Fin 8) (y : LaneMask) : (x.writeK n y).sc = x.sc := by
  unfold Group.writeK; split <;> rfl
@[simp] theorem Group.writeK_status (x : Group) (n : Fin 8) (y : LaneMask) : (x.writeK n y).status = x.status := by
  unfold Group.writeK; split <;> rfl
@[simp] theorem Group.writeK_exec (x : Group) (n : Fin 8) (y : LaneMask) : (x.writeK n y).exec = x.exec := by
  unfold Group.writeK; split <;> rfl
@[simp] theorem Group.writeK_exitm (x : Group) (n : Fin 8) (y : LaneMask) : (x.writeK n y).exitm = x.exitm := by
  unfold Group.writeK; split <;> rfl
@[simp] theorem Group.writeK_pln (x : Group) (n : Fin 8) (y : LaneMask) : (x.writeK n y).pln = x.pln := by
  unfold Group.writeK; split <;> rfl
@[simp] theorem Group.writeK_fmt (x : Group) (n : Fin 8) (y : LaneMask) : (x.writeK n y).fmt = x.fmt := by
  unfold Group.writeK; split <;> rfl
@[simp] theorem Group.writeK_wdog (x : Group) (n : Fin 8) (y : LaneMask) : (x.writeK n y).wdog = x.wdog := by
  unfold Group.writeK; split <;> rfl
@[simp] theorem Group.writeK_wcnt (x : Group) (n : Fin 8) (y : LaneMask) : (x.writeK n y).wcnt = x.wcnt := by
  unfold Group.writeK; split <;> rfl
@[simp] theorem Group.writeK_wdue (x : Group) (n : Fin 8) (y : LaneMask) : (x.writeK n y).wdue = x.wdue := by
  unfold Group.writeK; split <;> rfl
@[simp] theorem Group.writeK_trapbase (x : Group) (n : Fin 8) (y : LaneMask) : (x.writeK n y).trapbase = x.trapbase := by
  unfold Group.writeK; split <;> rfl
@[simp] theorem Group.writeK_xpc (x : Group) (n : Fin 8) (y : LaneMask) : (x.writeK n y).xpc = x.xpc := by
  unfold Group.writeK; split <;> rfl
@[simp] theorem Group.writeK_xcause (x : Group) (n : Fin 8) (y : LaneMask) : (x.writeK n y).xcause = x.xcause := by
  unfold Group.writeK; split <;> rfl
@[simp] theorem Group.writeK_xinfo (x : Group) (n : Fin 8) (y : LaneMask) : (x.writeK n y).xinfo = x.xinfo := by
  unfold Group.writeK; split <;> rfl
@[simp] theorem Group.writeK_xscratch (x : Group) (n : Fin 8) (y : LaneMask) : (x.writeK n y).xscratch = x.xscratch := by
  unfold Group.writeK; split <;> rfl
@[simp] theorem Group.writeK_groupid (x : Group) (n : Fin 8) (y : LaneMask) : (x.writeK n y).groupid = x.groupid := by
  unfold Group.writeK; split <;> rfl
@[simp] theorem Group.writeK_teamid (x : Group) (n : Fin 8) (y : LaneMask) : (x.writeK n y).teamid = x.teamid := by
  unfold Group.writeK; split <;> rfl
@[simp] theorem Group.writeK_clusterid (x : Group) (n : Fin 8) (y : LaneMask) : (x.writeK n y).clusterid = x.clusterid := by
  unfold Group.writeK; split <;> rfl
@[simp] theorem Group.writeK_cbase (x : Group) (n : Fin 8) (y : LaneMask) : (x.writeK n y).cbase = x.cbase := by
  unfold Group.writeK; split <;> rfl
@[simp] theorem Group.writeK_csize (x : Group) (n : Fin 8) (y : LaneMask) : (x.writeK n y).csize = x.csize := by
  unfold Group.writeK; split <;> rfl
@[simp] theorem Group.writeK_regions (x : Group) (n : Fin 8) (y : LaneMask) : (x.writeK n y).regions = x.regions := by
  unfold Group.writeK; split <;> rfl
@[simp] theorem Group.writeK_log (x : Group) (n : Fin 8) (y : LaneMask) : (x.writeK n y).log = x.log := by
  unfold Group.writeK; split <;> rfl
@[simp] theorem Group.writeK_fifo (x : Group) (n : Fin 8) (y : LaneMask) : (x.writeK n y).fifo = x.fifo := by
  unfold Group.writeK; split <;> rfl
@[simp] theorem Group.writeK_seq (x : Group) (n : Fin 8) (y : LaneMask) : (x.writeK n y).seq = x.seq := by
  unfold Group.writeK; split <;> rfl
@[simp] theorem Group.writeK_stores (x : Group) (n : Fin 8) (y : LaneMask) : (x.writeK n y).stores = x.stores := by
  unfold Group.writeK; split <;> rfl
@[simp] theorem Group.writeK_fences (x : Group) (n : Fin 8) (y : LaneMask) : (x.writeK n y).fences = x.fences := by
  unfold Group.writeK; split <;> rfl
@[simp] theorem Group.writeK_cflush (x : Group) (n : Fin 8) (y : LaneMask) : (x.writeK n y).cflush = x.cflush := by
  unfold Group.writeK; split <;> rfl
@[simp] theorem Group.writeK_deferred (x : Group) (n : Fin 8) (y : LaneMask) : (x.writeK n y).deferred = x.deferred := by
  unfold Group.writeK; split <;> rfl
@[simp] theorem Group.writeK_settled (x : Group) (n : Fin 8) (y : LaneMask) : (x.writeK n y).settled = x.settled := by
  unfold Group.writeK; split <;> rfl
@[simp] theorem Group.writeK_grant (x : Group) (n : Fin 8) (y : LaneMask) : (x.writeK n y).grant = x.grant := by
  unfold Group.writeK; split <;> rfl
@[simp] theorem Group.writeK_spawnq (x : Group) (n : Fin 8) (y : LaneMask) : (x.writeK n y).spawnq = x.spawnq := by
  unfold Group.writeK; split <;> rfl
@[simp] theorem Group.writeK_spawnc (x : Group) (n : Fin 8) (y : LaneMask) : (x.writeK n y).spawnc = x.spawnc := by
  unfold Group.writeK; split <;> rfl
@[simp] theorem Group.writeK_spawnAt (x : Group) (n : Fin 8) (y : LaneMask) : (x.writeK n y).spawnAt = x.spawnAt := by
  unfold Group.writeK; split <;> rfl
@[simp] theorem Group.writeK_arrived (x : Group) (n : Fin 8) (y : LaneMask) : (x.writeK n y).arrived = x.arrived := by
  unfold Group.writeK; split <;> rfl
@[simp] theorem Group.writeK_owes (x : Group) (n : Fin 8) (y : LaneMask) : (x.writeK n y).owes = x.owes := by
  unfold Group.writeK; split <;> rfl
@[simp] theorem Group.writeK_owesH (x : Group) (n : Fin 8) (y : LaneMask) : (x.writeK n y).owesH = x.owesH := by
  unfold Group.writeK; split <;> rfl
@[simp] theorem Group.writeK_stop (x : Group) (n : Fin 8) (y : LaneMask) : (x.writeK n y).stop = x.stop := by
  unfold Group.writeK; split <;> rfl
@[simp] theorem Group.writeK_waitw (x : Group) (n : Fin 8) (y : LaneMask) : (x.writeK n y).waitw = x.waitw := by
  unfold Group.writeK; split <;> rfl
@[simp] theorem Group.writeK_waits (x : Group) (n : Fin 8) (y : LaneMask) : (x.writeK n y).waits = x.waits := by
  unfold Group.writeK; split <;> rfl
@[simp] theorem Group.writeK_leftAt (x : Group) (n : Fin 8) (y : LaneMask) : (x.writeK n y).leftAt = x.leftAt := by
  unfold Group.writeK; split <;> rfl

/-! ### A group without errors stays without errors (R375) -/

@[simp] theorem Group.putS_errs (x : Group) (n : Fin 64) (y : Word64) (h : x.errs = []) : (x.putS n y).errs = [] := by
  unfold Group.putS; split <;> simp [h]
@[simp] theorem Group.writeS_errs (x : Group) (n : Fin 64) (y : Word64) (h : x.errs = []) : (x.writeS n y).errs = [] := by
  simp [Group.writeS, h]
@[simp] theorem Group.writeK_errs (x : Group) (n : Fin 8) (y : LaneMask) (h : x.errs = []) : (x.writeK n y).errs = [] := by
  unfold Group.writeK; split <;> simp [h]
@[simp] theorem Group.putV_errs (x : Group) (n : Fin 128) (m : LaneMask) (f : Lane → Word) (h : x.errs = []) :
    (x.putV n m f).errs = [] := by simp [Group.putV, h]
@[simp] theorem Group.writeV_errs (x : Group) (n : Fin 128) (m : LaneMask) (f : Lane → Word) (h : x.errs = []) :
    (x.writeV n m f).errs = [] := by simp [Group.writeV, h]
@[simp] theorem Group.writeSc_errs (x : Group) (f : BitVec 4) (h : x.errs = []) : (x.writeSc f).errs = [] := by
  simp [Group.writeSc, h]
@[simp] theorem Group.writeExec_errs (x : Group) (m : LaneMask) (h : x.errs = []) : (x.writeExec m).errs = [] := by
  simp [Group.writeExec, h]
@[simp] theorem Group.setHandle_errs (x : Group) (n : Fin 16) (y : Handle) (h : x.errs = []) :
    (x.setHandle n y).errs = [] := by simp [Group.setHandle, h]

/-! ### What a register reads after a write -/

theorem vector_get_set {α : Type} {n : Nat} (v : Vector α n) (i j : Fin n) (x : α) :
    (v.set i x).get j = if i = j then x else v.get j := by
  rcases i with ⟨i, hi⟩
  rcases j with ⟨j, hj⟩
  show (v.set i x hi)[j] = if _ then x else v[j]
  simp only [Vector.getElem_set, Fin.mk.injEq]

/-- S0 keeps reading 0, and any other register reads what was written to it last (R6). -/
@[simp] theorem Group.readS_writeS (x : Group) (n m : Fin 64) (y : Word64) :
    (x.writeS n y).readS m = if n = m ∧ n ≠ 0 then y else x.readS m := by
  simp only [Group.readS, Group.writeS, Group.cut_s, Group.putS]
  by_cases hm : m = 0 <;> by_cases hn : n = 0 <;> simp_all [vector_get_set]

/-- K0 keeps reading all ones (R39). -/
@[simp] theorem Group.readK_writeK (x : Group) (n m : Fin 8) (y : LaneMask) :
    (x.writeK n y).readK m = if n = m ∧ n ≠ 0 then y else x.readK m := by
  simp only [Group.readK, Group.writeK]
  by_cases hm : m = 0 <;> by_cases hn : n = 0 <;> simp_all [vector_get_set]

/-- A V write reaches the lanes of its mask in the register it names, and no other element (R96). -/
@[simp] theorem Group.readV_writeV (x : Group) (n k : Fin 128) (m : LaneMask) (f : Lane → Word) (i : Lane) :
    (x.writeV n m f).readV k i = if n = k ∧ m.getLsbD i.val = true then f i else x.readV k i := by
  simp only [Group.readV, Group.writeV, Group.cut_v, Group.putV, vector_get_set]
  by_cases h : n = k
  · subst h
    simp only [if_true, true_and]
    exact Vector.getElem_ofFn i.isLt
  · simp [h]

/-! ### One core or die among the others -/

@[simp] theorem State.core_setCore (x : State) (c d : CoreRef) (y : Core) :
    (x.setCore c y).core d = if c = d then y else x.core d := by
  rcases c with ⟨c1, c2⟩
  rcases d with ⟨d1, d2⟩
  simp only [State.core, State.setCore, vector_get_set, CoreRef.mk.injEq]
  by_cases h1 : c1 = d1
  · subst h1
    simp [vector_get_set]
  · simp [h1]

@[simp] theorem State.core_modCore (x : State) (c d : CoreRef) (f : Core → Core) :
    (x.modCore c f).core d = if c = d then f (x.core d) else x.core d := by
  unfold State.modCore
  rw [State.core_setCore]
  split <;> simp_all

@[simp] theorem State.die_setDie (x : State) (c d : Fin 2) (y : Die) :
    (x.setDie c y).die d = if c = d then y else x.die d := by
  simp only [State.die, State.setDie, vector_get_set]

@[simp] theorem State.die_modDie (x : State) (c d : Fin 2) (f : Die → Die) :
    (x.modDie c f).die d = if c = d then f (x.die d) else x.die d := by
  unfold State.modDie
  rw [State.die_setDie]
  split <;> simp_all

@[simp] theorem State.core_modDie (x : State) (c : CoreRef) (d : Fin 2) (f : Die → Die) :
    (x.modDie d f).core c = x.core c := rfl
@[simp] theorem State.die_modCore (x : State) (c : CoreRef) (d : Fin 2) (f : Core → Core) :
    (x.modCore c f).die d = x.die d := rfl

end Sys2Proof.Machine
end

