-- ==== Sys2Proof/Laws/Memory.lean ====
section
/-! SUPPORT. The laws of byte memory: every operation keeps the canonical form, a read after a write gives the value
written, a write leaves every other place alone, and equal contents are equal data. -/

namespace Sys2Proof.Machine

/-! ### The canonical form -/

theorem Mem.wfFrom_le {lo hi : Nat} {m : Mem} (h : Mem.wfFrom hi m = true) (hl : lo ≤ hi) : Mem.wfFrom lo m = true := by
  cases m with
  | nil => rfl
  | cons c m =>
    simp only [Mem.wfFrom, Bool.and_eq_true, decide_eq_true_eq] at h ⊢
    exact ⟨⟨by omega, h.1.2⟩, h.2⟩

theorem Mem.wfFrom_cell {lo a : Nat} {b : Byte} {m : Mem} (h : Mem.wfFrom (a + 1) m = true) (hl : lo ≤ a) :
    Mem.wfFrom lo (Mem.cell a b m) = true := by
  unfold Mem.cell
  split
  · exact Mem.wfFrom_le h (by omega)
  · simp_all [Mem.wfFrom]

theorem Mem.wfFrom_write {lo a : Nat} {b : Byte} {m : Mem} (h : Mem.wfFrom lo m = true) (hl : lo ≤ a) :
    Mem.wfFrom lo (m.write a b) = true := by
  induction m generalizing lo with
  | nil => exact Mem.wfFrom_cell rfl hl
  | cons c m ih =>
    obtain ⟨x, y⟩ := c
    simp only [Mem.wfFrom, Bool.and_eq_true, decide_eq_true_eq] at h
    simp only [Mem.write]
    split
    · subst a
      exact Mem.wfFrom_cell h.2 hl
    · split
      · refine Mem.wfFrom_cell ?_ hl
        simp only [Mem.wfFrom, Bool.and_eq_true, decide_eq_true_eq]
        exact ⟨⟨by omega, h.1.2⟩, h.2⟩
      · simp only [Mem.wfFrom, Bool.and_eq_true, decide_eq_true_eq]
        exact ⟨h.1, ih h.2 (by omega)⟩

theorem Mem.wfFrom_filter {lo : Nat} {m : Mem} (p : Host.Cell → Bool) (h : Mem.wfFrom lo m = true) :
    Mem.wfFrom lo (m.filter p) = true := by
  induction m generalizing lo with
  | nil => rfl
  | cons c m ih =>
    obtain ⟨x, y⟩ := c
    simp only [Mem.wfFrom, Bool.and_eq_true, decide_eq_true_eq] at h
    by_cases hp : p (x, y) = true
    · simp only [List.filter_cons, hp, if_true, Mem.wfFrom, Bool.and_eq_true, decide_eq_true_eq]
      exact ⟨h.1, ih h.2⟩
    · simp only [List.filter_cons, hp]
      exact Mem.wfFrom_le (ih h.2) (by omega)

@[simp] theorem Mem.wf_write {m : Mem} (h : m.wf = true) (a : Nat) (b : Byte) : (m.write a b).wf = true :=
  Mem.wfFrom_write h (by omega)

@[simp] theorem Mem.wf_writes {m : Mem} (h : m.wf = true) (a : Nat) (bs : List Byte) : (m.writes a bs).wf = true := by
  induction bs generalizing m a with
  | nil => exact h
  | cons b bs ih => exact ih (Mem.wf_write h a b) (a + 1)

@[simp] theorem Mem.wf_setNat {m : Mem} (h : m.wf = true) (a n v : Nat) : (m.setNat a n v).wf = true :=
  Mem.wf_writes h a _

@[simp] theorem Mem.wf_copyFrom {m : Mem} (h : m.wf = true) (src : Mem) (a n : Nat) :
    (m.copyFrom src a n).wf = true := Mem.wf_writes h a _

@[simp] theorem Mem.wf_filter {m : Mem} (h : m.wf = true) (p : Host.Cell → Bool) : Mem.wf (m.filter p) = true :=
  Mem.wfFrom_filter p h

@[simp] theorem Mem.wf_slice {m : Mem} (h : m.wf = true) (lo n : Nat) : (m.slice lo n).wf = true := Mem.wf_filter h _

@[simp] theorem Mem.wf_clear {m : Mem} (h : m.wf = true) (lo n : Nat) : (m.clear lo n).wf = true := Mem.wf_filter h _

@[simp] theorem Mem.wf_overlay {m : Mem} (h : m.wf = true) (path : List PathEntry) : (overlay m path).wf = true := by
  unfold overlay
  induction path generalizing m with
  | nil => exact h
  | cons p ps ih => exact ih (Mem.wf_writes h p.pa p.bytes)

@[simp] theorem State.reset_mem_wf : State.reset.mem.wf = true := rfl

/-! ### Reads -/

theorem Mem.read_below {lo a : Nat} {m : Mem} (h : Mem.wfFrom lo m = true) (ha : a < lo) : m.read a = 0 := by
  cases m with
  | nil => rfl
  | cons c m =>
    simp only [Mem.wfFrom, Bool.and_eq_true, decide_eq_true_eq] at h
    simp only [Mem.read]
    rw [if_neg (by omega), if_pos (by omega)]

theorem Mem.read_cell {a x : Nat} {b : Byte} {m : Mem} (h : Mem.wfFrom (a + 1) m = true) :
    (Mem.cell a b m).read x = if x = a then b else m.read x := by
  unfold Mem.cell
  split
  · split
    · subst x
      rw [Mem.read_below h (by omega)]
      simp_all
    · rfl
  · simp only [Mem.read]
    split
    · rfl
    · split
      · exact (Mem.read_below h (by omega)).symm
      · rfl

theorem Mem.read_write_from {lo a x : Nat} {b : Byte} {m : Mem} (h : Mem.wfFrom lo m = true) :
    (m.write a b).read x = if x = a then b else m.read x := by
  induction m generalizing lo with
  | nil => exact Mem.read_cell rfl
  | cons c m ih =>
    obtain ⟨y, z⟩ := c
    simp only [Mem.wfFrom, Bool.and_eq_true, decide_eq_true_eq] at h
    simp only [Mem.write]
    split
    · subst a
      rw [Mem.read_cell h.2]
      simp only [Mem.read]
      by_cases hx : x = y
      · simp [hx]
      · simp only [hx, if_false]
        by_cases hl : x < y
        · simp [hl, Mem.read_below h.2 (show x < y + 1 by omega)]
        · simp [hl]
    · split
      · refine Mem.read_cell ?_
        simp only [Mem.wfFrom, Bool.and_eq_true, decide_eq_true_eq]
        exact ⟨⟨by omega, h.1.2⟩, h.2⟩
      · simp only [Mem.read, ih h.2]
        by_cases hx : x = y
        · subst x
          simp only [if_true]
          rw [if_neg (by omega)]
        · simp only [hx, if_false]
          by_cases hl : x < y
          · simp only [hl, if_true]
            rw [if_neg (by omega)]
          · simp [hl]

/-- A read after a write of one byte: the byte written, and every other place as before. -/
theorem Mem.read_write {m : Mem} (h : m.wf = true) (a : Nat) (b : Byte) (x : Nat) :
    (m.write a b).read x = if x = a then b else m.read x := Mem.read_write_from h

/-- A read after a write of a run of bytes. -/
theorem Mem.read_writes {m : Mem} (h : m.wf = true) (a : Nat) (bs : List Byte) (x : Nat) :
    (m.writes a bs).read x = if a ≤ x ∧ x < a + bs.length then bs.getD (x - a) 0 else m.read x := by
  induction bs generalizing m a with
  | nil =>
    simp only [Mem.writes, List.length_nil]
    rw [if_neg (by omega)]
  | cons b bs ih =>
    simp only [Mem.writes, ih (Mem.wf_write h a b), Mem.read_write h, List.length_cons]
    by_cases hx : x = a
    · subst x
      rw [if_neg (by omega), if_pos rfl, if_pos (by omega), Nat.sub_self]
      rfl
    · by_cases hr : a + 1 ≤ x ∧ x < a + 1 + bs.length
      · obtain ⟨k, rfl⟩ : ∃ k, x = a + 1 + k := ⟨x - (a + 1), by omega⟩
        rw [if_pos hr, if_pos (by omega), show a + 1 + k - (a + 1) = k by omega, show a + 1 + k - a = k + 1 by omega]
        rfl
      · rw [if_neg hr, if_neg hx, if_neg (by omega)]

/-- What `Mem.wrote` of the statements says is what a write does. -/
theorem Mem.wrote_writes {m : Mem} (h : m.wf = true) (a : Nat) (bs : List Byte) : m.wrote (m.writes a bs) a bs :=
  fun x => Mem.read_writes h a bs x

@[simp] theorem Mem.bytes_length (m : Mem) (a n : Nat) : (m.bytes a n).length = n := by
  induction n generalizing a with
  | zero => rfl
  | succ n ih => simp [Mem.bytes, ih]

theorem Mem.bytes_getD (m : Mem) (a n i : Nat) (h : i < n) : (m.bytes a n).getD i 0 = m.read (a + i) := by
  induction n generalizing a i with
  | zero => omega
  | succ n ih =>
    cases i with
    | zero => simp [Mem.bytes]
    | succ i =>
      have := ih (a + 1) i (by omega)
      simp only [Mem.bytes, List.getD_cons_succ, this]
      congr 1
      omega

theorem Mem.read_copyFrom {m : Mem} (h : m.wf = true) (src : Mem) (a n x : Nat) :
    (m.copyFrom src a n).read x = if a ≤ x ∧ x < a + n then src.read x else m.read x := by
  rw [Mem.copyFrom, Mem.read_writes h, Mem.bytes_length]
  split
  · rw [Mem.bytes_getD _ _ _ _ (by omega)]
    congr 1
    omega
  · rfl

theorem Mem.read_filter_from {lo x : Nat} {m : Mem} (p : Nat → Bool) (h : Mem.wfFrom lo m = true) :
    Mem.read (m.filter fun c => p c.1) x = if p x then m.read x else 0 := by
  induction m generalizing lo with
  | nil => simp [Mem.read]
  | cons c m ih =>
    obtain ⟨y, z⟩ := c
    simp only [Mem.wfFrom, Bool.and_eq_true, decide_eq_true_eq] at h
    simp only [List.filter_cons]
    by_cases hp : p y = true
    · simp only [hp, if_true, Mem.read, ih h.2]
      split
      · simp_all
      · split <;> simp
    · rw [if_neg hp]
      simp only [ih h.2, Mem.read]
      by_cases hx : x = y
      · subst x
        simp [hp]
      · simp only [hx, if_false]
        by_cases hl : x < y
        · simp [hl, Mem.read_below h.2 (show x < y + 1 by omega)]
        · simp [hl]

theorem Mem.read_slice {m : Mem} (h : m.wf = true) (lo n x : Nat) :
    (m.slice lo n).read x = if lo ≤ x ∧ x < lo + n then m.read x else 0 := by
  have := Mem.read_filter_from (x := x) (fun a => decide (lo ≤ a ∧ a < lo + n)) h
  simpa [Mem.slice] using this

theorem Mem.read_clear {m : Mem} (h : m.wf = true) (lo n x : Nat) :
    (m.clear lo n).read x = if x < lo ∨ lo + n ≤ x then m.read x else 0 := by
  have := Mem.read_filter_from (x := x) (fun a => decide (a < lo ∨ lo + n ≤ a)) h
  simpa [Mem.clear] using this

/-! ### Equal contents are equal data -/

theorem Mem.ext_from {lo : Nat} {m n : Mem} (hm : Mem.wfFrom lo m = true) (hn : Mem.wfFrom lo n = true)
    (h : ∀ a, lo ≤ a → m.read a = n.read a) : m = n := by
  induction m generalizing lo n with
  | nil =>
    cases n with
    | nil => rfl
    | cons c n =>
      obtain ⟨y, z⟩ := c
      simp only [Mem.wfFrom, Bool.and_eq_true, decide_eq_true_eq, bne_iff_ne] at hn
      have := h y hn.1.1
      simp only [Mem.read, if_true] at this
      exact absurd this.symm hn.1.2
  | cons c m ih =>
    obtain ⟨x, b⟩ := c
    cases n with
    | nil =>
      simp only [Mem.wfFrom, Bool.and_eq_true, decide_eq_true_eq, bne_iff_ne] at hm
      have := h x hm.1.1
      simp only [Mem.read, if_true] at this
      exact absurd this hm.1.2
    | cons d n =>
      obtain ⟨y, z⟩ := d
      simp only [Mem.wfFrom, Bool.and_eq_true, decide_eq_true_eq, bne_iff_ne] at hm hn
      have hxy : x = y := by
        rcases Nat.lt_trichotomy x y with l | e | g
        · have := h x hm.1.1
          simp only [Mem.read, if_true] at this
          rw [if_neg (by omega), if_pos l] at this
          exact absurd this hm.1.2
        · exact e
        · have := h y hn.1.1
          simp only [Mem.read, if_true] at this
          rw [if_neg (by omega), if_pos g] at this
          exact absurd this.symm hn.1.2
      subst y
      have hb : b = z := by simpa [Mem.read] using h x hm.1.1
      subst z
      congr 1
      refine ih hm.2 hn.2 fun a ha => ?_
      have := h a (by omega)
      simp only [Mem.read] at this
      rwa [if_neg (by omega), if_neg (by omega), if_neg (by omega), if_neg (by omega)] at this

/-- Memories in canonical form that read the same are the same data. -/
theorem Mem.ext {m n : Mem} (hm : m.wf = true) (hn : n.wf = true) (h : ∀ a, m.read a = n.read a) : m = n :=
  Mem.ext_from hm hn fun a _ => h a

/-- Writing what a byte already reads as changes nothing. -/
theorem Mem.write_read {m : Mem} (h : m.wf = true) (a : Nat) : m.write a (m.read a) = m :=
  Mem.ext (Mem.wf_write h _ _) h fun x => by
    rw [Mem.read_write h]
    split
    · subst x
      rfl
    · rfl

/-! ### Little-endian numbers (R12) -/

@[simp] theorem leBytes_length (n v : Nat) : (leBytes n v).length = n := by
  induction n generalizing v with
  | zero => rfl
  | succ n ih => simp [leBytes, ih]

theorem leNat_leBytes (n v : Nat) : leNat (leBytes n v) = v % 256 ^ n := by
  induction n generalizing v with
  | zero => simp [leBytes, leNat, Nat.mod_one]
  | succ n ih =>
    simp only [leBytes, leNat, ih, BitVec.toNat_ofNat]
    have := Nat.mod_mul (x := v) (a := 256) (b := 256 ^ n)
    rw [← Nat.pow_succ'] at this
    exact this.symm

theorem Mem.bytes_writes {m : Mem} (h : m.wf = true) (a : Nat) (bs : List Byte) :
    (m.writes a bs).bytes a bs.length = bs := by
  apply List.ext_getElem
  · simp
  · intro i h1 h2
    have hi : i < bs.length := by simpa using h1
    have := Mem.bytes_getD (m.writes a bs) a bs.length i hi
    rw [Mem.read_writes h, if_pos (by omega), show a + i - a = i by omega] at this
    simpa [List.getD_eq_getElem?_getD, h1, h2] using this

/-- A number read back from where it was written. -/
theorem Mem.nat_setNat {m : Mem} (h : m.wf = true) (a n v : Nat) : (m.setNat a n v).nat a n = v % 256 ^ n := by
  have := Mem.bytes_writes h a (leBytes n v)
  rw [leBytes_length] at this
  rw [Mem.nat, Mem.setNat, this, leNat_leBytes]

end Sys2Proof.Machine
end

