-- ==== Sys2Proof/Laws/Ops.lean ====
section
/-! SUPPORT. What the shared operations of a group can do, each said once: run boundaries, traps, the end of a word, jumps,
and the issue of accesses and commands. -/

namespace Sys2Proof.Machine

/-! ### STATUS (R10) -/

@[simp] theorem mkStatus_ssc : ∀ (a : BitVec 4) (b c d : Bool), (mkStatus a b c d).extractLsb' 12 4 = a := by decide
@[simp] theorem mkStatus_tm : ∀ (a : BitVec 4) (b c d : Bool), (mkStatus a b c d).getLsbD 0 = d := by decide
@[simp] theorem mkStatus_plerr : ∀ (a : BitVec 4) (b c d : Bool), (mkStatus a b c d).getLsbD 1 = c := by decide
@[simp] theorem mkStatus_wdx : ∀ (a : BitVec 4) (b c d : Bool), (mkStatus a b c d).getLsbD 2 = b := by decide

/-! ### Run boundaries (R20, R22, R25) -/

/-- A run boundary: the group parks while results are outstanding, and is through its park otherwise. -/
theorem State.boundary_cases (s : State) (b : Boundary) :
    (s.g.log ≠ [] ∧ s.boundary b = { s with g := { s.g with run := .parked b } }) ∨
      (s.g.log = [] ∧ s.boundary b = s.settle b) := by
  unfold State.boundary
  cases h : s.g.log <;> simp

/-- Beginning to wait: Waiting, or stopped for a preemption; nothing else of the group changes, and nothing else. -/
theorem State.beginWait_cases (s : State) (c : Ctl) (w : Wait) :
    s.beginWait c w = { s with g := { s.g with run := .waiting c w } } ∨
      s.beginWait c w = { s with g := s.g.suspend 4 (some w) } := by
  unfold State.beginWait
  split
  · exact .inr rfl
  · exact .inl rfl

/-- At a safe point only the focused group changes. -/
theorem State.safePoint_onlyGroup (s : State) (sp : Bool) (k : Group → Run) : s.onlyGroup (s.safePoint sp k) := by
  unfold State.onlyGroup State.safePoint
  dsimp only
  split
  · rfl
  · split
    · rcases State.beginWait_cases { s with g := if sp then s.g.restartWatchdog else s.g } ‹Ctl› ‹Wait› with h | h <;>
        rw [h]
    · rfl

/-- Taking a trap: the saved registers, STATUS and the handler's place (R32), or the abort of the launch. -/
theorem State.enterTrap_cases (s : State) (t : TrapReq) :
    (s.g.tm = false ∧ s.g.trapbase.getLsbD 0 = true ∧
      s.enterTrap t = { s with g := { s.g with
        status := mkStatus s.g.sc s.g.wdx s.g.plerr true, pc := s.g.trapbase.extractLsb' 8 24 ++ 0#8, plane := 0,
        fresh := true, issued := false, run := .ready, wdue := false, settled := false, waitw := none, owesH := none,
        xpc := t.rbase ++ t.off, xcause := 0#48 ++ t.sub ++ t.code, xinfo := t.info, errs := s.g.errs.filter fun n => !n.saves } }) ∨
    ((s.g.tm = true ∨ s.g.trapbase.getLsbD 0 = false) ∧
      s.enterTrap t = s.abortLaunch s.g.launch (s.report 2 t.code t.sub t.info (s.g.xpc.extractLsb' 32 32) t.off)) := by
  unfold State.enterTrap
  by_cases h : s.g.tm = true ∨ s.g.trapbase.getLsbD 0 = false
  · refine .inr ⟨h, if_pos ?_⟩
    rcases h with h | h <;> simp only [h, Bool.true_or, Bool.not_false, Bool.or_true]
  · simp only [not_or, Bool.not_eq_true, Bool.not_eq_false] at h
    refine .inl ⟨h.1, h.2, ?_⟩
    have hs : (((s.g.setSsc s.g.sc).setTm true).status) = mkStatus s.g.sc s.g.wdx s.g.plerr true := by
      simp only [Group.setTm_status, Group.ssc, Group.wdx, Group.plerr, Group.setSsc_status, mkStatus_ssc, mkStatus_wdx,
        mkStatus_plerr]
    rw [if_neg (by simp [h.1, h.2])]
    simp only [Group.goto, ← hs, Group.setTm, Group.setSsc, Group.cleanIf]

/-- The end of a TRET's park (R33, R106): the place that XPC names with SC and TM restored, or a trap in trap mode. -/
theorem State.trapReturn_cases (s : State) :
    (∃ pc plane, s.trapReturn = { s with g := { s.g with
        sc := s.g.ssc, status := mkStatus s.g.ssc false s.g.plerr false, wcnt := s.g.wdog.toNat * 1024, pc, plane,
        fresh := true, issued := false, run := .ready
        owes := if s.g.owes == some (s.g.xpc.extractLsb' 0 32) then s.g.owes else none
        errs := (s.g.clean (.special 1)).errs } }) ∨
      ∃ t, s.trapReturn = s.enterTrap t := by
  have hs : (({ s.g with sc := s.g.ssc } : Group).setTm false).restartWatchdog.status
      = mkStatus s.g.ssc false s.g.plerr false := by
    simp only [Group.restartWatchdog_status, Group.ssc, Group.plerr, Group.setTm_status, Group.tm, mkStatus_ssc,
      mkStatus_plerr, mkStatus_tm]
  have back (pc : Word) (plane : Fin 4) :
      ({ s with g := { (({ s.g with sc := s.g.ssc } : Group).setTm false).restartWatchdog with
                       pc := pc, plane := plane, fresh := true, issued := false, run := .ready
                       owes := if s.g.owes == some (s.g.xpc.extractLsb' 0 32) then s.g.owes else none
                       errs := (s.g.clean (.special 1)).errs } } : State) =
      { s with g := { s.g with
          sc := s.g.ssc, status := mkStatus s.g.ssc false s.g.plerr false, wcnt := s.g.wdog.toNat * 1024, pc, plane,
          fresh := true, issued := false, run := .ready
          owes := if s.g.owes == some (s.g.xpc.extractLsb' 0 32) then s.g.owes else none
          errs := (s.g.clean (.special 1)).errs } } := by
    rw [← hs]
    rfl
  unfold State.trapReturn
  dsimp only
  split
  · exact .inr ⟨_, rfl⟩
  · split
    · split
      · exact .inr ⟨_, rfl⟩
      · exact .inl ⟨_, _, back _ _⟩
    · split
      · split
        · exact .inl ⟨_, _, back _ _⟩
        · exact .inr ⟨_, rfl⟩
      · exact .inr ⟨_, rfl⟩

/-- The end of a park (R20, R22, R374): a trap, of a deferred fault, of the boundary or of the watchdog; or what the
boundary leads to. -/
theorem State.settle_cases (s : State) (b : Boundary) :
    (∃ n t, s.settle b = { s with g := s.g.takeFault n }.enterTrap t) ∨
    (∃ t, s.settle b = s.enterTrap t) ∨
    (∃ sp, b = .switch sp ∧ s.settle b = s.safePoint sp fun _ => .ready) ∨
    (∃ sp, b = .tret sp ∧
      s.settle b = if s.trapReturn.g.run = .ready then s.trapReturn.safePoint sp fun _ => .ready else s.trapReturn) ∨
    (∃ reg n sp, b = .sleep reg n sp ∧ ∃ k, s.settle b = s.sleepFor k sp) ∨
    (b = .wait ∧ s.settle b = { s with g := { s.g with run := .ready, settled := true } }) := by
  unfold State.settle
  split
  · exact .inl ⟨_, _, rfl⟩
  · by_cases h : (s.g.wdue && !s.g.tm) = true
    · cases b <;> exact .inr (.inl ⟨_, by first | rfl | exact if_pos h⟩)
    · cases b with
      | trap t => exact .inr (.inl ⟨t, rfl⟩)
      | switch sp => exact .inr (.inr (.inl ⟨sp, rfl, if_neg h⟩))
      | tret sp => exact .inr (.inr (.inr (.inl ⟨sp, rfl, if_neg h⟩)))
      | sleep reg n sp => exact .inr (.inr (.inr (.inr (.inl ⟨reg, n, sp, rfl, _, if_neg h⟩))))
      | wait => exact .inr (.inr (.inr (.inr (.inr ⟨rfl, if_neg h⟩))))

/-! ### The end of a word (R7, R20, R25, R102, R103) -/

/-- Passing a plane changes only the group's place. -/
theorem Group.passPlane_frame (g : Group) (n : Nat) :
    ∃ pc plane fresh issued, (g.passPlane n).1 = { g with pc, plane, fresh, issued } := by
  unfold Group.passPlane
  dsimp only
  split
  · exact ⟨_, _, _, _, rfl⟩
  · generalize n + _ = k
    split
    · exact ⟨g.pc, _, _, g.issued, rfl⟩
    · split <;> exact ⟨_, _, _, _, rfl⟩

/-- After a word: the group at its next place, and the run boundary of its SW or of the safe point it leaves. -/
theorem State.advance_cases (s : State) (c : Ctl) : ∃ pc plane fresh issued,
    let t : State := { s with g := { s.g with pc, plane, fresh, issued, settled := false } }
    s.advance c = t ∨ ∃ sp, s.advance c = t.boundary (.switch sp) := by
  obtain ⟨pc, plane, fresh, issued, h⟩ := Group.passPlane_frame s.g c.len.bytes
  refine ⟨pc, plane, fresh, issued, ?_⟩
  unfold State.advance
  dsimp only
  rw [h]
  split
  · exact .inr ⟨_, rfl⟩
  · split
    · exact .inr ⟨_, rfl⟩
    · exact .inl rfl

/-- A jump: a trap without effect, or the group at its target with what else the instruction writes. -/
theorem State.jump_cases (s : State) (c : Ctl) (t : Word64) (f : Group → Group) :
    (∃ code, s.jump c t f = s.boundary (.trap (s.g.trapHere code (if code = 4 then 3 else 0) t))) ∨
      let u : State := { s with g := { (f s.g).goto (t.extractLsb' 0 32) with settled := false } }
      s.jump c t f = u ∨ s.jump c t f = u.boundary (.switch c.sp) := by
  unfold State.jump
  split
  · exact .inl ⟨2, rfl⟩
  · dsimp only
    split
    · exact .inl ⟨4, rfl⟩
    · split
      · exact .inr (.inr rfl)
      · exact .inr (.inl rfl)

/-- What a once-per-group instruction does: nothing but its end when COND is false, else its body or its trap (R43). -/
theorem State.once_cases (s : State) (c : Ctl) (cond : Cond) (r : Except TrapReq State) :
    (cond.holds s.g.sc = false ∧ s.once c cond r = s.advance c) ∨
    (cond.holds s.g.sc = true ∧ ∃ t, r = .ok t ∧ s.once c cond r = t.advance c) ∨
    (cond.holds s.g.sc = true ∧ ∃ t, r = .error t ∧ s.once c cond r = s.boundary (.trap t)) := by
  unfold State.once State.finish
  cases cond.holds s.g.sc <;> cases r <;> simp

/-! ### Accesses and commands at issue (R21, R42, R228, R233, R242) -/

/-- Issuing an access: no lane, a stall, a trap, or its entries. -/
theorem State.issueAccess_cases (s : State) (x : Access) (full : Group → Bool) (f : Group → Group) :
    (x.es = [] ∧ s.g.cflush = none ∧ s.issueAccess x full f = s.advance x.c) ∨
    s.issueAccess x full f = s ∨
    (∃ t, s.checkAccess x.sp x.ty.bytes x.scalar x.es = some t ∧
      s.issueAccess x full f = s.boundary (.trap t)) ∨
    (s.g.cflush = none ∧ s.checkAccess x.sp x.ty.bytes x.scalar x.es = none ∧ full s.g = false ∧
      s.issueAccess x full f = { s with g := f s.g }.advance x.c) := by
  unfold State.issueAccess
  by_cases hf : s.g.flushing = true
  · exact .inr (.inl (by simp [hf]))
  · have hn : s.g.cflush = none := by simpa [Group.flushing] using hf
    simp only [hf]
    cases he : x.es with
    | nil => exact .inl ⟨rfl, hn, rfl⟩
    | cons e es =>
      refine .inr ?_
      simp only [List.isEmpty_cons]
      cases hc : s.checkAccess x.sp x.ty.bytes x.scalar (e :: es) with
      | some t => exact .inr (.inl ⟨t, rfl, rfl⟩)
      | none =>
        cases hu : full s.g with
        | true => exact .inl rfl
        | false => exact .inr (.inr ⟨hn, rfl, rfl, rfl⟩)

/-- Without room a command is not made, and nothing changes (R242). -/
theorem State.issueCmd_stall (s : State) (r : CmdReq) (h : s.cmdRoom r = false) : s.issueCmd r = s := by
  unfold State.issueCmd
  simp [h]

/-! ### Translation (R386) -/

/-- The state that a translation leaves. -/
def Trans.state : Trans → State
  | .ok _ s => s
  | .wait s => s
  | .bad _ _ s => s

/-- Noting a context changes only its die. -/
theorem State.noteCtx_frame (s : State) (d : Fin 2) (ctx : BitVec 12) :
    s.noteCtx d ctx = { s with dies := (s.noteCtx d ctx).dies } := by
  unfold State.noteCtx; split <;> rfl

/-- A hit goes on with its own state. -/
@[simp] theorem State.hitAt_state (s : State) (pa : Nat) : (s.hitAt pa).state = s := by
  unfold State.hitAt; split <;> rfl

/-- Putting a walk into the queue changes only its die. -/
theorem State.askWalk_frame (s : State) (d : Fin 2) (w : Walk) :
    s.askWalk d w = { s with dies := (s.askWalk d w).dies } := by
  unfold State.askWalk; rw [s.noteCtx_frame d w.ctx]; rfl

/-- Filling the TLB of an engine changes its die, or the second-level TLB of its core. -/
theorem State.fillNow_frame (s : State) (d : Fin 2) (core : Option (Fin 128)) (e : TlbEntry) :
    s.fillNow d core e = { s with dies := (s.fillNow d core e).dies, cores := (s.fillNow d core e).cores } ∧
      (core = none → (s.fillNow d core e).cores = s.cores) := by
  cases core <;> simp [State.fillNow, State.modDie, State.modCore, State.setDie, State.setCore]

/-- What a walk within a step can do: the dies' tables and TLBs change, and the second-level TLBs of cores. -/
theorem State.walkNow_frame (s : State) (d : Fin 2) (w : Walk) :
    let t := (s.walkNow d w).state
    t = { s with dies := t.dies, cores := t.cores } ∧ (w.core = none → t.cores = s.cores) := by
  have n := s.noteCtx_frame d w.ctx
  have c : (s.noteCtx d w.ctx).cores = s.cores := by rw [n]
  unfold State.walkNow
  dsimp only
  generalize s.noteCtx d w.ctx = u at n c
  split
  · split
    · rw [State.hitAt_state]
      have f := u.fillNow_frame d w.core
      exact ⟨by rw [(f _).1, n], fun h => ((f _).2 h).trans c⟩
    · exact ⟨by rw [n]; rfl, fun _ => c⟩
  · exact ⟨by rw [n]; rfl, fun _ => c⟩
  · exact ⟨by rw [n]; rfl, fun _ => c⟩

/-- What a translation through some TLBs can do: the dies' tables change, and else what a miss changes. -/
theorem State.through_cases (s : State) (d : Fin 2) (es : List TlbEntry) (w : Walk) (miss : State → Trans) :
    (s.through d es w miss).state = { s with dies := (s.through d es w miss).state.dies } ∨
      s.through d es w miss = miss s := by
  unfold State.through
  dsimp only
  split
  · exact .inl rfl
  · split
    · exact .inl rfl
    · split
      · rw [State.hitAt_state]; exact .inl rfl
      · exact .inr rfl

/-- Where a miss changes only tables, so does the translation. -/
theorem State.through_frame (s : State) (d : Fin 2) (core : Option (Fin 128)) (es : List TlbEntry) (w : Walk)
    (miss : State → Trans)
    (h : (miss s).state = { s with dies := (miss s).state.dies, cores := (miss s).state.cores } ∧
      (core = none → (miss s).state.cores = s.cores)) :
    let t := (s.through d es w miss).state
    t = { s with dies := t.dies, cores := t.cores } ∧ (core = none → t.cores = s.cores) := by
  obtain k | k := s.through_cases d es w miss
  · dsimp only; rw [k]; exact ⟨rfl, fun _ => rfl⟩
  · dsimp only; rw [k]; exact h

/-- What an engine's translation can do: the dies' queues and TLBs change, and the second-level TLBs of cores. -/
theorem State.lookNow_frame (s : State) (d : Fin 2) (core : Option (Fin 128)) (who : Requester) (ctx : BitVec 12) (va : Nat)
    (cls : AccClass) (atomic : Bool) :
    let t := (s.lookNow d core who ctx va cls atomic).state
    t = { s with dies := t.dies, cores := t.cores } ∧ (core = none → t.cores = s.cores) := by
  unfold State.lookNow
  refine s.through_frame d core _ _ _ ?_
  split
  · simp only [Trans.state]; rw [s.askWalk_frame]; exact ⟨rfl, fun _ => rfl⟩
  · exact s.walkNow_frame d _

/-- The first use of a context changes only its die's tables. -/
theorem State.firstRead_frame (s : State) (d : Fin 2) (ctx : BitVec 12) :
    let t := (s.firstRead d ctx).state
    t = { s with dies := t.dies } := by
  unfold State.firstRead
  split
  · rfl
  · have n := s.noteCtx_frame d ctx
    dsimp only
    generalize s.noteCtx d ctx = u at n
    have h := u.lookNow_frame d none (.seals d ctx) ctx (u.desc d ctx).seala.toNat .read false
    have e := h.1.trans (by rw [h.2 rfl])
    split
    · next heq =>
      rw [heq] at e
      simp only [Trans.state] at e
      split
      · simp only [Trans.state]; rw [e, n]
      · simp only [Trans.state, State.keepSeals, State.modDie, State.setDie]; rw [e, n]
    · rw [e, n]

/-- The first use of a context, its table readable or not, changes only its die's tables. -/
theorem State.readCtx_frame (s : State) (d : Fin 2) (ctx : BitVec 12) :
    let t := (s.readCtx d ctx).state
    t = { s with dies := t.dies } := by
  have k := s.firstRead_frame d ctx
  unfold State.readCtx
  split
  · next heq => rw [heq] at k; exact k
  · exact k

/-- A translation for a core changes only the dies' queues and tables. -/
theorem State.translate_frame (s : State) (c : CoreRef) (who : Requester) (ctx : BitVec 12) (va : Nat) (cls : AccClass)
    (atomic : Bool) :
    let t := (s.translate c who ctx va cls atomic).state
    t = { s with dies := t.dies } := by
  have j : (s.judging c.die ctx cls).state = { s with dies := (s.judging c.die ctx cls).state.dies } := by
    unfold State.judging
    split
    · exact s.readCtx_frame c.die ctx
    · rfl
  unfold State.translate
  generalize s.judging c.die ctx cls = u at j
  cases u with
  | wait t => exact j
  | bad st told t => exact j
  | ok pa t =>
    simp only [Trans.state] at j
    simp only [Trans.andThen]
    obtain h | h := t.through_cases c.die
      ((if cls = .fetch then (t.core c).itlb else (t.core c).dtlb) ++ (t.core c).tlb2)
      ⟨who, ctx, va, cls, atomic, some c.core⟩ fun s => .wait (s.askWalk c.die ⟨who, ctx, va, cls, atomic, some c.core⟩)
    · rw [h, j]
    · rw [h]; simp only [Trans.state]; rw [t.askWalk_frame, j]

/-- An engine's translation changes only the dies' queues and tables, and TLBs. -/
theorem State.translateNow_frame (s : State) (d : Fin 2) (core : Option (Fin 128)) (who : Requester) (ctx : BitVec 12)
    (va : Nat) (cls : AccClass) (atomic : Bool) :
    let t := (s.translateNow d core who ctx va cls atomic).state
    t = { s with dies := t.dies, cores := t.cores } := by
  have j : (s.judging d ctx cls).state = { s with dies := (s.judging d ctx cls).state.dies } := by
    unfold State.judging
    split
    · exact s.readCtx_frame d ctx
    · rfl
  unfold State.translateNow
  generalize s.judging d ctx cls = u at j
  cases u with
  | wait t => simp only [Trans.state] at j; simp only [Trans.andThen, Trans.state]; rw [j]
  | bad st told t => simp only [Trans.state] at j; simp only [Trans.andThen, Trans.state]; rw [j]
  | ok pa t =>
    simp only [Trans.state] at j
    have k := (t.lookNow_frame d core who ctx va cls atomic).1
    simp only [Trans.andThen]
    rw [k, j]

end Sys2Proof.Machine
end

