-- ==== Sys2Proof/Laws/Canonical.lean ====
section
/-! SUPPORT. The writes to memory keep its canonical form, and so do the operations of a group that come to them through
the abort of a launch. -/

namespace Sys2Proof.Machine

/-! ### Writes at the point of coherence (R181, R185, R193) -/

theorem State.memOk_of_eq {s t : State} (h : s.memOk) (hm : t.mem = s.mem) (hg : t.gddr = s.gddr) : t.memOk := by
  rw [State.memOk, hm, hg]
  exact h

theorem State.memOk_cleanLine {s : State} (h : s.memOk) (l : LineNo) : (s.cleanLine l).memOk := by
  dsimp only [State.memOk, State.cleanLine]
  exact ⟨h.1, Mem.wf_copyFrom h.2 _ _ _⟩

@[simp] theorem State.cleanLine_mem (s : State) (l : LineNo) : (s.cleanLine l).mem = s.mem := by
  unfold State.cleanLine
  exact rfl

/-- Making room in L2 leaves what the device reads as it is. -/
@[simp] theorem State.evictFor_mem (s : State) (l : LineNo) : (s.evictFor l).mem = s.mem := by
  unfold State.evictFor
  split
  · exact s.cleanLine_mem _
  · exact rfl

theorem State.memOk_evictFor {s : State} (h : s.memOk) (l : LineNo) : (s.evictFor l).memOk := by
  unfold State.evictFor
  split
  · exact State.memOk_cleanLine h _
  · exact h

@[simp] theorem State.dirtyLine_mem (s : State) (ctx : BitVec 12) (l : LineNo) : (s.dirtyLine ctx l).mem = s.mem := by
  unfold State.dirtyLine
  split
  · rfl
  · exact s.evictFor_mem l

theorem State.memOk_dirtyLine {s : State} (h : s.memOk) (ctx : BitVec 12) (l : LineNo) : (s.dirtyLine ctx l).memOk := by
  have e := State.memOk_evictFor h l
  unfold State.dirtyLine
  split
  · exact h
  · dsimp only [State.memOk]
    exact ⟨e.1, Mem.wf_copyFrom e.2 _ _ _⟩

theorem State.memOk_writeLine {s : State} (h : s.memOk) (ctx : BitVec 12) (pa : Nat) (bs : List Byte) :
    (s.writeLine ctx pa bs).memOk := by
  have hd := State.memOk_dirtyLine h ctx (lineOf pa)
  refine ⟨?_, hd.2⟩
  show ((s.dirtyLine ctx (lineOf pa)).mem.writes pa bs).wf = true
  exact Mem.wf_writes hd.1 _ _

@[simp] theorem State.writeLine_mem (s : State) (ctx : BitVec 12) (pa : Nat) (bs : List Byte) :
    (s.writeLine ctx pa bs).mem = s.mem.writes pa bs := by
  simp [State.writeLine]

theorem State.memOk_writeLines {s : State} (h : s.memOk) (ctx : BitVec 12) (pa : Nat) (bs : List Byte) (n : Nat) :
    (s.writeLines ctx pa bs n).memOk := by
  induction n generalizing s pa bs with
  | zero => exact h
  | succ n ih =>
    unfold State.writeLines
    split
    · exact h
    · exact ih (State.memOk_writeLine h ctx pa _) _ _

theorem State.memOk_writeL2 {s : State} (h : s.memOk) (ctx : BitVec 12) (pa : Nat) (bs : List Byte) :
    (s.writeL2 ctx pa bs).memOk := State.memOk_writeLines h ctx pa bs _

theorem State.memOk_writePhys {s : State} (h : s.memOk) (ctx : BitVec 12) (pa : Nat) (bs : List Byte) :
    (s.writePhys ctx pa bs).memOk := by
  unfold State.writePhys
  split
  · exact h
  · exact State.memOk_writeL2 h ctx pa bs

theorem State.memOk_notify {s : State} (h : s.memOk) (d : Fin 2) (bit : Nat) : (s.notify d bit).memOk := h

theorem State.memOk_noteCtx {s : State} (h : s.memOk) (d : Fin 2) (ctx : BitVec 12) : (s.noteCtx d ctx).memOk := by
  rw [s.noteCtx_frame]
  exact State.memOk_of_eq h rfl rfl

/-- The turn of an atomic changes only the slice's service order and its core's L1. -/
theorem State.memOk_atomTurn {s t : State} (h : s.memOk) (d : Fin 2) (core : Option (Fin 128)) (atomic : Bool) (pa : Nat)
    (ht : s.atomTurn d core atomic pa = some t) : t.memOk := by
  revert ht
  unfold State.atomTurn
  dsimp only
  split
  · simp
  · split
    · intro e
      cases core <;> cases e <;> exact State.memOk_of_eq h rfl rfl
    · simp

theorem State.memOk_writeEvent {s : State} (h : s.memOk) (d : Fin 2) (c : CtxDesc) (kind pa : Nat) :
    (s.writeEvent d c kind pa).memOk := by
  unfold State.writeEvent
  extract_lets
  exact State.memOk_notify (State.memOk_writePhys (State.memOk_writePhys h _ _ _) _ _ _) d 1

theorem State.memOk_writeEventsGo {s : State} (h : s.memOk) (d : Fin 2) (es : List (BitVec 12 × Nat × Nat)) :
    (s.writeEventsGo d es).memOk := by
  induction es generalizing s with
  | nil => exact State.memOk_of_eq h rfl rfl
  | cons e es ih =>
    unfold State.writeEventsGo
    dsimp only
    split
    · exact State.memOk_of_eq h rfl rfl
    · next u hu => exact ih (State.memOk_writeEvent (State.memOk_atomTurn (t := u) h _ _ _ _ hu) _ _ _ _)

theorem State.memOk_appendEvent {s : State} (h : s.memOk) (d : Fin 2) (ctx : BitVec 12) (kind pa : Nat) :
    (s.appendEvent d ctx kind pa).memOk := by
  unfold State.appendEvent State.writeEvents
  refine State.memOk_writeEventsGo (s := (s.noteCtx d ctx).modDie d _) ?_ _ _
  exact State.memOk_of_eq (State.memOk_noteCtx h d ctx) rfl rfl

/-! ### Accesses through a translation (R379, R385) -/

/-- Memory is in its canonical form in the state that an access leaves. -/
def Chk.memOk {α : Type} : Chk α → Prop
  | .ok _ t => t.memOk
  | .wait t => t.memOk
  | .bad _ _ t => t.memOk

/-- A way of translating keeps memory in its canonical form. -/
def Via.keeps (via : Via) : Prop :=
  ∀ (s : State) (va : Nat) (cls : AccClass) (atomic : Bool), s.memOk → (via s va cls atomic).state.memOk

theorem State.memOk_translateNow {s : State} (h : s.memOk) (d : Fin 2) (core : Option (Fin 128)) (who : Requester)
    (ctx : BitVec 12) (va : Nat) (cls : AccClass) (atomic : Bool) :
    (s.translateNow d core who ctx va cls atomic).state.memOk := by
  have e := s.translateNow_frame d core who ctx va cls atomic
  dsimp only at e
  rw [e]
  exact State.memOk_of_eq h rfl rfl

theorem viaInfl_keeps (c : CoreRef) (ctx : BitVec 12) (desc : Nat) (slot : Fin 2) : (viaInfl c ctx desc slot).keeps :=
  fun _ _ _ _ h => State.memOk_translateNow h _ _ _ _ _ _ _

theorem viaReport_keeps (l : Launch) : (viaReport l).keeps := fun _ _ _ _ h => State.memOk_translateNow h _ _ _ _ _ _ _

theorem writeVia_memOk {via : Via} (hv : via.keeps) {s : State} (h : s.memOk) (d : Fin 2) (ctx : BitVec 12) (va n : Nat)
    (atomic : Bool) : (writeVia via d ctx s va n atomic).memOk := by
  have hk := hv s va .write atomic h
  unfold writeVia
  split
  · exact h
  · generalize via s va .write atomic = r at hk
    cases r with
    | ok pa t =>
      dsimp only
      split
      · exact hk
      · split <;> exact hk
    | wait t => exact hk
    | bad st t => exact hk

theorem readVia_memOk {via : Via} (hv : via.keeps) {s : State} (h : s.memOk) (va n : Nat) :
    (readVia via s va n).memOk := by
  have hk := hv s va .read false h
  unfold readVia
  split
  · exact h
  · generalize via s va .read false = r at hk
    cases r with
    | ok pa t =>
      dsimp only
      split <;> exact hk
    | wait t => exact hk
    | bad st t => exact hk

theorem turnVia_memOk {via : Via} (hv : via.keeps) {s : State} (h : s.memOk) (d : Fin 2) (ctx : BitVec 12)
    (core : Option (Fin 128)) (va n : Nat) (atomic : Bool) : (turnVia via d ctx core s va n atomic).memOk := by
  have hk := writeVia_memOk hv h d ctx va n atomic
  unfold turnVia
  generalize writeVia via d ctx s va n atomic = r at hk
  cases r with
  | ok pa t =>
    simp only [Chk.bind]
    split
    · next u hu => exact State.memOk_atomTurn (s := t) hk _ _ _ _ hu
    · exact hk
  | wait t => exact hk
  | bad st va t => exact hk

/-! ### The abort of a launch (R174, R331) -/

theorem State.memOk_foldl {α : Type} {f : State → α → State} (hf : ∀ s x, s.memOk → (f s x).memOk) {s : State}
    (h : s.memOk) (xs : List α) : (xs.foldl f s).memOk := by
  induction xs generalizing s with
  | nil => exact h
  | cons x xs ih => exact ih (hf s x h)

theorem State.memOk_releaseCount {s : State} (h : s.memOk) (c : CoreRef) (r : InflRelease) :
    (s.releaseCount c r).memOk := by
  have hk := turnVia_memOk (viaInfl_keeps c r.ctx r.desc r.slot) h c.die r.ctx (some c.core)
    (stateWordAt r.desc r.slot) 8 true
  unfold State.releaseCount
  generalize turnVia _ c.die r.ctx (some c.core) s (stateWordAt r.desc r.slot) 8 true = x at hk
  cases x with
  | ok pa t => exact State.memOk_writeL2 (s := t) hk _ _ _
  | wait t => exact hk
  | bad st va t => exact State.memOk_appendEvent (s := t) hk _ _ _ _

theorem State.memOk_dropRays {s : State} (h : s.memOk) (c : CoreRef) (p : RayLane → Bool) : (s.dropRays c p).memOk := by
  unfold State.dropRays
  dsimp only
  refine State.memOk_foldl ?_ ?_ _
  case refine_2 => exact State.memOk_of_eq h rfl rfl
  intro t x ht
  split
  · exact ht
  · exact State.memOk_releaseCount ht _ _

theorem State.memOk_freeKept {s : State} (h : s.memOk) (k : Kept) : (s.freeKept k).memOk :=
  State.memOk_foldl (fun _ _ ht => State.memOk_foldl (fun _ _ hu => State.memOk_releaseCount hu _ _) ht _) h _

theorem State.memOk_dropAllRays {s : State} (h : s.memOk) (p : RayLane → Bool) :
    (allCores.foldl (fun s c => if (s.core c).rays.any p then s.dropRays c p else s) s).memOk := by
  refine State.memOk_foldl ?_ h _
  intro t c ht
  split
  · exact State.memOk_dropRays ht _ _
  · exact ht

theorem State.memOk_elimKept {s : State} (h : s.memOk) (k : Option Kept) : (k.elim s fun k => s.freeKept k).memOk := by
  cases k with
  | none => exact h
  | some k => exact State.memOk_freeKept h k

theorem State.memOk_stopLaunch {s : State} (h : s.memOk) (key : Nat) : (s.stopLaunch key).memOk := by
  unfold State.stopLaunch
  extract_lets refs keys s1 s2 s3 s4
  have h2 : s2.memOk := State.memOk_of_eq h rfl rfl
  have h3 : s3.memOk := State.memOk_dropAllRays h2 _
  have h4 : s4.memOk := State.memOk_elimKept h3 _
  clear_value s4
  exact ⟨h4.1, h4.2⟩

theorem State.memOk_publish {s : State} (h : s.memOk) (key : Nat) : (s.publish key).memOk := by
  unfold State.publish
  split
  · exact h
  · rename_i l _
    split
    · dsimp only
      split
      · exact h
      · have hk := writeVia_memOk (viaReport_keeps l) h l.chain.die l.ctx l.record.rpta.toNat 64 false
        generalize writeVia _ l.chain.die l.ctx s l.record.rpta.toNat 64 false = x at hk
        cases x with
        | ok pa t =>
          dsimp only
          split
          · exact State.memOk_of_eq (s := t) hk rfl rfl
          · exact State.memOk_of_eq (State.memOk_writeL2 (s := t) hk l.ctx _ _) rfl rfl
        | wait t => exact hk
        | bad st va t => exact State.memOk_of_eq (s := t) hk rfl rfl
    · exact h

theorem State.memOk_countMore {s : State} (h : s.memOk) (l : Launch) : (s.countMore l).memOk := by
  have hk := writeVia_memOk (viaReport_keeps l) h l.chain.die l.ctx (l.record.rpta.toNat + 28) 4 false
  unfold State.countMore
  split
  · exact h
  · generalize writeVia _ l.chain.die l.ctx s (l.record.rpta.toNat + 28) 4 false = x at hk
    cases x with
    | ok pa t => exact State.memOk_writeL2 (s := t) hk _ _ _
    | wait t => exact hk
    | bad st va t => exact hk

theorem State.memOk_abortLaunch {s : State} (h : s.memOk) (key : Nat) (r : Report) : (s.abortLaunch key r).memOk := by
  unfold State.abortLaunch
  split
  · exact State.memOk_stopLaunch h key
  · split
    · refine State.memOk_publish ?_ key
      exact State.memOk_of_eq (State.memOk_stopLaunch h key) (State.modLaunch_mem ..) (State.modLaunch_gddr ..)
    · refine State.memOk_publish ?_ key
      exact State.memOk_of_eq (State.memOk_stopLaunch h key) (State.modLaunch_mem ..) (State.modLaunch_gddr ..)
    · exact State.memOk_of_eq h rfl rfl
    · exact State.memOk_countMore h _

/-! ### The operations of a group -/

theorem State.memOk_enterTrap {s : State} (h : s.memOk) (t : TrapReq) : (s.enterTrap t).memOk := by
  rcases State.enterTrap_cases s t with ⟨_, _, e⟩ | ⟨_, e⟩ <;> rw [e]
  · exact State.memOk_of_eq h rfl rfl
  · exact State.memOk_abortLaunch h _ _

theorem State.memOk_safePoint {s : State} (h : s.memOk) (sp : Bool) (k : Group → Run) : (s.safePoint sp k).memOk := by
  have := State.safePoint_onlyGroup s sp k
  rw [State.onlyGroup] at this
  rw [this]
  exact State.memOk_of_eq h rfl rfl

theorem State.memOk_trapReturn {s : State} (h : s.memOk) : s.trapReturn.memOk := by
  rcases State.trapReturn_cases s with ⟨_, _, e⟩ | ⟨_, e⟩ <;> rw [e]
  · exact State.memOk_of_eq h rfl rfl
  · exact State.memOk_enterTrap h _

theorem State.memOk_sleepFor {s : State} (h : s.memOk) (n : Nat) (sp : Bool) : (s.sleepFor n sp).memOk := by
  unfold State.sleepFor
  split
  · exact State.memOk_safePoint (s := s.yields) (State.memOk_of_eq h rfl rfl) _ _
  · exact State.memOk_safePoint h _ _

theorem State.memOk_settle {s : State} (h : s.memOk) (b : Boundary) : (s.settle b).memOk := by
  rcases State.settle_cases s b with ⟨_, t, e⟩ | ⟨t, e⟩ | ⟨sp, _, e⟩ | ⟨sp, _, e⟩ | ⟨_, _, sp, _, _, e⟩ | ⟨_, e⟩ <;> rw [e]
  · refine State.memOk_enterTrap ?_ _
    exact State.memOk_of_eq h rfl rfl
  · exact State.memOk_enterTrap h _
  · exact State.memOk_safePoint h _ _
  · split
    · exact State.memOk_safePoint (State.memOk_trapReturn h) _ _
    · exact State.memOk_trapReturn h
  · exact State.memOk_sleepFor h _ _
  · exact State.memOk_of_eq h rfl rfl

theorem State.memOk_boundary {s : State} (h : s.memOk) (b : Boundary) : (s.boundary b).memOk := by
  rcases State.boundary_cases s b with ⟨_, e⟩ | ⟨_, e⟩ <;> rw [e]
  · exact State.memOk_of_eq h rfl rfl
  · exact State.memOk_settle h b

theorem State.memOk_advance {s : State} (h : s.memOk) (c : Ctl) : (s.advance c).memOk := by
  obtain ⟨_, _, _, _, e | ⟨_, e⟩⟩ := State.advance_cases s c <;> rw [e]
  · exact State.memOk_of_eq h rfl rfl
  · refine State.memOk_boundary ?_ _
    exact State.memOk_of_eq h rfl rfl

theorem State.memOk_jump {s : State} (h : s.memOk) (c : Ctl) (t : Word64) (f : Group → Group) : (s.jump c t f).memOk := by
  obtain ⟨_, e⟩ | e | e := State.jump_cases s c t f <;> rw [e]
  · exact State.memOk_boundary h _
  · exact State.memOk_of_eq h rfl rfl
  · refine State.memOk_boundary ?_ _
    exact State.memOk_of_eq h rfl rfl

theorem State.memOk_once {s : State} (h : s.memOk) (c : Ctl) (cond : Cond) (r : Except TrapReq State)
    (hr : ∀ t, r = .ok t → t.memOk) : (s.once c cond r).memOk := by
  obtain ⟨_, e⟩ | ⟨_, t, ht, e⟩ | ⟨_, t, _, e⟩ := State.once_cases s c cond r <;> rw [e]
  · exact State.memOk_advance h c
  · exact State.memOk_advance (hr t ht) c
  · exact State.memOk_boundary h _

theorem State.memOk_issueAccess {s : State} (h : s.memOk) (x : Access) (full : Group → Bool) (f : Group → Group) :
    (s.issueAccess x full f).memOk := by
  obtain ⟨_, _, e⟩ | e | ⟨_, _, e⟩ | ⟨_, _, _, e⟩ := State.issueAccess_cases s x full f <;> rw [e]
  · exact State.memOk_advance h _
  · exact State.memOk_of_eq h rfl rfl
  · exact State.memOk_boundary h _
  · exact State.memOk_advance (s := { s with g := f s.g }) (State.memOk_of_eq h rfl rfl) _

end Sys2Proof.Machine
end

