-- ==== Sys2Proof/Laws/PerInstr.lean ====
section
/-! SUPPORT. What every instruction's word says of itself: its version, its length and its switch and safe-point markers
(R15, R17, R34 to R36). -/

/-- An instruction with a word of its own has version 0, and its word tells its length and its markers; a skip code
is no instruction word. -/
def Sys2Proof.Laws.Header.Statement (i : Sys2Proof.Instr) : Prop :=
  i.isWord = true → (∀ c, i ≠ .skipCode c) →
    i.fields.ver = 0 ∧ i.fields.len = i.ctl.len.code ∧ i.fields.sw = Sys2Proof.bit i.ctl.sw ∧
      i.fields.sp = Sys2Proof.bit i.ctl.sp

namespace Sys2Proof.Laws

theorem live_fields (l : LiveWord) : (Fields.split l.bits).ver = 0 ∧ (Fields.split l.bits).len = 0 ∧
    (Fields.split l.bits).sw = bit l.sw ∧ (Fields.split l.bits).sp = bit l.sp := by
  refine ⟨?_, ?_, ?_, ?_⟩ <;> apply BitVec.eq_of_getLsbD_eq <;> intro i hi <;>
    simp only [Fields.split, LiveWord.bits, BitVec.getLsbD_extractLsb', BitVec.getLsbD_append] <;>
    rcases i with _ | _ | i <;> first | omega | simp

theorem Header.sadd : ∀ a0, Header.Statement (.sadd a0) := fun _ _ _ => ⟨rfl, rfl, rfl, rfl⟩
theorem Header.ssub : ∀ a0, Header.Statement (.ssub a0) := fun _ _ _ => ⟨rfl, rfl, rfl, rfl⟩
theorem Header.smul : ∀ a0, Header.Statement (.smul a0) := fun _ _ _ => ⟨rfl, rfl, rfl, rfl⟩
theorem Header.smulh : ∀ a0, Header.Statement (.smulh a0) := fun _ _ _ => ⟨rfl, rfl, rfl, rfl⟩
theorem Header.smulhn : ∀ a0, Header.Statement (.smulhn a0) := fun _ _ _ => ⟨rfl, rfl, rfl, rfl⟩
theorem Header.sdiv : ∀ a0, Header.Statement (.sdiv a0) := fun _ _ _ => ⟨rfl, rfl, rfl, rfl⟩
theorem Header.sdivn : ∀ a0, Header.Statement (.sdivn a0) := fun _ _ _ => ⟨rfl, rfl, rfl, rfl⟩
theorem Header.srem : ∀ a0, Header.Statement (.srem a0) := fun _ _ _ => ⟨rfl, rfl, rfl, rfl⟩
theorem Header.sremn : ∀ a0, Header.Statement (.sremn a0) := fun _ _ _ => ⟨rfl, rfl, rfl, rfl⟩
theorem Header.sand : ∀ a0, Header.Statement (.sand a0) := fun _ _ _ => ⟨rfl, rfl, rfl, rfl⟩
theorem Header.sor : ∀ a0, Header.Statement (.sor a0) := fun _ _ _ => ⟨rfl, rfl, rfl, rfl⟩
theorem Header.sxor : ∀ a0, Header.Statement (.sxor a0) := fun _ _ _ => ⟨rfl, rfl, rfl, rfl⟩
theorem Header.sandn : ∀ a0, Header.Statement (.sandn a0) := fun _ _ _ => ⟨rfl, rfl, rfl, rfl⟩
theorem Header.sshl : ∀ a0, Header.Statement (.sshl a0) := fun _ _ _ => ⟨rfl, rfl, rfl, rfl⟩
theorem Header.sshr : ∀ a0, Header.Statement (.sshr a0) := fun _ _ _ => ⟨rfl, rfl, rfl, rfl⟩
theorem Header.ssra : ∀ a0, Header.Statement (.ssra a0) := fun _ _ _ => ⟨rfl, rfl, rfl, rfl⟩
theorem Header.srot : ∀ a0, Header.Statement (.srot a0) := fun _ _ _ => ⟨rfl, rfl, rfl, rfl⟩
theorem Header.smin : ∀ a0, Header.Statement (.smin a0) := fun _ _ _ => ⟨rfl, rfl, rfl, rfl⟩
theorem Header.smax : ∀ a0, Header.Statement (.smax a0) := fun _ _ _ => ⟨rfl, rfl, rfl, rfl⟩
theorem Header.sminn : ∀ a0, Header.Statement (.sminn a0) := fun _ _ _ => ⟨rfl, rfl, rfl, rfl⟩
theorem Header.smaxn : ∀ a0, Header.Statement (.smaxn a0) := fun _ _ _ => ⟨rfl, rfl, rfl, rfl⟩
theorem Header.scmp : ∀ a0, Header.Statement (.scmp a0) := fun _ _ _ => ⟨rfl, rfl, rfl, rfl⟩
theorem Header.ssel : ∀ a0, Header.Statement (.ssel a0) := fun _ _ _ => ⟨rfl, rfl, rfl, rfl⟩
theorem Header.smov : ∀ a0, Header.Statement (.smov a0) := fun _ _ _ => ⟨rfl, rfl, rfl, rfl⟩
theorem Header.sli : ∀ a0, Header.Statement (.sli a0) := fun _ _ _ => ⟨rfl, rfl, rfl, rfl⟩
theorem Header.sbfx : ∀ a0, Header.Statement (.sbfx a0) := fun _ _ _ => ⟨rfl, rfl, rfl, rfl⟩
theorem Header.sbfi : ∀ a0, Header.Statement (.sbfi a0) := fun _ _ _ => ⟨rfl, rfl, rfl, rfl⟩
theorem Header.spopc : ∀ a0, Header.Statement (.spopc a0) := fun _ _ _ => ⟨rfl, rfl, rfl, rfl⟩
theorem Header.sclz : ∀ a0, Header.Statement (.sclz a0) := fun _ _ _ => ⟨rfl, rfl, rfl, rfl⟩
theorem Header.sctz : ∀ a0, Header.Statement (.sctz a0) := fun _ _ _ => ⟨rfl, rfl, rfl, rfl⟩
theorem Header.sbrev : ∀ a0, Header.Statement (.sbrev a0) := fun _ _ _ => ⟨rfl, rfl, rfl, rfl⟩
theorem Header.br : ∀ a0, Header.Statement (.br a0) := fun _ _ _ => ⟨rfl, rfl, rfl, rfl⟩
theorem Header.brc : ∀ a0, Header.Statement (.brc a0) := fun _ _ _ => ⟨rfl, rfl, rfl, rfl⟩
theorem Header.brz : ∀ a0, Header.Statement (.brz a0) := fun _ _ _ => ⟨rfl, rfl, rfl, rfl⟩
theorem Header.brnz : ∀ a0, Header.Statement (.brnz a0) := fun _ _ _ => ⟨rfl, rfl, rfl, rfl⟩
theorem Header.brmz : ∀ a0, Header.Statement (.brmz a0) := fun _ _ _ => ⟨rfl, rfl, rfl, rfl⟩
theorem Header.brma : ∀ a0, Header.Statement (.brma a0) := fun _ _ _ => ⟨rfl, rfl, rfl, rfl⟩
theorem Header.call : ∀ a0, Header.Statement (.call a0) := fun _ _ _ => ⟨rfl, rfl, rfl, rfl⟩
theorem Header.calli : ∀ a0, Header.Statement (.calli a0) := fun _ _ _ => ⟨rfl, rfl, rfl, rfl⟩
theorem Header.ret : ∀ a0, Header.Statement (.ret a0) := fun _ _ _ => ⟨rfl, rfl, rfl, rfl⟩
theorem Header.jmpi : ∀ a0, Header.Statement (.jmpi a0) := fun _ _ _ => ⟨rfl, rfl, rfl, rfl⟩
theorem Header.mset : ∀ a0, Header.Statement (.mset a0) := fun _ _ _ => ⟨rfl, rfl, rfl, rfl⟩
theorem Header.mget : ∀ a0, Header.Statement (.mget a0) := fun _ _ _ => ⟨rfl, rfl, rfl, rfl⟩
theorem Header.mand : ∀ a0, Header.Statement (.mand a0) := fun _ _ _ => ⟨rfl, rfl, rfl, rfl⟩
theorem Header.mor : ∀ a0, Header.Statement (.mor a0) := fun _ _ _ => ⟨rfl, rfl, rfl, rfl⟩
theorem Header.mandn : ∀ a0, Header.Statement (.mandn a0) := fun _ _ _ => ⟨rfl, rfl, rfl, rfl⟩
theorem Header.mxor : ∀ a0, Header.Statement (.mxor a0) := fun _ _ _ => ⟨rfl, rfl, rfl, rfl⟩
theorem Header.mpop : ∀ a0, Header.Statement (.mpop a0) := fun _ _ _ => ⟨rfl, rfl, rfl, rfl⟩
theorem Header.mffs : ∀ a0, Header.Statement (.mffs a0) := fun _ _ _ => ⟨rfl, rfl, rfl, rfl⟩
theorem Header.fmtset : ∀ a0, Header.Statement (.fmtset a0) := fun _ _ _ => ⟨rfl, rfl, rfl, rfl⟩
theorem Header.fmtget : ∀ a0, Header.Statement (.fmtget a0) := fun _ _ _ => ⟨rfl, rfl, rfl, rfl⟩
theorem Header.getsr : ∀ a0, Header.Statement (.getsr a0) := fun _ _ _ => ⟨rfl, rfl, rfl, rfl⟩
theorem Header.setsr : ∀ a0, Header.Statement (.setsr a0) := fun _ _ _ => ⟨rfl, rfl, rfl, rfl⟩
theorem Header.trap : ∀ a0, Header.Statement (.trap a0) := fun _ _ _ => ⟨rfl, rfl, rfl, rfl⟩
theorem Header.tret : ∀ a0, Header.Statement (.tret a0) := fun _ _ _ => ⟨rfl, rfl, rfl, rfl⟩
theorem Header.bkpt : ∀ a0, Header.Statement (.bkpt a0) := fun _ _ _ => ⟨rfl, rfl, rfl, rfl⟩
theorem Header.nop : ∀ a0, Header.Statement (.nop a0) := fun _ _ _ => ⟨rfl, rfl, rfl, rfl⟩
theorem Header.pidle : ∀ a0, Header.Statement (.pidle a0) := fun _ _ _ => ⟨rfl, rfl, rfl, rfl⟩
theorem Header.yield : ∀ a0, Header.Statement (.yield a0) := fun _ _ _ => ⟨rfl, rfl, rfl, rfl⟩
theorem Header.sleep : ∀ a0, Header.Statement (.sleep a0) := fun _ _ _ => ⟨rfl, rfl, rfl, rfl⟩
theorem Header.live : ∀ a0, Header.Statement (.live a0) := fun l _ _ => live_fields l
theorem Header.skipCode : ∀ a0, Header.Statement (.skipCode a0) := fun c _ h => absurd rfl (h c)
theorem Header.illegalInstruction : ∀ a0 a1, Header.Statement (.illegalInstruction a0 a1) := fun _ _ h => absurd h Bool.false_ne_true
theorem Header.vadd : ∀ a0, Header.Statement (.vadd a0) := fun _ _ _ => ⟨rfl, rfl, rfl, rfl⟩
theorem Header.vsub : ∀ a0, Header.Statement (.vsub a0) := fun _ _ _ => ⟨rfl, rfl, rfl, rfl⟩
theorem Header.vmul : ∀ a0, Header.Statement (.vmul a0) := fun _ _ _ => ⟨rfl, rfl, rfl, rfl⟩
theorem Header.vmulh : ∀ a0, Header.Statement (.vmulh a0) := fun _ _ _ => ⟨rfl, rfl, rfl, rfl⟩
theorem Header.vmulhn : ∀ a0, Header.Statement (.vmulhn a0) := fun _ _ _ => ⟨rfl, rfl, rfl, rfl⟩
theorem Header.vmad : ∀ a0, Header.Statement (.vmad a0) := fun _ _ _ => ⟨rfl, rfl, rfl, rfl⟩
theorem Header.vand : ∀ a0, Header.Statement (.vand a0) := fun _ _ _ => ⟨rfl, rfl, rfl, rfl⟩
theorem Header.vor : ∀ a0, Header.Statement (.vor a0) := fun _ _ _ => ⟨rfl, rfl, rfl, rfl⟩
theorem Header.vxor : ∀ a0, Header.Statement (.vxor a0) := fun _ _ _ => ⟨rfl, rfl, rfl, rfl⟩
theorem Header.vandn : ∀ a0, Header.Statement (.vandn a0) := fun _ _ _ => ⟨rfl, rfl, rfl, rfl⟩
theorem Header.vshl : ∀ a0, Header.Statement (.vshl a0) := fun _ _ _ => ⟨rfl, rfl, rfl, rfl⟩
theorem Header.vshr : ∀ a0, Header.Statement (.vshr a0) := fun _ _ _ => ⟨rfl, rfl, rfl, rfl⟩
theorem Header.vsra : ∀ a0, Header.Statement (.vsra a0) := fun _ _ _ => ⟨rfl, rfl, rfl, rfl⟩
theorem Header.vmin : ∀ a0, Header.Statement (.vmin a0) := fun _ _ _ => ⟨rfl, rfl, rfl, rfl⟩
theorem Header.vmax : ∀ a0, Header.Statement (.vmax a0) := fun _ _ _ => ⟨rfl, rfl, rfl, rfl⟩
theorem Header.vminn : ∀ a0, Header.Statement (.vminn a0) := fun _ _ _ => ⟨rfl, rfl, rfl, rfl⟩
theorem Header.vmaxn : ∀ a0, Header.Statement (.vmaxn a0) := fun _ _ _ => ⟨rfl, rfl, rfl, rfl⟩
theorem Header.vabs : ∀ a0, Header.Statement (.vabs a0) := fun _ _ _ => ⟨rfl, rfl, rfl, rfl⟩
theorem Header.vaddsat : ∀ a0, Header.Statement (.vaddsat a0) := fun _ _ _ => ⟨rfl, rfl, rfl, rfl⟩
theorem Header.vsubsat : ∀ a0, Header.Statement (.vsubsat a0) := fun _ _ _ => ⟨rfl, rfl, rfl, rfl⟩
theorem Header.vcmp : ∀ a0, Header.Statement (.vcmp a0) := fun _ _ _ => ⟨rfl, rfl, rfl, rfl⟩
theorem Header.vsel : ∀ a0, Header.Statement (.vsel a0) := fun _ _ _ => ⟨rfl, rfl, rfl, rfl⟩
theorem Header.vmov : ∀ a0, Header.Statement (.vmov a0) := fun _ _ _ => ⟨rfl, rfl, rfl, rfl⟩
theorem Header.vbfx : ∀ a0, Header.Statement (.vbfx a0) := fun _ _ _ => ⟨rfl, rfl, rfl, rfl⟩
theorem Header.vbfi : ∀ a0, Header.Statement (.vbfi a0) := fun _ _ _ => ⟨rfl, rfl, rfl, rfl⟩
theorem Header.vpopc : ∀ a0, Header.Statement (.vpopc a0) := fun _ _ _ => ⟨rfl, rfl, rfl, rfl⟩
theorem Header.vclz : ∀ a0, Header.Statement (.vclz a0) := fun _ _ _ => ⟨rfl, rfl, rfl, rfl⟩
theorem Header.vdot4 : ∀ a0, Header.Statement (.vdot4 a0) := fun _ _ _ => ⟨rfl, rfl, rfl, rfl⟩
theorem Header.vmulw : ∀ a0, Header.Statement (.vmulw a0) := fun _ _ _ => ⟨rfl, rfl, rfl, rfl⟩
theorem Header.vadd64 : ∀ a0, Header.Statement (.vadd64 a0) := fun _ _ _ => ⟨rfl, rfl, rfl, rfl⟩
theorem Header.vfadd : ∀ a0, Header.Statement (.vfadd a0) := fun _ _ _ => ⟨rfl, rfl, rfl, rfl⟩
theorem Header.vfsub : ∀ a0, Header.Statement (.vfsub a0) := fun _ _ _ => ⟨rfl, rfl, rfl, rfl⟩
theorem Header.vfmul : ∀ a0, Header.Statement (.vfmul a0) := fun _ _ _ => ⟨rfl, rfl, rfl, rfl⟩
theorem Header.vfma : ∀ a0, Header.Statement (.vfma a0) := fun _ _ _ => ⟨rfl, rfl, rfl, rfl⟩
theorem Header.vfmin : ∀ a0, Header.Statement (.vfmin a0) := fun _ _ _ => ⟨rfl, rfl, rfl, rfl⟩
theorem Header.vfmax : ∀ a0, Header.Statement (.vfmax a0) := fun _ _ _ => ⟨rfl, rfl, rfl, rfl⟩
theorem Header.vfabs : ∀ a0, Header.Statement (.vfabs a0) := fun _ _ _ => ⟨rfl, rfl, rfl, rfl⟩
theorem Header.vfneg : ∀ a0, Header.Statement (.vfneg a0) := fun _ _ _ => ⟨rfl, rfl, rfl, rfl⟩
theorem Header.vfcmp : ∀ a0, Header.Statement (.vfcmp a0) := fun _ _ _ => ⟨rfl, rfl, rfl, rfl⟩
theorem Header.vfrcp : ∀ a0, Header.Statement (.vfrcp a0) := fun _ _ _ => ⟨rfl, rfl, rfl, rfl⟩
theorem Header.vfrsq : ∀ a0, Header.Statement (.vfrsq a0) := fun _ _ _ => ⟨rfl, rfl, rfl, rfl⟩
theorem Header.vfsqrt : ∀ a0, Header.Statement (.vfsqrt a0) := fun _ _ _ => ⟨rfl, rfl, rfl, rfl⟩
theorem Header.vfdiv : ∀ a0, Header.Statement (.vfdiv a0) := fun _ _ _ => ⟨rfl, rfl, rfl, rfl⟩
theorem Header.vfexp2 : ∀ a0, Header.Statement (.vfexp2 a0) := fun _ _ _ => ⟨rfl, rfl, rfl, rfl⟩
theorem Header.vflog2 : ∀ a0, Header.Statement (.vflog2 a0) := fun _ _ _ => ⟨rfl, rfl, rfl, rfl⟩
theorem Header.vfsin : ∀ a0, Header.Statement (.vfsin a0) := fun _ _ _ => ⟨rfl, rfl, rfl, rfl⟩
theorem Header.vfcos : ∀ a0, Header.Statement (.vfcos a0) := fun _ _ _ => ⟨rfl, rfl, rfl, rfl⟩
theorem Header.vftanh : ∀ a0, Header.Statement (.vftanh a0) := fun _ _ _ => ⟨rfl, rfl, rfl, rfl⟩
theorem Header.vfrnd : ∀ a0, Header.Statement (.vfrnd a0) := fun _ _ _ => ⟨rfl, rfl, rfl, rfl⟩
theorem Header.vfclass : ∀ a0, Header.Statement (.vfclass a0) := fun _ _ _ => ⟨rfl, rfl, rfl, rfl⟩
theorem Header.vhfma : ∀ a0, Header.Statement (.vhfma a0) := fun _ _ _ => ⟨rfl, rfl, rfl, rfl⟩
theorem Header.vhadd : ∀ a0, Header.Statement (.vhadd a0) := fun _ _ _ => ⟨rfl, rfl, rfl, rfl⟩
theorem Header.vhmul : ∀ a0, Header.Statement (.vhmul a0) := fun _ _ _ => ⟨rfl, rfl, rfl, rfl⟩
theorem Header.vfdot2 : ∀ a0, Header.Statement (.vfdot2 a0) := fun _ _ _ => ⟨rfl, rfl, rfl, rfl⟩
theorem Header.vcvt : ∀ a0, Header.Statement (.vcvt a0) := fun _ _ _ => ⟨rfl, rfl, rfl, rfl⟩
theorem Header.vqnt : ∀ a0, Header.Statement (.vqnt a0) := fun _ _ _ => ⟨rfl, rfl, rfl, rfl⟩
theorem Header.vdqnt : ∀ a0, Header.Statement (.vdqnt a0) := fun _ _ _ => ⟨rfl, rfl, rfl, rfl⟩
theorem Header.vamax : ∀ a0, Header.Statement (.vamax a0) := fun _ _ _ => ⟨rfl, rfl, rfl, rfl⟩
theorem Header.vpack : ∀ a0, Header.Statement (.vpack a0) := fun _ _ _ => ⟨rfl, rfl, rfl, rfl⟩
theorem Header.vunpk : ∀ a0, Header.Statement (.vunpk a0) := fun _ _ _ => ⟨rfl, rfl, rfl, rfl⟩
theorem Header.vlane : ∀ a0, Header.Statement (.vlane a0) := fun _ _ _ => ⟨rfl, rfl, rfl, rfl⟩
theorem Header.vbcast : ∀ a0, Header.Statement (.vbcast a0) := fun _ _ _ => ⟨rfl, rfl, rfl, rfl⟩
theorem Header.vshuf : ∀ a0, Header.Statement (.vshuf a0) := fun _ _ _ => ⟨rfl, rfl, rfl, rfl⟩
theorem Header.vswz : ∀ a0, Header.Statement (.vswz a0) := fun _ _ _ => ⟨rfl, rfl, rfl, rfl⟩
theorem Header.vscan : ∀ a0, Header.Statement (.vscan a0) := fun _ _ _ => ⟨rfl, rfl, rfl, rfl⟩
theorem Header.vred : ∀ a0, Header.Statement (.vred a0) := fun _ _ _ => ⟨rfl, rfl, rfl, rfl⟩
theorem Header.vballot : ∀ a0, Header.Statement (.vballot a0) := fun _ _ _ => ⟨rfl, rfl, rfl, rfl⟩
theorem Header.vvote : ∀ a0, Header.Statement (.vvote a0) := fun _ _ _ => ⟨rfl, rfl, rfl, rfl⟩
theorem Header.vrdlane : ∀ a0, Header.Statement (.vrdlane a0) := fun _ _ _ => ⟨rfl, rfl, rfl, rfl⟩
theorem Header.vwrlane : ∀ a0, Header.Statement (.vwrlane a0) := fun _ _ _ => ⟨rfl, rfl, rfl, rfl⟩
theorem Header.kop : ∀ a0, Header.Statement (.kop a0) := fun _ _ _ => ⟨rfl, rfl, rfl, rfl⟩
theorem Header.kmov : ∀ a0, Header.Statement (.kmov a0) := fun _ _ _ => ⟨rfl, rfl, rfl, rfl⟩
theorem Header.pset : ∀ a0, Header.Statement (.pset a0) := fun _ _ _ => ⟨rfl, rfl, rfl, rfl⟩
theorem Header.pselk : ∀ a0, Header.Statement (.pselk a0) := fun _ _ _ => ⟨rfl, rfl, rfl, rfl⟩
theorem Header.pget : ∀ a0, Header.Statement (.pget a0) := by
  rintro ⟨c, g, d⟩ _ _
  cases d <;> exact ⟨rfl, rfl, rfl, rfl⟩
theorem Header.lds : ∀ a0, Header.Statement (.lds a0) := fun _ _ _ => ⟨rfl, rfl, rfl, rfl⟩
theorem Header.sts : ∀ a0, Header.Statement (.sts a0) := fun _ _ _ => ⟨rfl, rfl, rfl, rfl⟩
theorem Header.ldv : ∀ a0, Header.Statement (.ldv a0) := fun _ _ _ => ⟨rfl, rfl, rfl, rfl⟩
theorem Header.stv : ∀ a0, Header.Statement (.stv a0) := fun _ _ _ => ⟨rfl, rfl, rfl, rfl⟩
theorem Header.ldl : ∀ a0, Header.Statement (.ldl a0) := fun _ _ _ => ⟨rfl, rfl, rfl, rfl⟩
theorem Header.stl : ∀ a0, Header.Statement (.stl a0) := fun _ _ _ => ⟨rfl, rfl, rfl, rfl⟩
theorem Header.lda : ∀ a0, Header.Statement (.lda a0) := fun _ _ _ => ⟨rfl, rfl, rfl, rfl⟩
theorem Header.sta : ∀ a0, Header.Statement (.sta a0) := fun _ _ _ => ⟨rfl, rfl, rfl, rfl⟩
theorem Header.ldc : ∀ a0, Header.Statement (.ldc a0) := fun _ _ _ => ⟨rfl, rfl, rfl, rfl⟩
theorem Header.stc : ∀ a0, Header.Statement (.stc a0) := fun _ _ _ => ⟨rfl, rfl, rfl, rfl⟩
theorem Header.ldro : ∀ a0, Header.Statement (.ldro a0) := fun _ _ _ => ⟨rfl, rfl, rfl, rfl⟩
theorem Header.prf : ∀ a0, Header.Statement (.prf a0) := fun _ _ _ => ⟨rfl, rfl, rfl, rfl⟩
theorem Header.atoms : ∀ a0, Header.Statement (.atoms a0) := fun _ _ _ => ⟨rfl, rfl, rfl, rfl⟩
theorem Header.atomv : ∀ a0, Header.Statement (.atomv a0) := fun _ _ _ => ⟨rfl, rfl, rfl, rfl⟩
theorem Header.atoml : ∀ a0, Header.Statement (.atoml a0) := fun _ _ _ => ⟨rfl, rfl, rfl, rfl⟩
theorem Header.fence : ∀ a0, Header.Statement (.fence a0) := fun _ _ _ => ⟨rfl, rfl, rfl, rfl⟩
theorem Header.sealPages : ∀ a0, Header.Statement (.sealPages a0) := fun _ _ _ => ⟨rfl, rfl, rfl, rfl⟩
theorem Header.unseal : ∀ a0, Header.Statement (.unseal a0) := fun _ _ _ => ⟨rfl, rfl, rfl, rfl⟩
theorem Header.cflush : ∀ a0, Header.Statement (.cflush a0) := fun _ _ _ => ⟨rfl, rfl, rfl, rfl⟩
theorem Header.cinv : ∀ a0, Header.Statement (.cinv a0) := fun _ _ _ => ⟨rfl, rfl, rfl, rfl⟩
theorem Header.mma : ∀ a0, Header.Statement (.mma a0) := fun _ _ _ => ⟨rfl, rfl, rfl, rfl⟩
theorem Header.mmas : ∀ a0, Header.Statement (.mmas a0) := fun _ _ _ => ⟨rfl, rfl, rfl, rfl⟩
theorem Header.mmav : ∀ a0, Header.Statement (.mmav a0) := fun _ _ _ => ⟨rfl, rfl, rfl, rfl⟩
theorem Header.mmab : ∀ a0, Header.Statement (.mmab a0) := fun _ _ _ => ⟨rfl, rfl, rfl, rfl⟩
theorem Header.mtap : ∀ a0, Header.Statement (.mtap a0) := fun _ _ _ => ⟨rfl, rfl, rfl, rfl⟩
theorem Header.mldt : ∀ a0, Header.Statement (.mldt a0) := fun _ _ _ => ⟨rfl, rfl, rfl, rfl⟩
theorem Header.msort : ∀ a0, Header.Statement (.msort a0) := fun _ _ _ => ⟨rfl, rfl, rfl, rfl⟩
theorem Header.mzero : ∀ a0, Header.Statement (.mzero a0) := fun _ _ _ => ⟨rfl, rfl, rfl, rfl⟩
theorem Header.mstat : ∀ a0, Header.Statement (.mstat a0) := fun _ _ _ => ⟨rfl, rfl, rfl, rfl⟩
theorem Header.epi : ∀ a0, Header.Statement (.epi a0) := fun _ _ _ => ⟨rfl, rfl, rfl, rfl⟩
theorem Header.copyIn : ∀ a0, Header.Statement (.copyIn a0) := fun _ _ _ => ⟨rfl, rfl, rfl, rfl⟩
theorem Header.copyOut : ∀ a0, Header.Statement (.copyOut a0) := fun _ _ _ => ⟨rfl, rfl, rfl, rfl⟩
theorem Header.copyXs : ∀ a0, Header.Statement (.copyXs a0) := fun _ _ _ => ⟨rfl, rfl, rfl, rfl⟩
theorem Header.bseal : ∀ a0, Header.Statement (.bseal a0) := fun _ _ _ => ⟨rfl, rfl, rfl, rfl⟩
theorem Header.waith : ∀ a0, Header.Statement (.waith a0) := fun _ _ _ => ⟨rfl, rfl, rfl, rfl⟩
theorem Header.testh : ∀ a0, Header.Statement (.testh a0) := fun _ _ _ => ⟨rfl, rfl, rfl, rfl⟩
theorem Header.canh : ∀ a0, Header.Statement (.canh a0) := fun _ _ _ => ⟨rfl, rfl, rfl, rfl⟩
theorem Header.movh : ∀ a0, Header.Statement (.movh a0) := fun _ _ _ => ⟨rfl, rfl, rfl, rfl⟩
theorem Header.qput : ∀ a0, Header.Statement (.qput a0) := fun _ _ _ => ⟨rfl, rfl, rfl, rfl⟩
theorem Header.qget : ∀ a0, Header.Statement (.qget a0) := fun _ _ _ => ⟨rfl, rfl, rfl, rfl⟩
theorem Header.waitv : ∀ a0, Header.Statement (.waitv a0) := fun _ _ _ => ⟨rfl, rfl, rfl, rfl⟩
theorem Header.waitw : ∀ a0, Header.Statement (.waitw a0) := fun _ _ _ => ⟨rfl, rfl, rfl, rfl⟩
theorem Header.bar : ∀ a0, Header.Statement (.bar a0) := fun _ _ _ => ⟨rfl, rfl, rfl, rfl⟩
theorem Header.barc : ∀ a0, Header.Statement (.barc a0) := fun _ _ _ => ⟨rfl, rfl, rfl, rfl⟩
theorem Header.barg : ∀ a0, Header.Statement (.barg a0) := fun _ _ _ => ⟨rfl, rfl, rfl, rfl⟩
theorem Header.spawn : ∀ a0, Header.Statement (.spawn a0) := fun _ _ _ => ⟨rfl, rfl, rfl, rfl⟩
theorem Header.exit : ∀ a0, Header.Statement (.exit a0) := fun _ _ _ => ⟨rfl, rfl, rfl, rfl⟩
theorem Header.lexit : ∀ a0, Header.Statement (.lexit a0) := fun _ _ _ => ⟨rfl, rfl, rfl, rfl⟩
theorem Header.trace : ∀ a0, Header.Statement (.trace a0) := fun _ _ _ => ⟨rfl, rfl, rfl, rfl⟩
theorem Header.trres : ∀ a0, Header.Statement (.trres a0) := fun _ _ _ => ⟨rfl, rfl, rfl, rfl⟩
theorem Header.trstat : ∀ a0, Header.Statement (.trstat a0) := by
  rintro ⟨c, g, d, h⟩ _ _
  cases d <;> exact ⟨rfl, rfl, rfl, rfl⟩
theorem Header.variableLatencyResult : ∀ a0 a1, Header.Statement (.variableLatencyResult a0 a1) := fun _ _ h => absurd h Bool.false_ne_true
theorem Header.watchdogExpiry : ∀ a0, Header.Statement (.watchdogExpiry a0) := fun _ h => absurd h Bool.false_ne_true
theorem Header.sleepExpiry : ∀ a0, Header.Statement (.sleepExpiry a0) := fun _ h => absurd h Bool.false_ne_true
theorem Header.collectiveTimeout : ∀ a0, Header.Statement (.collectiveTimeout a0) := fun _ h => absurd h Bool.false_ne_true
theorem Header.preemptDeadline : ∀ a0, Header.Statement (.preemptDeadline a0) := fun _ h => absurd h Bool.false_ne_true
theorem Header.coreClockGate : ∀ a0, Header.Statement (.coreClockGate a0) := fun _ h => absurd h Bool.false_ne_true
theorem Header.coreWake : ∀ a0, Header.Statement (.coreWake a0) := fun _ h => absurd h Bool.false_ne_true
theorem Header.storeFifoLeave : ∀ a0, Header.Statement (.storeFifoLeave a0) := fun _ h => absurd h Bool.false_ne_true
theorem Header.storeReachL2 : ∀ a0 a1, Header.Statement (.storeReachL2 a0 a1) := fun _ _ h => absurd h Bool.false_ne_true
theorem Header.atomicEngineService : ∀ a0 a1, Header.Statement (.atomicEngineService a0 a1) := fun _ _ h => absurd h Bool.false_ne_true
theorem Header.cflushComplete : ∀ a0, Header.Statement (.cflushComplete a0) := fun _ h => absurd h Bool.false_ne_true
theorem Header.l2Writeback : ∀ a0 a1, Header.Statement (.l2Writeback a0 a1) := fun _ _ h => absurd h Bool.false_ne_true
theorem Header.l2Scrub : ∀ a0 a1 a2 a3, Header.Statement (.l2Scrub a0 a1 a2 a3) := fun _ _ _ _ h => absurd h Bool.false_ne_true
theorem Header.linkRetry : ∀ a0 a1, Header.Statement (.linkRetry a0 a1) := fun _ _ h => absurd h Bool.false_ne_true
theorem Header.pageWalk : ∀ a0 a1, Header.Statement (.pageWalk a0 a1) := fun _ _ h => absurd h Bool.false_ne_true
theorem Header.faultRecordWrite : ∀ a0, Header.Statement (.faultRecordWrite a0) := fun _ h => absurd h Bool.false_ne_true
theorem Header.pagerRetry : ∀ a0 a1, Header.Statement (.pagerRetry a0 a1) := fun _ _ h => absurd h Bool.false_ne_true
theorem Header.pagerDecline : ∀ a0 a1, Header.Statement (.pagerDecline a0 a1) := fun _ _ h => absurd h Bool.false_ne_true
theorem Header.launch : ∀ a0, Header.Statement (.launch a0) := fun _ h => absurd h Bool.false_ne_true
theorem Header.mwait : ∀ a0, Header.Statement (.mwait a0) := fun _ h => absurd h Bool.false_ne_true
theorem Header.mwaitPoll : ∀ a0, Header.Statement (.mwaitPoll a0) := fun _ h => absurd h Bool.false_ne_true
theorem Header.msignal : ∀ a0, Header.Statement (.msignal a0) := fun _ h => absurd h Bool.false_ne_true
theorem Header.ticketTake : ∀ a0 a1, Header.Statement (.ticketTake a0 a1) := fun _ _ h => absurd h Bool.false_ne_true
theorem Header.ticketSteal : ∀ a0 a1, Header.Statement (.ticketSteal a0 a1) := fun _ _ h => absurd h Bool.false_ne_true
theorem Header.teamStart : ∀ a0 a1 a2, Header.Statement (.teamStart a0 a1 a2) := fun _ _ _ h => absurd h Bool.false_ne_true
theorem Header.groupRetire : ∀ a0, Header.Statement (.groupRetire a0) := fun _ h => absurd h Bool.false_ne_true
theorem Header.barrierArrivalCount : ∀ a0, Header.Statement (.barrierArrivalCount a0) := fun _ h => absurd h Bool.false_ne_true
theorem Header.barrierRelease : ∀ a0, Header.Statement (.barrierRelease a0) := fun _ h => absurd h Bool.false_ne_true
theorem Header.spawnRecordAccept : ∀ a0, Header.Statement (.spawnRecordAccept a0) := fun _ h => absurd h Bool.false_ne_true
theorem Header.binTimerExpiry : ∀ a0 a1, Header.Statement (.binTimerExpiry a0 a1) := fun _ _ h => absurd h Bool.false_ne_true
theorem Header.spawnedGroupPlace : ∀ a0, Header.Statement (.spawnedGroupPlace a0) := fun _ h => absurd h Bool.false_ne_true
theorem Header.copyCommandStart : ∀ a0 a1, Header.Statement (.copyCommandStart a0 a1) := fun _ _ h => absurd h Bool.false_ne_true
theorem Header.copyCommandEnd : ∀ a0 a1, Header.Statement (.copyCommandEnd a0 a1) := fun _ _ h => absurd h Bool.false_ne_true
theorem Header.engineCancellation : ∀ a0 a1 a2, Header.Statement (.engineCancellation a0 a1 a2) := fun _ _ _ h => absurd h Bool.false_ne_true
theorem Header.matrixCommandStart : ∀ a0 a1, Header.Statement (.matrixCommandStart a0 a1) := fun _ _ h => absurd h Bool.false_ne_true
theorem Header.matrixKblockEnd : ∀ a0, Header.Statement (.matrixKblockEnd a0) := fun _ h => absurd h Bool.false_ne_true
theorem Header.matrixCommandEnd : ∀ a0, Header.Statement (.matrixCommandEnd a0) := fun _ h => absurd h Bool.false_ne_true
theorem Header.epilogueStart : ∀ a0 a1, Header.Statement (.epilogueStart a0 a1) := fun _ _ h => absurd h Bool.false_ne_true
theorem Header.epilogueEnd : ∀ a0, Header.Statement (.epilogueEnd a0) := fun _ h => absurd h Bool.false_ne_true
theorem Header.traceLaneStart : ∀ a0 a1 a2, Header.Statement (.traceLaneStart a0 a1 a2) := fun _ _ _ h => absurd h Bool.false_ne_true
theorem Header.trresLaneResume : ∀ a0 a1 a2, Header.Statement (.trresLaneResume a0 a1 a2) := fun _ _ _ h => absurd h Bool.false_ne_true
theorem Header.lanternFetch : ∀ a0 a1 a2, Header.Statement (.lanternFetch a0 a1 a2) := fun _ _ _ h => absurd h Bool.false_ne_true
theorem Header.lanternLoopStep : ∀ a0 a1 a2, Header.Statement (.lanternLoopStep a0 a1 a2) := fun _ _ _ h => absurd h Bool.false_ne_true
theorem Header.lanternParkPoll : ∀ a0 a1 a2, Header.Statement (.lanternParkPoll a0 a1 a2) := fun _ _ _ h => absurd h Bool.false_ne_true
theorem Header.traversalCommandEnd : ∀ a0 a1, Header.Statement (.traversalCommandEnd a0 a1) := fun _ _ h => absurd h Bool.false_ne_true
theorem Header.qputRingWaitEnd : ∀ a0, Header.Statement (.qputRingWaitEnd a0) := fun _ h => absurd h Bool.false_ne_true
theorem Header.chainRecordStart : ∀ a0, Header.Statement (.chainRecordStart a0) := fun _ h => absurd h Bool.false_ne_true
theorem Header.chainRecordComplete : ∀ a0, Header.Statement (.chainRecordComplete a0) := fun _ h => absurd h Bool.false_ne_true
theorem Header.waitvWake : ∀ a0, Header.Statement (.waitvWake a0) := fun _ h => absurd h Bool.false_ne_true
theorem Header.build : ∀ a0, Header.Statement (.build a0) := fun _ h => absurd h Bool.false_ne_true
theorem Header.skim : ∀ a0, Header.Statement (.skim a0) := fun _ h => absurd h Bool.false_ne_true
theorem Header.switch : ∀ a0, Header.Statement (.switch a0) := fun _ h => absurd h Bool.false_ne_true
theorem Header.reclaim : ∀ a0, Header.Statement (.reclaim a0) := fun _ h => absurd h Bool.false_ne_true
theorem Header.reclaimPoll : ∀ a0, Header.Statement (.reclaimPoll a0) := fun _ h => absurd h Bool.false_ne_true
theorem Header.put : ∀ a0, Header.Statement (.put a0) := fun _ h => absurd h Bool.false_ne_true
theorem Header.fwd : ∀ a0, Header.Statement (.fwd a0) := fun _ h => absurd h Bool.false_ne_true
theorem Header.signal : ∀ a0, Header.Statement (.signal a0) := fun _ h => absurd h Bool.false_ne_true
theorem Header.allreduce : ∀ a0, Header.Statement (.allreduce a0) := fun _ h => absurd h Bool.false_ne_true
theorem Header.allgather : ∀ a0, Header.Statement (.allgather a0) := fun _ h => absurd h Bool.false_ne_true
theorem Header.flitAdmit : ∀ a0 a1, Header.Statement (.flitAdmit a0 a1) := fun _ _ h => absurd h Bool.false_ne_true
theorem Header.wicklineFlitArrival : ∀ a0 a1 a2 a3, Header.Statement (.wicklineFlitArrival a0 a1 a2 a3) := fun _ _ _ _ h => absurd h Bool.false_ne_true
theorem Header.lamplighterAck : ∀ a0 a1, Header.Statement (.lamplighterAck a0 a1) := fun _ _ h => absurd h Bool.false_ne_true
theorem Header.collectiveAbort : ∀ a0 a1, Header.Statement (.collectiveAbort a0 a1) := fun _ _ h => absurd h Bool.false_ne_true
theorem Header.windowBoundary : Header.Statement .windowBoundary := fun h => absurd h Bool.false_ne_true
theorem Header.waitwWake : ∀ a0, Header.Statement (.waitwWake a0) := fun _ h => absurd h Bool.false_ne_true
theorem Header.ptpLock : ∀ a0, Header.Statement (.ptpLock a0) := fun _ h => absurd h Bool.false_ne_true
theorem Header.ptpLockLoss : Header.Statement .ptpLockLoss := fun h => absurd h Bool.false_ne_true
theorem Header.hostWrite : ∀ a0 a1, Header.Statement (.hostWrite a0 a1) := fun _ _ h => absurd h Bool.false_ne_true
theorem Header.hostRead : ∀ a0 a1, Header.Statement (.hostRead a0 a1) := fun _ _ h => absurd h Bool.false_ne_true
theorem Header.peerWindowRead : ∀ a0 a1, Header.Statement (.peerWindowRead a0 a1) := fun _ _ h => absurd h Bool.false_ne_true
theorem Header.registerWrite : ∀ a0 a1 a2, Header.Statement (.registerWrite a0 a1 a2) := fun _ _ _ h => absurd h Bool.false_ne_true
theorem Header.pgraWrite : ∀ a0 a1, Header.Statement (.pgraWrite a0 a1) := fun _ _ h => absurd h Bool.false_ne_true
theorem Header.pgrsWrite : ∀ a0 a1, Header.Statement (.pgrsWrite a0 a1) := fun _ _ h => absurd h Bool.false_ne_true
theorem Header.nstatClear : ∀ a0 a1, Header.Statement (.nstatClear a0 a1) := fun _ _ h => absurd h Bool.false_ne_true
theorem Header.nmaskWrite : ∀ a0 a1, Header.Statement (.nmaskWrite a0 a1) := fun _ _ h => absurd h Bool.false_ne_true
theorem Header.killLaunch : ∀ a0 a1, Header.Statement (.killLaunch a0 a1) := fun _ _ h => absurd h Bool.false_ne_true
theorem Header.killContext : ∀ a0 a1, Header.Statement (.killContext a0 a1) := fun _ _ h => absurd h Bool.false_ne_true
theorem Header.preempt : ∀ a0 a1, Header.Statement (.preempt a0 a1) := fun _ _ h => absurd h Bool.false_ne_true
theorem Header.contextSave : ∀ a0, Header.Statement (.contextSave a0) := fun _ h => absurd h Bool.false_ne_true
theorem Header.restore : ∀ a0 a1, Header.Statement (.restore a0 a1) := fun _ _ h => absurd h Bool.false_ne_true
theorem Header.tlbinv : ∀ a0 a1, Header.Statement (.tlbinv a0 a1) := fun _ _ h => absurd h Bool.false_ne_true
theorem Header.ctxinv : ∀ a0 a1, Header.Statement (.ctxinv a0 a1) := fun _ _ h => absurd h Bool.false_ne_true
theorem Header.chreset : ∀ a0 a1, Header.Statement (.chreset a0 a1) := fun _ _ h => absurd h Bool.false_ne_true
theorem Header.chstate : ∀ a0 a1, Header.Statement (.chstate a0 a1) := fun _ _ h => absurd h Bool.false_ne_true
theorem Header.powerSample : ∀ a0, Header.Statement (.powerSample a0) := fun _ h => absurd h Bool.false_ne_true
theorem Header.thermalStep : ∀ a0 a1, Header.Statement (.thermalStep a0 a1) := fun _ _ h => absurd h Bool.false_ne_true
theorem Header.moduleReset : ∀ a0 a1 a2, Header.Statement (.moduleReset a0 a1 a2) := fun _ _ _ h => absurd h Bool.false_ne_true
theorem Header.attestationRequest : ∀ a0 a1, Header.Statement (.attestationRequest a0 a1) := fun _ _ h => absurd h Bool.false_ne_true
theorem Header.hostSnoop : ∀ a0, Header.Statement (.hostSnoop a0) := fun _ h => absurd h Bool.false_ne_true
theorem Header.hcmdRefused : ∀ a0 a1, Header.Statement (.hcmdRefused a0 a1) := fun _ _ h => absurd h Bool.false_ne_true
theorem Header.peerWindowWrite : ∀ a0 a1, Header.Statement (.peerWindowWrite a0 a1) := fun _ _ h => absurd h Bool.false_ne_true

end Sys2Proof.Laws
end

