-- ==== Sys2Proof/Tests/Slice0.lean ====
section
/-! SUPPORT. Tests: words of the spec's worked encodings, ill-formed terms, single steps, and for every statement with
hypotheses a state and operands that meet them, clause by clause. -/

namespace Sys2Proof.Tests

open Sys2Proof Sys2Proof.Machine

-- One test after another: those that the kernel evaluates would each hold a thread while it waits for the kernel.
set_option Elab.async false

/-! ### States and operands that the tests share -/

/-- A 64-bit word without SW and SP, and one with SW. -/
def c0 : Ctl := ⟨false, false, .l64, 0⟩
def cSw : Ctl := { c0 with sw := true }
/-- Every lane, and the guard K1. -/
def g0 : Guard := ⟨0, false⟩
def gK1 : Guard := ⟨1, false⟩

/-- A Ready group of launch 1 and team 1 on core 0 of die 0, its code at virtual address 0. -/
def grp : Group := { Group.blank with run := .ready, launch := 1, team := 1, csize := 4096 }
def base : State := { State.reset with g := grp }

/-- The same with other contents. -/
def withS (n : Fin 64) (x : Word64) (s : State) : State := { s with g := { s.g with s := s.g.s.set n x } }
def withV (n : Fin 128) (x : Word) (s : State) : State :=
  { s with g := { s.g with v := s.g.v.set n (Vector.replicate 32 x) } }
def withK (n : Fin 8) (x : Word) (s : State) : State := { s with g := { s.g with k := s.g.k.set n x } }

/-- The state that an instruction leaves. -/
def after (i : Instr) (s : State) : State :=
  match exec i s with
  | .next t => t
  | _ => s

/-! ### Words of the spec decode to the instructions it names -/

/-- Decoding with all 128 V registers allocated. -/
def dec (w : BitVec 64) (hi : BitVec 64 := 0) : Option Instr :=
  match decode 128 w hi with
  | .ok i => some i
  | .error _ => none

/-- Chapter 2: SADD with SW, R49's example, and the branch back by 16 words. -/
theorem test_decode_sadd : dec 0x000003661E240010 = some (.sadd ⟨cSw, .al, .s64, false, 9, .s 7, .small 1⟩) := by decide
theorem test_decode_br : dec 0xFFFFFFC000000800 = some (.br ⟨c0, .al, .s 0, 0x3FFFFFF0⟩) := by decide
theorem test_decode_vfmul : dec 0x600003F80C0E9881 0x3E800000 =
    some (.vfmul ⟨⟨false, false, .l96, 0x3E800000⟩, ⟨2, true⟩, .f32, .dyn, 3, .v 3, .lit32⟩) := by decide
theorem test_decode_bad_version : decode 128 0x000003661E240014 0 = .error .badVersion := rfl
theorem test_decode_bad_cond : decode 128 0x000003661E27C000 0 = .error .reservedValue := rfl
/-- Chapter 3. -/
theorem test_decode_sdiv : dec 0x0804021A160C0140 = some (.sdiv ⟨c0, .al, .s32, true, 3, .s 5, .s 6⟩) := by decide
theorem test_decode_brc : dec 0xFFFFFFE0021C0840 = some (.brc ⟨c0, .al, .s 7, 0x3FFFFFF8⟩) := by decide
theorem test_decode_mand : dec 0x0000000307080B00 = some (.mand ⟨c0, .al, false, .k 2, .k 1⟩) := by decide
theorem test_decode_getsr : dec 0x00380000020C0D00 = some (.getsr ⟨c0, .al, 0x0E, 3⟩) := by decide
/-- Chapter 6. -/
theorem test_decode_vaddsat : dec 0x1000001410181480 = some (.vaddsat ⟨c0, g0, .s16, 6, .v 4, .v 5⟩) := by decide
theorem test_decode_vdot4 : dec 0x18040C08042416C0 = some (.vdot4 ⟨c0, g0, .s8, true, 9, .v 1, .v 2, .v 3⟩) := by decide
theorem test_decode_vfma : dec 0x60000C08041C18C0 = some (.vfma ⟨c0, g0, .f32, .dyn, 7, .v 1, .v 2, .v 3⟩) := by decide
theorem test_decode_vfma_rdn : dec 0x60200C08041C18C0 = some (.vfma ⟨c0, g0, .f32, .rdn, 7, .v 1, .v 2, .v 3⟩) := by
  decide
theorem test_decode_stv : dec 0x50001C0A100028C0 =
    some (.stv ⟨c0, g0, .b32, .grp, .relaxed, .ca, .s 4, .v 2, .v 7⟩) := by decide
theorem test_decode_ldv : dec 0x1000000A10202880 =
    some (.ldv ⟨c0, g0, .s16, .grp, .relaxed, .ca, .v 8, .s 4, .v 2⟩) := by decide
/-- Chapter 7. -/
theorem test_decode_vshuf : dec 0x50000010040C2200 = some (.vshuf ⟨c0, g0, 3, 1, .v 4⟩) := by decide
theorem test_decode_pselk : dec 0x0000030B07C424C0 = some (.pselk ⟨c0, g0, 1, 2⟩) := by decide
theorem test_decode_bar : dec 0x0030000000003A80 = some (.bar ⟨c0, .al, .sync, 3, none⟩) := by decide
/-- Chapters 12, 16, 20 and 27. -/
theorem test_decode_atoms : dec 0x300B67622A0C2B00 =
    some (.atoms ⟨c0, .al, .add, .n32, .grp, .relaxed, some 3, 10, .small 0, .small 1⟩) := by decide
theorem test_decode_sts : dec 0x3003676228002840 =
    some (.sts ⟨c0, .al, .n32, .grp, .relaxed, .ca, 10, .small 0, .small 1⟩) := by decide
theorem test_decode_mma : dec 0x4003722E2B343000 =
    some (.mma ⟨c0, .al, 2, none, false, 5, some (.s 10), some (.s 11), some (.small 4)⟩) := by decide
theorem test_decode_mtap : dec 0x200F680233383100 =
    some (.mtap ⟨c0, .al, 1, none, true, 1, false, 6, some (.s 12), some (.small 2)⟩) := by decide
theorem test_decode_mmav : dec 0x600B663843283080 =
    some (.mmav ⟨c0, .al, 3, none, false, true, 0, 0, 2, 16, some (.s 14), some (.small 1)⟩) := by decide
theorem test_decode_epi : dec 0x20000002373C3240 = some (.epi ⟨c0, .al, 1, none, 7, .s 13⟩) := by decide
theorem test_decode_trace : dec 0x0032262000503C00 = some (.trace ⟨c0, g0, none, 3, 20, 0, .s 8, some 9⟩) := by decide
theorem test_decode_trres : dec 0x00487E207850BC40 =
    some (.trres ⟨c0, ⟨2, false⟩, none, 4, .commit, 20, some (.v 30), .s 8, some (.v 31)⟩) := by decide
theorem test_decode_trstat : dec 0x000800032F083C80 = some (.trstat ⟨c0, g0, .k 2 .sus, 3⟩) := by decide
theorem test_decode_waitw_rel : dec 0x0004000368003A40 = some (.waitw ⟨c0, .al, true, none, some (.small 2)⟩) := by
  decide
theorem test_decode_waitw : dec 0x000000021A143A40 = some (.waitw ⟨c0, .al, false, some 5, some (.s 6)⟩) := by decide

/-- R16: a word whose LEN is 0b11 is a skip code, and the encoder writes SADD's word back. -/
theorem test_decode_skip : dec 3 = some (.skipCode 0) := by decide
theorem test_encode_sadd : encode (.sadd ⟨cSw, .al, .s64, false, 9, .s 7, .small 1⟩) = 0x000003661E240010 := by decide

/-! ### Each check of WellFormed refuses an ill-formed term -/

def c96 : Ctl := ⟨false, false, .l96, 7⟩
def c128 : Ctl := ⟨false, false, .l128, 7⟩
/-- Every term is refused under an allocation of 64 V registers. -/
def refused (is : List Instr) : Bool := is.all fun i => !i.wf 64

/-- Literals and lengths: bits above the form, a literal form without its literal, a literal without its form, LIT64 where
the class has none, a branch or an offset in a long form. -/
theorem test_wf_lengths : refused
    [.sadd ⟨{ c0 with lit := 1 }, .al, .s64, false, 0, .s 0, .s 0⟩, .sadd ⟨c96, .al, .s64, false, 0, .s 0, .s 0⟩,
     .sadd ⟨{ c96 with lit := 0x100000000 }, .al, .s64, false, 0, .s 0, .lit32⟩,
     .sadd ⟨c0, .al, .s64, false, 0, .s 0, .lit32⟩, .vadd ⟨c128, g0, .s32, 0, .v 0, .lit64⟩,
     .br ⟨c96, .al, .s 0, 0⟩, .mma ⟨c96, .al, 0, none, false, 0, none, none, none⟩,
     .mma ⟨c0, .al, 0, none, false, 0, none, some (.s 1), some (.s 1)⟩,
     .mma ⟨{ c128 with lit := 0x4000000000000 }, .al, 0, none, false, 0, none, none, none⟩,
     .trace ⟨{ c128 with lit := 0x100000000000000 }, g0, none, 0, 0, 0, .s 0, none⟩] = true := by decide

/-- Operands: a V register beyond the allocation, an odd pair, an operand kind that the field does not take. -/
theorem test_wf_operands : refused
    [.vadd ⟨c0, g0, .s32, 64, .v 0, .v 0⟩, .vadd ⟨c0, g0, .s32, 0, .v 64, .v 0⟩, .vmulw ⟨c0, g0, .s32, 1, .v 0, .v 0⟩,
     .vadd64 ⟨c0, g0, .s64, 0, .v 1, .v 0⟩, .vadd ⟨c0, g0, .s32, 0, .k 1, .v 0⟩,
     .sadd ⟨c0, .al, .s64, false, 0, .v 0, .s 0⟩, .brc ⟨c0, .al, .v 0, 0⟩, .calli ⟨c0, .al, .k 0⟩,
     .mand ⟨c0, .al, false, .v 0, .k 1⟩, .mget ⟨c0, .al, false, .v 0⟩, .mpop ⟨c0, .al, false, .k 0, .k 1⟩,
     .vfadd ⟨c0, g0, .f32, .dyn, 0, .laneid, .v 0⟩, .vbcast ⟨c0, g0, 0, 0, .v 1⟩, .vballot ⟨c0, g0, .s 0, .v 0⟩,
     .vvote ⟨c0, g0, .any, .k 0, .v 0⟩, .kop ⟨c0, .al, .and, .v 0, .k 1, .k 2⟩, .trap ⟨c0, .al, 0, some (.v 0)⟩,
     .lds ⟨c0, .al, .n32, .grp, .relaxed, .ca, 0, 0, .v 0⟩,
     .ldv ⟨c0, g0, .n32, .grp, .relaxed, .ca, .v 0, .k 0, .v 0⟩,
     .ldl ⟨c0, gK1, .n32, .grp, .relaxed, .ca, .s 0, .s 0, .small 0⟩,
     .sealPages ⟨c0, .al, 0, .small 1, .small 1⟩, .epi ⟨c0, .al, 0, none, 0, .v 0⟩,
     .spawn ⟨c0, g0, 51, .s 0⟩, .trres ⟨c0, g0, none, 0, .fin, 0, some (.v 3), .s 0, none⟩,
     .trres ⟨c0, g0, none, 0, .short, 0, some (.v 0), .s 0, none⟩,
     .trres ⟨c0, g0, none, 0, .short, 0, some (.v 3), .s 0, some (.v 4)⟩] = true := by decide

/-- Types and reserved values. -/
theorem test_wf_types : refused
    [.sadd ⟨c0, .al, .s16, false, 0, .s 0, .s 0⟩, .vadd ⟨c0, g0, .f32, 0, .v 0, .v 0⟩, .vmad ⟨c0, g0, .s16, 0, .v 0, .v 0, .v 0⟩,
     .vabs ⟨c0, g0, .n32, false, 0, .v 0⟩, .vdot4 ⟨c0, g0, .s16, false, 0, .v 0, .v 0, .v 0⟩,
     .vcmp ⟨c0, g0, .s32, 6, 1, .v 0, .v 0⟩, .vfadd ⟨c0, g0, .s32, .dyn, 0, .v 0, .v 0⟩,
     .vhadd ⟨c0, g0, .f32, .dyn, 0, .v 0, .v 0⟩, .vcvt ⟨c0, g0, .b1, .f32, .dyn, false, 0, .v 0⟩,
     .vqnt ⟨c0, g0, .e4m3, true, .dyn, true, 0, .v 0, none⟩, .vdqnt ⟨c0, g0, .s8, false, .dyn, true, 0, .v 0, some (.v 1)⟩,
     .vpack ⟨c0, g0, .f32, .f32, .dyn, false, 0, .v 0, .v 1⟩, .vred ⟨c0, g0, .add, true, .s32, .dyn, 0, .v 0⟩,
     .vred ⟨c0, g0, .max, false, .f32, .rz, 0, .v 0⟩, .nop ⟨c0, .eq⟩, .pidle cSw, .exit ⟨{ c0 with sp := true }, .al⟩,
     .lds ⟨c0, .al, .s4, .grp, .relaxed, .ca, 0, 0, .small 0⟩,
     .lds ⟨c0, .al, .n32, .dev, .relaxed, .ca, 0, 0, .small 0⟩, .lds ⟨c0, .al, .n32, .dev, .rel, .ca, 0, 0, .small 0⟩,
     .ldl ⟨c0, g0, .n32, .clu, .acq, .ca, .v 0, .s 0, .small 0⟩, .ldro ⟨c0, g0, .n32, .dev, .acq, .ca, .v 0, .s 0, .small 0⟩,
     .prf ⟨c0, .al, .cs, 0, .small 0⟩, .atoms ⟨c0, .al, .cas, .n32, .grp, .relaxed, none, 0, .small 0, .small 0⟩,
     .atomv ⟨c0, g0, .add, .n8, .grp, .relaxed, none, .s 0, .small 0, .v 0⟩, .fence ⟨c0, .al, .dev, .relaxed⟩,
     .copyOut ⟨c0, .al, .w, none, none, 0, 0, .s 0⟩, .copyIn ⟨c0, .al, .c, none, none, 0, 0, .s 0⟩,
     .copyXs ⟨c0, .al, .l, .w, none, none, .s 0, .s 0, .s 0⟩, .barc ⟨c0, .al, .sync, 4, none⟩,
     .barg ⟨c0, .al, .sync, 0, some (.small 1)⟩, .illegalInstruction 0 0] = true := by decide

/-! ### Steps of classes 0 and 1, from the examples and corner tables of the spec -/

def sint (ty : Ty) (a b : Operand) : SInt := ⟨c0, .al, ty, true, 3, a, b⟩
def s56 (a b : Word64) : State := withS 5 a (withS 6 b base)
/-- S3 and SC after an instruction. -/
def s3sc (i : Instr) (s : State) : Word64 × BitVec 4 := let t := after i s; (t.g.readS 3, t.g.sc)

/-- R58: the sum of 2^31 - 1 and 1 at 32 bits is negative, without carry, and overflows. -/
theorem test_sadd_overflow : s3sc (.sadd (sint .s32 (.s 5) (.s 6))) (s56 0x7FFFFFFF 1) = (0xFFFFFFFF80000000, 9) := by
  decide
/-- C of SSUB is 1 where nothing is borrowed. -/
theorem test_ssub_borrow : s3sc (.ssub (sint .s64 (.s 5) (.s 6))) (s56 0 1) = (0xFFFFFFFFFFFFFFFF, 8) := by decide
theorem test_smulhn : s3sc (.smulhn (sint .n64 (.s 5) (.s 6))) (s56 0xFFFFFFFFFFFFFFFF 2) = (1, 0) := by decide
/-- R61: a shift by the width or more. -/
theorem test_ssra_wide : s3sc (.ssra (sint .s32 (.s 5) (.s 6))) (s56 0x80000000 32) = (0xFFFFFFFFFFFFFFFF, 8) := by decide
theorem test_sshl_wide : s3sc (.sshl (sint .s64 (.s 5) (.s 6))) (s56 1 64) = (0, 4) := by decide
/-- R60: the quotient by zero is all ones with V. -/
theorem test_sdiv_zero : (after (.sdiv (sint .s64 (.s 5) (.s 6))) (s56 7 0)).g.log.map (fun p => (p.lanes.map (·.val), p.kind))
    = [([some 0xFFFFFFFFFFFFFFFF], .computed (some 9))] := by decide
/-- S0 reads zero, and a write to it is discarded (R6). -/
theorem test_s0 : (after (.smov ⟨c0, .al, .s64, false, 0, .small 5⟩) base).g.readS 0 = 0 := by decide
/-- R65: BRC counts down to 1 and then falls through. -/
theorem test_brc_taken : (after (.brc ⟨c0, .al, .s 7, 4⟩) (withS 7 2 base)).g.pc = 16 := by decide
theorem test_brc_last : (after (.brc ⟨c0, .al, .s 7, 4⟩) (withS 7 1 base)).g.pc = 8 := by decide
/-- MAND with K1 = 0 leaves no lane (chapter 3). -/
theorem test_mand : (after (.mand ⟨c0, .al, true, .k 2, .k 1⟩) base).g.exec = 0 := by decide

/-! ### Hypotheses of the statements on classes 0 and 1 are met -/

def handlers : State := { base with g := { base.g with trapbase := 0x101 } }
def inTrap (s : State) : State := { s with g := { s.g with status := s.g.status ||| 1 } }
/-- A region of two planes of 32 bytes at 0x200, in which the group stands. -/
def region : Region := ⟨0x200, 0x20, 2⟩
def inRegion : State := { base with g := { base.g with regions := [region], pc := 0x200 } }

def sintX : SInt := sint .s64 (.s 5) (.s 6)
def sunX : SUnary := ⟨c0, .al, .s64, false, 3, .s 5⟩
theorem witness_ScalarArithmetic : sintX.cond.holds base.g.sc = true ∧ base.g.log.length < 16 ∧
    (⟨c0, .al, .s64, .s 5, .s 6⟩ : SCompare) = ⟨sintX.c, sintX.cond, sintX.ty, sintX.a, sintX.b⟩ := by decide
/-- At 15 results outstanding the division still issues. -/
theorem witness_ScalarDivision_full : (List.replicate 15 ()).length < 16 := by decide
theorem witness_ScalarBits : sintX.cond.holds base.g.sc = true ∧ sunX.cond.holds base.g.sc = true := by decide
theorem witness_ScalarShifts : Cond.le.holds 8 = true ∧ Cond.al.holds base.g.sc = true := by decide

/-- Branches on S0 and S63; a jump below 2^32 that ends on 3 bits of alignment; a target in plane 1's copy, and one outside. -/
theorem witness_BranchesAndJumps : Cond.al.holds base.g.sc = true ∧ (Operand.s 63) = .s 63 ∧
    (0xFFFFFFFC : Word64).toNat < 2 ^ 32 ∧ (0xFFFFFFFC : Word64).toNat % 4 = 0 ∧
    inRegion.g.inOtherCopy 0x220 = true ∧ inRegion.g.inOtherCopy 0x240 = false ∧ inRegion.g.inOtherCopy 0x21C = false := by
  decide
theorem witness_MaskRegisters : Cond.al.holds base.g.sc = true ∧ (⟨c0, .al, true, .s 3, .k 1⟩ : MaskOp).d = .s 3 ∧
    (⟨c0, g0, .v 5⟩ : PGetArgs).d = .v 5 ∧ (⟨c0, g0, .k 7 3⟩ : PGetArgs).d = .k 7 3 := by decide
/-- FMTSET at the greatest value that it takes in every field, and at the least that it refuses in one. -/
theorem witness_FormatsAndSpecialRegisters :
    let f (v : Word64) : Nat := ((withS 5 v base).g.src c0 .b32 (.s 5)).toNat % 2 ^ 32
    f 0xAFAAA < 2 ^ 24 ∧ f 0xAFFAAA % 16 < 11 ∧ f 0xAFFAAA / 2 ^ 4 % 16 < 11 ∧ f 0xAFFAAA / 2 ^ 8 % 16 < 11 ∧
    f 0xAFFAAA / 2 ^ 20 % 16 < 11 ∧ 2 ^ 24 ≤ f 0x1000000 ∧ 11 ≤ f 11 % 16 ∧
    (0x16 : BitVec 8) < 0x17 ∧ (0x0D : BitVec 8) < 0x0E := by decide
theorem witness_FormatsAndSpecialRegisters_numbers : (⟨c0, .al, 0x17, 3⟩ : GetSr).srn.toNat > 0x16 ∧
    (⟨c0, .al, 3, 3⟩ : GetSr).srn = 3 ∧ (⟨c0, .al, 0x0E, .s 5⟩ : SetSr).srn.toNat > 0x0D := by decide

/-- SETSR to STATUS, SC and the last bank of FMT, with the greatest word of formats that it takes and the least that it refuses. -/
theorem witness_FormatsAndSpecialRegisters_writes :
    let u (v : Word64) : Nat := ((withS 5 v base).g.src c0 .s64 (.s 5)).toNat % 2 ^ 32
    (⟨c0, .al, 0, .s 5⟩ : SetSr).srn = 0x00 ∧ (⟨c0, .al, 1, .s 5⟩ : SetSr).srn = 0x01 ∧
    (⟨c0, .al, 7, .s 5⟩ : SetSr).srn = 4 + BitVec.ofNat 8 (3 : Fin 4).val ∧ u 0xAFFAAA < 2 ^ 24 ∧ u 0xAFFAAA % 16 < 11 ∧
    u 0xAFFAAA / 2 ^ 4 % 16 < 11 ∧ u 0xAFFAAA / 2 ^ 8 % 16 < 11 ∧ u 0xAFFAAA / 2 ^ 20 % 16 < 11 ∧ 2 ^ 24 ≤ u 0x1000000 ∧
    11 ≤ u 0xB % 16 ∧ 11 ≤ u 0xB00000 / 2 ^ 20 % 16 := by decide
/-- SETSR to STATUS writes SSC and PLERR, and TM stays (R9). -/
theorem test_setsr_status : (after (.setsr ⟨c0, .al, 0, .neg 0⟩) base).g.status = 0xF002 := by decide

theorem witness_TrapsAreTaken : Cond.al.holds base.g.sc = true ∧ base.g.region = none ∧ handlers.g.log = [] ∧
    handlers.g.deferred = [] ∧ handlers.g.status.getLsbD 0 = false ∧ handlers.g.trapbase.getLsbD 0 = true ∧
    (inTrap handlers).g.status.getLsbD 0 = true ∧ base.g.trapbase.getLsbD 0 = false := by decide
def withErrs (ns : List RegName) (s : State) : State := { s with g := { s.g with errs := ns } }
def readErr (i : Instr) (n : RegName) (s : State) : Bool := (s.g.sources i).contains n
/-- An erroneous register of each kind that a word reads; the word of chapter 2. -/
theorem witness_TrapsAreTaken_errors :
    decode base.g.valloc 0x000003661E240010 0 = .ok (.sadd ⟨cSw, .al, .s64, false, 9, .s 7, .small 1⟩) ∧
    readErr (.sadd ⟨cSw, .al, .s64, false, 9, .s 7, .small 1⟩) (.s 7) base = true ∧
    readErr (.vadd ⟨c0, g0, .n32, 127, .v 127, .v 0⟩) (.v 127 31) base = true ∧
    readErr (.vadd ⟨c0, ⟨7, false⟩, .n32, 3, .v 4, .v 5⟩) (.k 7) base = true ∧
    readErr (.testh ⟨c0, .al, false, 3, 15⟩) (.h 15) base = true ∧
    readErr (.getsr ⟨c0, .al, 0x16, 3⟩) (.special 0x16) base = true ∧
    (withErrs [.s 7] base).g.errs = [.s 7] := by
  refine ⟨by rfl, ?_⟩
  decide
/-- R375: SUB 2 for V, XINFO with the lane in [15:8]; the error goes with a whole write of the element. -/
theorem test_machine_check : (withErrs [.v 4 31] handlers).g.machineCheck (.vmov ⟨c0, g0, .n32, 3, .v 5⟩) = none ∧
    (withErrs [.v 4 31] (handlers)).g.sources (.vmov ⟨c0, ⟨1, false⟩, .n32, 3, .v 4⟩) = [.special 2, .k 1] ∧
    ((withErrs [.v 4 31, .s 7] handlers).g.writeV 4 (BitVec.allOnes 32) fun _ => 0).errs = [.s 7] ∧
    RegName.report (.v 4 31) = (2, 0x1F04) := by decide
theorem witness_TrapsAreTaken_parks : (after (.sdiv sintX) handlers).g.log ≠ [] := by decide
/-- What R32 saves: the TRAP's own word is behind, its code and SUB stand in XCAUSE. -/
theorem test_trap_entry : let t := after (.trap ⟨c0, .al, 7, none⟩) handlers
    (t.g.xpc, t.g.xcause, t.g.pc, t.g.tm) = (8, 0x708, 0x100, true) := by decide

def xpc (x : Word64) (s : State) : State := { s with g := { s.g with xpc := x } }
theorem witness_TrapReturn :
    let s := xpc 0x40 (inTrap handlers)
    s.g.status.getLsbD 0 = true ∧ s.g.log = [] ∧ s.g.deferred = [] ∧ (s.g.xpc.setWidth 32 : Word).toNat % 4 = 0 ∧
    s.g.xpc.toNat < 2 ^ 32 ∧ s.g.inOtherCopy 0x40 = false ∧ c0.sp = false := by decide
theorem witness_TrapReturn_region :
    let s := xpc 0x0000020000000224 (inTrap inRegion)
    s.g.regions.find? (fun q => q.base == region.base) = some region ∧ s.g.xpc.toNat = 0x200 * 2 ^ 32 + (0x200 + 0x24) ∧
    0 < region.base ∧ 0x24 < region.npl * region.stride ∧ region.npl ≤ 4 ∧ 0x24 % 4 = 0 := by decide
theorem witness_TrapReturn_misaligned : ((xpc 0x42 (inTrap handlers)).g.xpc.setWidth 32 : Word).toNat % 4 ≠ 0 ∧
    handlers.g.status.getLsbD 0 = false ∧ (inTrap (after (.sdiv sintX) handlers)).g.log ≠ [] := by decide
/-- XPC in plane 1's copy of offset 4 of the region comes back as that place (R33, R106). -/
theorem test_tret_region : let t := after (.tret ⟨c0, .al⟩) (xpc 0x0000020000000224 (inTrap inRegion))
    (t.g.pc, t.g.plane, t.g.tm) = (0x204, 1, false) := by decide

/-- Planes: from plane 0 of two to plane 1, from the last plane on within the copy, and out of the region. -/
theorem witness_EndsOfWords : base.runsOn c0 ∧ base.g.region = none ∧ inRegion.g.region = some region ∧
    (1 : Fin 4).val = inRegion.g.plane.val + 1 ∧ (1 : Fin 4).val < region.npl ∧
    region.npl ≤ ({ inRegion.g with plane := 1 } : Group).plane.val + 1 ∧
    ({ inRegion.g with pc := 0x218 } : Group).pc.toNat + 8 = region.base + region.stride := by decide
def aLive : LiveWord := ⟨true, false, 0, 0, 0, 1, false, false⟩
theorem witness_EndsOfWords_boundaries : cSw.sw = true ∧ cSw.sp = false ∧ base.g.live = none ∧ base.g.log = [] ∧
    base.g.deferred = [] ∧ base.g.wdue = false ∧ base.preempting base.g.launch = false ∧
    (after (.sdiv sintX) base).g.log ≠ [] ∧ ({ base.g with live := some aLive } : Group).live = some aLive := by decide
theorem witness_IdleWords : Cond.al.holds base.g.sc = true ∧ base.g.region = none ∧ base.g.log = [] ∧
    base.g.deferred = [] ∧ base.g.wdue = false ∧ base.preempting base.g.launch = false := by decide
/-- A skip code whose next 32 bytes are the segment's end, and one before it. -/
theorem witness_IdleWords_skip : ({ base.g with csize := 32 } : Group).csize.toNat ≤ (base.g.pc.toNat / 32 + 1) * 32 ∧
    (base.g.pc.toNat / 32 + 1) * 32 < base.g.csize.toNat := by decide
/-- A YIELD whose cycle is about to end. -/
theorem witness_IdleWords_yields : let s := base.modCore base.g.coreRef fun k => { k with issue := { k.issue with yields := [base.g.slot] } }
    (s.core s.g.coreRef).issue.yields = [s.g.slot] ∧ s.g.active = true := by decide
/-- A SLEEP of 0 cycles, of 2^24 - 1 and more. -/
theorem test_sleep_zero : (after (.sleep ⟨c0, .al, .small 0⟩) base).g.run = .ready := by decide
theorem test_sleep_longest : (after (.sleep ⟨c0, .al, .neg 0⟩) base).g.run = .waiting ⟨false, false, .l64, 0⟩ (.sleep 0xFFFFFF) := by
  decide
theorem witness_FalseConditionGoesOn : Cond.eq.holds base.g.sc = false ∧ Cond.vs.holds base.g.sc = false := by decide
theorem witness_ScalarFrame : base.runsOn sintX.c ∧ Instr.sadd sintX ∈ [Instr.sadd sintX, .ssub sintX] ∧
    exec (.sadd sintX) base = .next (after (.sadd sintX) base) :=
  ⟨by decide, by simp, rfl⟩
theorem witness_BadVersionTraps : (0x4 : BitVec 64).extractLsb' 0 2 ≠ 3#2 ∧ (0x4 : BitVec 64).extractLsb' 2 2 ≠ 0#2 ∧
    (0xFFFFFFFFFFFFFFFE : BitVec 64).extractLsb' 0 2 ≠ 3#2 ∧ (0xFFFFFFFFFFFFFFFE : BitVec 64).extractLsb' 2 2 ≠ 0#2 := by
  decide

/-- The state after reset with SADD placed where the next step fetches. -/
def placed (w : Nat) : State := State.reset.withFetchWord 64 w
theorem test_step_sadd : (match step ((placed 0x000003661E240010).withFetchWord 64 0x000003661E240010) with
    | .next t => (t.g.readS 9, t.g.pc, t.g.run)
    | _ => (0, 0, .retired)) = (1, 8, .ready) := by decide

/-! ### Hypotheses of the statements on words of classes 2 to 7 are met -/

def fetched (s : State) (p : State → Word64 → Word64 → Bool) : Bool :=
  match State.focus { s with agenda := [] } s.g.ref with
  | some t =>
    match t.fetchAt false t.g.pc.toNat with
    | .word w hi u => p u w hi && decide (t.g.run = .ready ∧ (t.core t.g.coreRef).gated = false ∧ t.g.pc.toNat < t.g.csize.toNat)
    | _ => false
  | none => false
/-- The word that fetch reads decodes and lies in its block and in the segment: outside regions, and in plane 0 of one. -/
theorem witness_StepRunsDecodedWord :
    let s := placed 0x000003661E240010
    let t : State := { s with g := { s.g with regions := [⟨0, 16, 2⟩], fresh := false } }
    let ok (u : State) (w hi : Word64) : Bool := decide (isSkip w = false ∧ u.g.pc.toNat % 32 + wordBytes w ≤ 32 ∧
      u.g.pc.toNat + wordBytes w ≤ u.g.csize.toNat ∧ isSafePoint w = false ∧ u.g.errs = []) && (dec w hi).isSome
    s.agenda = [⟨0, .issue s.g.ref false⟩] ∧ s.inReset = false ∧
    fetched s (fun u w hi => ok u w hi && decide (u.g.region = none)) = true ∧
    fetched t (fun u w hi => ok u w hi && decide (u.g.region = some ⟨0, 16, 2⟩ ∧ u.g.fresh = false ∧ u.g.plane = 0 ∧
      u.g.occupied 0 = true)) = true := by decide

def pend (seq : Nat) (kind : PendKind) (dst : Dest) (ls : List LaneAcc) : Pend :=
  { seq, fpos := 0, instr := .pidle c0, off := 0, kind, ty := .n32, sco := .grp, ord := .relaxed, cp := .ca, dst
    due := BitVec.allOnes 32, dueHi := 0, dueSc := true, scalar := true, lanes := ls }
def withLog (ps : List Pend) (s : State) : State := { s with g := { s.g with log := ps, seq := 9 } }
def inLog : State := withLog [pend 3 (.load .glob false) (.v 5) [⟨0, 64, 0, 0, none⟩]] base
theorem witness_LanesAndMoves : inLog.g.log.all (fun p => decide (p.seq < inLog.g.seq ∧ p.dst = .v 5 ∧
    (BitVec.allOnes 32 : LaneMask).getLsbD 31 = true)) = true ∧ inLog.g.log ≠ [] := by decide

def vbinX : VBinary := ⟨c0, g0, .s32, 3, .v 4, .v 5⟩
/-- VectorShifts, VectorIntegers and VectorFieldsAndCompares ask for a 32-bit type, FloatSigns for a float one. -/
theorem witness_vector_types : vbinX.ty.isW32 = true ∧ Ty.isW32 .n32 = true ∧ Ty.isW32 .b32 = true ∧ (Ty.s32 ≠ .b64) ∧
    Ty.isWide .s64 = true ∧ Ty.isWide .n64 = true ∧ Ty.isWide .b64 = true ∧ Ty.isWide .s32 = false ∧ Ty.isLaneFloat .f32 = true ∧ Ty.isLaneFloat .f16 = true ∧ Ty.isLaneFloat .bf16 = true := by decide
/-- Elements at the ends of what a lane holds: eight of 4 bits, one of 32; the two ends of an .s8 product. -/
theorem witness_PackedIntegers : 3 < 32 / elemWidth .s8 ∧ 1 < 32 / elemWidth .s16 ∧ 0 < 32 / elemWidth .s32 := by decide
theorem witness_FloatFunctions : (fp32.decode 0x7FC00000).isNan = true ∧ (fp32.decode 0).isNan = false ∧
    (fp32.decode 0xBF800000).lt (fp32.decode 0x3F800000) = true ∧ (fp32.decode 0x3F800000).lt (fp32.decode 0xBF800000) = false := by
  decide
/-- Zeros of either sign, which are equal; the ends of the negative numbers and of the NaN patterns. -/
theorem witness_FloatFunctions_values : (fp32.decode 0x80000000).lt (fp32.decode 0) = false ∧
    (fp32.decode 0).lt (fp32.decode 0x80000000) = false ∧ 0x80000000 / 2 ^ (fp32.mbits + fp32.ebits) % 2 = 1 ∧
    (0x80000000 : Word).toNat < 0x80000001 ∧ (0xFF7FFFFF : Word).toNat < 0xFF800000 ∧
    (fp32.decode 0x7F800001).isNan = true ∧ (fp32.decode 0xFFFFFFFF).isNan = true ∧ (fp32.decode 0xFF800000).isNan = false := by
  decide
theorem witness_Conversions : (⟨c0, g0, .e4m3, false, .dyn, false, 3, .v 4, some (.v 5)⟩ : Quant).b = some (.v 5) ∧
    (⟨c0, g0, .e4m3, true, .dyn, false, 3, .v 4, none⟩ : Quant).b = none ∧ Ty.inSetP .e2m1 = true ∧ 7 < 32 / Ty.bits .e2m1 := by
  decide
theorem witness_ReductionsAndVotes : (Ty.s32 ≠ .f32) ∧ (RedOp.add ≠ .amax) ∧ (⟨c0, g0, .k 2, .v 3⟩ : Ballot).d = .k 2 ∧
    (⟨c0, g0, .v 2, .v 3⟩ : Ballot).d = .v 2 ∧ (⟨c0, g0, .any, .s 2, .v 3⟩ : Vote).d = .s 2 ∧
    (⟨c0, g0, .any, .v 2, .v 3⟩ : Vote).d = .v 2 := by decide
theorem witness_VectorFrame : base.runsOn vbinX.c ∧ Instr.vadd vbinX ∈ [Instr.vadd vbinX, .vsub vbinX] ∧
    Instr.vmulw vbinX ∈ [Instr.vmulw vbinX, .vadd64 vbinX] ∧ exec (.vadd vbinX) base = .next (after (.vadd vbinX) base) :=
  ⟨by decide, by simp, by simp, rfl⟩

/-! Steps of classes 2 to 4 -/

def lane0 (i : Instr) (s : State) : Word := (after i s).g.readV 3 0
def v45 (a b : Word) : State := withV 4 a (withV 5 b base)
/-- Chapter 6: saturation of 16-bit elements, without a carry between them. -/
theorem test_vaddsat : lane0 (.vaddsat ⟨c0, g0, .s16, 3, .v 4, .v 5⟩) (v45 0x7FFF8000 0x0001FFFF) = 0x7FFF8000 := by decide
theorem test_vadd_packed : lane0 (.vadd ⟨c0, g0, .s16, 3, .v 4, .v 5⟩) (v45 0x0001FFFF 0x00010001) = 0x00020000 := by decide
theorem test_vabs_least : lane0 (.vabs ⟨c0, g0, .s32, true, 3, .v 4⟩) (v45 0x80000000 0) = 0x7FFFFFFF := by decide
theorem test_vshl_wide : lane0 (.vshl vbinX) (v45 1 32) = 0 := by decide
/-- 1.0 + 2^-24 is a tie and goes to the even 1.0; rounded up it is the next value. -/
theorem test_vfadd_tie : lane0 (.vfadd ⟨c0, g0, .f32, .rne, 3, .v 4, .v 5⟩) (v45 0x3F800000 0x33800000) = 0x3F800000 := by
  decide
theorem test_vfadd_up : lane0 (.vfadd ⟨c0, g0, .f32, .rup, 3, .v 4, .v 5⟩) (v45 0x3F800000 0x33800000) = 0x3F800001 := by
  decide
/-- A lane that does not execute keeps its element (R96). -/
theorem test_vmov_guard : (after (.vmov ⟨c0, gK1, .n32, 3, .v 4⟩) (withK 1 2 (v45 7 0))).g.readV 3 0 = 0 ∧
    (after (.vmov ⟨c0, gK1, .n32, 3, .v 4⟩) (withK 1 2 (v45 7 0))).g.readV 3 1 = 7 := by decide

/-! Class 5 -/

def team1 : Team :=
  { key := 1, launch := 1, die := 0, core := 0, idx := 0, cluster := 0, root := 0, rootTeam := 1, spawned := false
    reserved := false, groups := 1, lsize := 32768, asize := 262144, wsize := 262144, csize := 131072, l := [], a := [], w := []
    c := [] }
def teamed : State := { base with teams := [team1] }
def sload : SLoad := ⟨c0, .al, .n32, .grp, .relaxed, .ca, 3, 5, .small 0⟩
def sstore : SStore := ⟨c0, .al, .n32, .grp, .relaxed, .ca, 5, .small 0, .s 6⟩
def satom : SAtomic := ⟨c0, .al, .add, .n32, .grp, .relaxed, some 3, 5, .small 0, .s 6⟩
def vload : VLoad := ⟨c0, g0, .n32, .grp, .relaxed, .ca, .v 8, .s 5, .v 4⟩
def vstore : VStore := ⟨c0, g0, .n32, .grp, .relaxed, .ca, .s 5, .v 4, .v 7⟩
def vatom : VAtomic := ⟨c0, g0, .add, .n32, .grp, .relaxed, none, .s 5, .v 4, .v 7⟩
def full16 : List Pend := (List.range 16).map fun n => pend n (.computed none) (.s 0) [⟨0, 0, 0, 0, some 0⟩]
/-- Addresses at the last word below 2^56, and at the last word of the window; with every lane and with none. -/
theorem witness_LoadsIssue :
    let s := withS 5 0xFFFFFFFFFFFFFC teamed
    let t := withS 5 0x7FFC teamed
    let n := withK 1 0 teamed
    s.g.cflush = none ∧ s.g.log.length < 16 ∧ sload.cond.holds s.g.sc = true ∧
    (s.g.readS 5 + s.g.src c0 .s64 (.small 0)).toNat < 2 ^ 56 ∧ (s.g.readS 5 + s.g.src c0 .s64 (.small 0)).toNat % 4 = 0 ∧
    (∀ l : Lane, (s.g.laneAddr c0 (.s 5) (.v 4) l).toNat < 2 ^ 56 ∧ (s.g.laneAddr c0 (.s 5) (.v 4) l).toNat % 4 = 0) ∧
    (∀ l : Lane, (t.g.typedAddr c0 (.s 5) (.v 4) l).toNat + 4 ≤ t.windowSize .l ∧
      (t.g.typedAddr c0 (.s 5) (.v 4) l).toNat % 4 = 0) ∧
    s.g.executing g0 ≠ 0 ∧ n.g.executing gK1 = 0 := by decide
theorem witness_StoresIssue :
    let s := withS 5 0xFFFFFFFFFFFFFC teamed
    let t := withS 5 0x7FFC teamed
    s.g.cflush = none ∧ s.g.log.length < 16 ∧ s.g.fifo.length < 32 ∧ satom.cond.holds s.g.sc = true ∧
    (s.g.readS 5 + s.g.src c0 .s64 (.small 0)).toNat < 2 ^ 56 ∧
    (∀ l : Lane, (s.g.laneAddr c0 (.s 5) (.v 4) l).toNat < 2 ^ 56 ∧ (s.g.laneAddr c0 (.s 5) (.v 4) l).toNat % 4 = 0) ∧
    (∀ l : Lane, (t.g.lane32 c0 (.s 5) l + t.g.lane32 c0 (.v 4) l).toNat + 4 ≤ t.windowSize .l) ∧
    (vstore.b.isV = true) ∧ ({ vstore with b := .small 0, data := .s 6 } : VStore).data.isV = false := by decide
/-- The first address with a bit of [63:56] set, the last without, misaligned ones, and one byte beyond the window. -/
theorem witness_AccessChecks :
    let s := withS 5 0x100000000000000 teamed
    let m := withS 5 0xFFFFFFFFFFFFFE teamed
    let w := withS 5 0x8000 teamed
    s.g.cflush = none ∧ 2 ^ 56 ≤ (s.g.readS 5 + s.g.src c0 .s64 (.small 0)).toNat ∧
    (m.g.readS 5 + m.g.src c0 .s64 (.small 0)).toNat < 2 ^ 56 ∧ (m.g.readS 5 + m.g.src c0 .s64 (.small 0)).toNat % 4 ≠ 0 ∧
    vload.d.isV = true ∧ 2 ^ 56 ≤ (s.g.laneAddr c0 (.s 5) (.v 4) 0).toNat ∧
    (∀ l : Lane, (m.g.laneAddr c0 (.s 5) (.v 4) l).toNat < 2 ^ 56) ∧ (m.g.laneAddr c0 (.s 5) (.v 4) 0).toNat % 4 ≠ 0 ∧
    (m.g.typedAddr c0 (.s 5) (.v 4) 0).toNat % 4 ≠ 0 ∧ (∀ l : Lane, (w.g.typedAddr c0 (.s 5) (.v 4) l).toNat % 4 = 0) ∧
    w.windowSize .l < (w.g.typedAddr c0 (.s 5) (.v 4) 0).toNat + 4 := by decide
theorem witness_AccessChecks_full : (withLog full16 base).g.log.length = 16 ∧ (withLog full16 base).g.cflush = none ∧
    (base.g.readS 5 + base.g.src c0 .s64 (.small 0)).toNat < 2 ^ 56 ∧ satom.d ≠ none ∧
    (base.g.executing g0).getLsbD 0 = true := by decide
/-- SEAL of the last page below 2^56, and of one page more. -/
theorem witness_OrderingWords :
    let s := withS 5 0xFFFFFFFFFFF000 base
    let base (s : State) : Nat := (s.g.src c0 .n64 (.s 5)).toNat
    s.g.cflush = none ∧ Cond.al.holds s.g.sc = true ∧ (∀ q ∈ s.g.log, q.seq < s.g.seq → q.performed = true) ∧
    base s % 4096 = 0 ∧ base s < 2 ^ 56 ∧ base s + 4096 * 1 ≤ 2 ^ 56 ∧ 2 ^ 56 < base s + 4096 * 2 ∧ s.g.log.length < 16 := by
  decide
/-- A load of the window's last word enters the log, and its result is that word. -/
theorem test_ldl : ((after (.ldl { vload with ty := .n32 }) (withS 5 0x7FFC teamed)).g.log.map fun p => (p.dst, p.lanes.length)) =
    [(.v 8, 32)] := by decide
/-- CheckAtIssue: the misaligned LDS traps with cause 6 and SUB 0xFF. -/
theorem test_lds_misaligned : (after (.lds sload) (withS 5 2 handlers)).g.xcause = 0xFF06 := by decide

/-! Classes 6 and 7 -/

def withFmt (x : Word) (s : State) : State := { s with g := { s.g with fmt := s.g.fmt.set 0 x } }
def mmaX : MmaArgs := ⟨c0, .al, 2, none, false, 5, some (.s 5), some (.s 6), some (.small 4)⟩
/-- The extended form of MMA at the greatest fields: offsets of 2^21 - 32 and 255 K-blocks. -/
def mmaExt : MmaArgs := ⟨⟨false, false, .l128, 0x3FFFFFC1FFFE0⟩, .al, 7, none, false, 15, none, none, none⟩
theorem witness_MatrixWordsMakeCommands :
    let s := withS 6 32 teamed
    s.roomFor .matrix 16 3 ∧ s.roomFor .epilogue 8 5 ∧ mmaX.cond.holds s.g.sc = true ∧
    (s.g.src32 c0 (.s 6)).toNat % 32 = 0 ∧ (s.g.src32 c0 (.small 4)).toNat ≤ 255 ∧
    (1 : Nat) ≤ (s.g.src32 c0 (.small 1)).toNat := by decide
theorem witness_MatrixWordsMakeCommands_extended : let x := mmaExt.c.lit.toNat
    x % 2 ^ 21 % 32 = 0 ∧ x / 2 ^ 21 % 2 ^ 21 % 32 = 0 ∧ x / 2 ^ 42 % 2 ^ 8 = 255 ∧ x % 2 ^ 21 = 2 ^ 21 - 32 := by decide

/-- Format rows of the matrix words: FP8 by FP8, FP8 with A scales, bits, and S8 with Taper. -/
theorem witness_MatrixWordsMakeCommands_rows : mmaRow 0x33 = true ∧ mmasRow 0x33 = true ∧ mmabRow 0x899 = true ∧
    mmavRow 0x33 = true ∧ mtapRow 0x40A6 = true ∧ 124 + mmavRegs (fmtAF 0x33) 1 1 ≤ 132 ∧
    (64 + mmavRegs (fmtAF 0x33) 1 2 ≤ base.g.valloc) := by decide
/-- MSORT with its second range just behind the first, and before it; MSTAT of entry 15. -/
theorem witness_MatrixWordsMakeCommands_ranges : 0 + 16416 ≤ 16416 ∧ 16416 % 32 = 0 ∧
    0 + tileBytes false ≤ 65536 ∧ 65536 % 32 = 0 ∧
    (base.g.src32 c0 (.small 15)).toNat ≤ 15 ∧ (base.g.src32 c0 (.s 0)).toNat % 32 = 0 := by decide
/-- Checks that a word fails: a format row, offsets, numbers of K-blocks, the register range, MSORT's two ranges, q of MSTAT. -/
theorem witness_MatrixWordsMakeCommands_refused :
    let s := withS 6 33 teamed
    let n (x : Operand) : Nat := (s.g.src32 c0 x).toNat
    mmaRow 0x73 = false ∧ mmasRow 0x73 = false ∧ mmabRow 0x33 = false ∧ n (.s 6) % 32 ≠ 0 ∧ n (.small 0) < 1 ∧
    255 < (256 : Nat) ∧ ¬ (127 + mmavRegs (fmtAF 0x33) 1 1 ≤ s.g.valloc) ∧ ¬ (0 + 16416 ≤ 16384 ∨ 16384 + tileBytes false ≤ 0) ∧
    15 < n (.neg 0) ∧ Cond.eq.holds s.g.sc = false := by decide
theorem test_mma_command : let t := after (.mma { mmaX with a := some (.s 5), b := some (.s 5) }) (withFmt 0x33 teamed)
    ((t.core ⟨0, 0⟩).cmds.map (·.ext), t.g.h.get 5) = ([[0, 0, 4]], ⟨.pending, .matrix, 0, 0, false⟩) := by decide

def copyX : CopyArgs := ⟨c0, .al, .a, none, some 5, 7, 8, .s 9⟩
def xsX : CopyXsArgs := ⟨c0, .al, .w, .a, none, some 5, .s 7, .s 8, .s 9⟩
/-- A box and a layout at the last places below 2^56; a copy of 32 bytes, and one that overlaps itself. -/
theorem witness_CopyAndHandles :
    let s := withS 7 0xFFFFFFFFFFFFC0 (withS 8 0xFFFFFFFFFFFFE0 teamed)
    let t := withS 8 32 teamed
    s.roomFor .copy 32 2 ∧ copyX.cond.holds s.g.sc = true ∧ (s.g.readS 7).toNat % 64 = 0 ∧ (s.g.readS 7).toNat < 2 ^ 56 ∧
    (s.g.readS 8).toNat % 32 = 0 ∧ (s.g.readS 8).toNat < 2 ^ 56 ∧ copyX.d ≠ none ∧
    (t.g.src32 c0 (.s 7)).toNat % 32 = 0 ∧ 32 ≤ (t.g.src32 c0 (.s 8)).toNat ∧ xsX.src ≠ xsX.dst ∧
    (s.g.src32 c0 (.s 8)).toNat % 32 = 0 ∧ (s.g.readS 7 + 32).toNat % 64 ≠ 0 := by decide

def withH (n : Fin 16) (h : Handle) (s : State) : State := { s with g := { s.g with h := s.g.h.set n h } }
def settled (s : State) : State := { s with g := { s.g with settled := true } }
def batch1 : Batch := ⟨4, base.g.ref, [4], 1, 0, false⟩
theorem witness_CopyAndHandles_handles :
    let p := withH 2 ⟨.pending, .copy, 0, 4, false⟩ base
    let b := base.modCore ⟨0, 0⟩ fun k => { k with batches := [batch1] }
    base.g.cflush = none ∧ base.openBatch = none ∧ b.openBatch = some batch1 ∧ (p.g.h.get 2).tracks = some ⟨false, 4⟩ ∧
    (base.g.h.get 2).state ≠ .pending ∧ base.g.settled = false ∧ (settled p).g.settled = true ∧ p.g.deferred = [] ∧
    p.g.wdue = false ∧ (inTrap p).g.tm = true ∧
    (p.g.h.get 2).state = .pending ∧ p.preempting p.g.launch = false := by decide
/-- TESTH of a complete handle with status 6: N and C (R266). -/
theorem test_testh : let t := after (.testh ⟨c0, .al, true, 3, 2⟩) (withH 2 ⟨.complete, .copy, 6, 4, false⟩ base)
    (t.g.readS 3, t.g.sc) = (0x0081060000000004, 0xA) := by decide

/-! A device for the steps of agents: virtual addresses below 1 GiB are physical ones of die 0, the context is 0. -/

def idMap : TlbEntry := ⟨0, 3, 0, 0, true, true, true⟩
def desc0 : CtxDesc := ⟨0, true, 4, 1, 0x300000, 0x400000, 0x10000, 0x500000, 4, 0x600000⟩
def lrec0 : LaunchRec :=
  { rpta := 0x2000, lid := 7, spln := 0, spla := 0, trb := 0, wdog := 0, slsz := 0, sres := 0, spt := 4, stg := 0
    nostl := false, coop := false, prio := 0, ch := 0, cw := 0, csz := 2, wsz := 8, asz := 16, lsz := 8, val := 3, gpt := 0
    split := 1, nteam := 2, prtn := 0, prta := 0, param := 5, entry := 0, csize := 4096, cbase := 0 }
def chain1 : ChainRef := ⟨0, 0, 1⟩
def launch1 : Launch :=
  { key := 1, ctx := 0, record := lrec0, chain := chain1, index := 0, regions := [], tables := [], phase := .running
    t0 := ⟨0, 1, none, none, []⟩, t1 := ⟨1, 2, none, none, []⟩, started := Vector.replicate 2 none, startedOn := []
    spawnSeq := Vector.replicate 2 0, spill := Vector.replicate 2 (0, 0), code := [], more := 0, reported := false
    pre := none, lrec := 0, kept := none }
def dev : State :=
  { (teamed.modCore ⟨0, 0⟩ fun k => { k with tlb2 := [idMap], dtlb := [idMap] }) with
    launches := [launch1]
    dies := Vector.replicate 2 { Die.reset with etlb := [idMap], ctxs := [desc0], sealsOf := [0] } }
def r0 : GroupRef := ⟨0, 0, 0⟩
def k0 : CoreRef := ⟨0, 0⟩
def holding (cells : List (Nat × Nat × Nat)) (s : State) : State :=
  { s with mem := cells.foldl (fun m c => m.setNat c.1 c.2.1 c.2.2) s.mem }
def qputX : QPutArgs := ⟨c0, .al, 3, .s 5, .s 6⟩
/-- The highest chain number, and one above it; an image at the end of the window. -/
theorem witness_WaitingWords :
    let s := withS 5 4095 (withS 6 0x7FC0 dev)
    let t := withS 5 4096 (withS 6 32 dev)
    (s.g.src c0 .n64 (.s 5)).toNat < 4096 ∧ (s.g.src c0 .n64 (.s 6)).toNat % 64 = 0 ∧
    (s.g.src c0 .n64 (.s 6)).toNat + 64 ≤ s.windowSize .l ∧ s.imageFree 0x7FC0 = true ∧ (∀ w ∈ s.team? 1, w.errs = []) ∧ s.g.cflush = none ∧
    4096 ≤ (t.g.src c0 .n64 (.s 5)).toNat ∧ (t.g.src c0 .n64 (.s 6)).toNat % 64 ≠ 0 ∧
    s.ccbVa 0 0 4095 + 32 < 2 ^ 56 ∧ (s.ccbVa 0 0 4095 + 24) % 8 = 0 ∧ (settled s).g.settled = true ∧ s.g.deferred = [] ∧
    s.g.wdue = false ∧ s.g.waitw = none ∧
    s.preempting s.g.launch = false ∧ s.window.toNat < 1 ∧ 0 ≤ s.window.toNat := by decide
def coopDev : State := { dev with launches := [{ launch1 with record := { lrec0 with coop := true } }] }
/-- Counts at their ends: 1 and 32 of BAR, 384 of BARC, none of BARG; what is refused. -/
theorem witness_WaitingWords_barriers :
    let n (x : Word64) : Nat := ((withS 5 x dev).g.src c0 .n64 (.s 5)).toNat
    0 < n 1 ∧ n 32 ≤ 32 ∧ n 384 ≤ 384 ∧ ¬ (n 33 ≤ 32) ∧ ¬ (0 < n 0) ∧ (∃ l ∈ coopDev.launch? 1, l.record.coop = true) ∧
    dev.g.settled = false ∧ (settled dev).g.owes = none ∧ (inTrap dev).g.owesH = none ∧ dev.g.deferred = [] ∧ dev.g.wdue = false ∧
    ({ dev.g with owes := some dev.g.planeAddr } : Group).owes = some dev.g.planeAddr ∧ dev.phaseOver (dev.barRef 0 3) (dev.bar (dev.barRef 0 3)).phase = false := by
  decide

/-- What an inline count refuses whatever COND says, and a count in a register only under a true one. -/
theorem witness_WaitingWords_counts : (Operand.small 0).isInline = true ∧ (Operand.s 5).isInline = false ∧
    (dev.g.src c0 .n64 (.small 0)).toNat = 0 ∧ (∀ l ∈ dev.launch? 1, l.record.coop = false) ∧ Cond.eq.holds dev.g.sc = false := by
  decide
/-- BARG in a launch that is not cooperative traps, though its COND is false (R50, R51, R156). -/
theorem test_barg_refused : (after (.barg ⟨c0, .eq, .sync, 3, none⟩)
    { dev with g := { dev.g with trapbase := 0x101 } }).g.xcause = 0xA01 := by decide

def spawnX : SpawnArgs := ⟨c0, g0, 0, .s 5⟩
theorem witness_LeavingAndSpawning :
    let s := withS 5 4092 dev
    s.g.cflush = none ∧ s.spawns = true ∧ s.g.spawnq = [] ∧ s.g.executing g0 ≠ 0 ∧
    (∀ i : Lane, (s.g.lane32 c0 (.s 5) i).toNat % 4 = 0 ∧ (s.g.lane32 c0 (.s 5) i).toNat < s.g.csize.toNat ∧
      s.g.inOtherCopy (s.g.lane32 c0 (.s 5) i) = false) ∧
    teamed.spawns = false ∧ (∀ d ∈ s.g.deferred, d.ofWrite = false) ∧
    s.g.exitm ||| s.g.executing g0 = BitVec.allOnes 32 ∧ (withK 1 1 s).g.exitm ||| (withK 1 1 s).g.executing gK1 ≠ BitVec.allOnes 32 := by
  decide

def traceX : TraceArgs := ⟨c0, g0, none, 3, 123, 118, .s 8, some 9⟩
/-- Registers at the end of the allocation, a base at the end of the window, a table at the end of addresses. -/
theorem witness_TraversalWords :
    let s := withS 8 0x7000 (withS 9 0xFFFFFFFFFFFFF8 dev)
    let n := withK 1 0 s
    s.roomFor .lantern 8 1 ∧ traceX.d.val + 5 ≤ s.g.valloc ∧ traceX.a.val + 10 ≤ s.g.valloc ∧
    (s.g.src32 c0 (.s 8)).toNat % 128 = 0 ∧ (s.g.src32 c0 (.s 8)).toNat + 4096 ≤ s.windowSize .l ∧
    (s.g.readS 9).toNat % 8 = 0 ∧ (s.g.readS 9).toNat < 2 ^ 56 ∧ n.g.executing gK1 = 0 ∧ s.g.executing g0 ≠ 0 ∧
    s.g.startFailed none = false ∧ ((withS 8 64 s).g.src32 c0 (.s 8)).toNat % 128 ≠ 0 := by decide
theorem test_trstat : ((after (.trstat ⟨c0, g0, .v 3, 2⟩) (withV 3 9 dev)).g.readV 3 31) = 0 := by decide

/-! ### Hypotheses of the statements on the device's other steps are met -/

def computed (n : Fin 64) (sc : Option (BitVec 4)) : Pend := pend 3 (.computed sc) (.s n) [⟨0, 0, 0, 0, some 7⟩]
def withRun (r : Run) (s : State) : State := { s with g := { s.g with run := r } }
def withDog (x : Word) (s : State) : State := { s with g := { s.g with wdog := x } }
/-- A result for S63, one for S0 that ends a park, a load of the window's last word, counts and sleeps at their end. -/
theorem witness_ResultsAndExpiries :
    let s := withLog [computed 63 (some 9), { computed 0 none with seq := 4 }] dev
    let l := withLog [pend 3 (.load .l false) (.s 63) [⟨0, 0x7FFC, 0, 0, none⟩]] dev
    let p := withRun (.parked (.switch false)) (withLog [computed 0 none] dev)
    s.here r0 ∧ (computed 63 (some 9)).dst = .s 63 ∧ (∀ q ∈ [{ computed 0 none with seq := 4 }], (computed 63 none).seq < q.seq) ∧
    s.g.run = .ready ∧ l.g.fifo = [] ∧ l.g.fences = [] ∧ (l.core l.g.coreRef).sb = [] ∧ (∀ w ∈ l.team? 1, w.errs = []) ∧
    p.here r0 ∧ p.g.log = [computed 0 none] ∧ p.g.run = .parked (.switch false) ∧ p.g.deferred = [] ∧ p.g.wdue = false ∧
    (withDog 1 dev).g.wdog ≠ 0 ∧ (withDog 1 dev).g.wcnt = 0 ∧ (withDog 1 dev).g.wdx = false ∧
    ({ dev.g.setWdx true with wdog := 1 } : Group).wdx = true ∧
    (withRun (.waiting c0 (.sleep 0)) dev).here r0 ∧ (inTrap (withRun (.waiting c0 (.sleep 9)) (withDog 1 dev))).g.tm = true := by decide
/-- The window's last byte is erroneous: the load of its last word, and what R375 reports of a C-store byte. -/
theorem witness_ResultsAndExpiries_error :
    let w : Team := { team1 with errs := [(.l, 0x7FFF)] }
    let s : State := { withLog [pend 3 (.load .l false) (.s 63) [⟨0, 0x7FFC, 0, 0, none⟩]] dev with teams := [w] }
    s.here r0 ∧ s.team? s.g.team = some w ∧ 0x7FFC ≤ 0x7FFF ∧ 0x7FFF < 0x7FFC + Ty.n32.bytes ∧ (0x7FFF : Nat) < 2 ^ 32 ∧
    (after (.variableLatencyResult r0 0) s).g.deferred.map (fun d => (d.code, d.sub, d.info)) = [(0x0F, 6, 0x7FFF)] ∧
    (checkByte 3 0 .c 0x10 false).info = 0x200000010 := by decide
theorem witness_ResultsAndExpiries_other :
    let h : Group := { dev.g with slot := 31, run := .waiting c0 (.sleep 0) }
    let s : State := { dev with rest := [{ dev.g with slot := 7 }, h] }
    s.rest = [{ dev.g with slot := 7 }] ++ h :: [] ∧ h.ref ≠ r0 ∧
    ∀ x ∈ [({ dev.g with slot := 7 } : Group)], x.ref ≠ r0 ∧ x.ref ≠ h.ref :=
  ⟨rfl, by decide, by simp [Group.ref, r0, dev, teamed, base, grp, Group.blank, State.modCore, State.setCore]⟩

def fifoEntry (sp : Space) (kind : FifoKind) (a : LaneAcc) : FifoEntry :=
  { seq := 3, fpos := 0, instr := .pidle c0, sp, kind, ty := .n32, width := 4, sco := .grp, ord := .relaxed, ret := false
    scalar := true, lanes := [a], sent := false, told := false }
def withFifo (e : FifoEntry) (s : State) : State := { s with g := { s.g with fifo := [e], seq := 9 } }
def cell (a : Nat) : LaneAcc := ⟨0, a, 0xAABBCCDD, 0, none⟩
/-- A translation that finds its page in a TLB, and leaves the state as it was. -/
theorem hit_ok (s : State) (c : CoreRef) (who : Requester) (ctx : BitVec 12) (va pa : Nat) (cls : AccClass) (h : cls ≠ .fetch)
    (hc : (s.die c.die).sealsOf.contains ctx = true) (hr : (s.die c.die).takeRefused who cls va = none)
    (ha : (s.die c.die).awaits who cls = false)
    (ht : tlbHit ((s.core c).dtlb ++ (s.core c).tlb2) ctx va cls false = some pa) (hp : s.row pa ≠ .nothing) :
    s.translate c who ctx va cls false = .ok pa s := by
  have hj : s.judging c.die ctx cls = .ok 0 s := by
    unfold State.judging State.readCtx State.firstRead
    rw [if_pos hc]
    split <;> rfl
  simp [State.translate, hj, Trans.andThen, State.through, State.hitAt, hr, ha, h, ht, hp]
def onPath (es : List PathEntry) : State := dev.modCore k0 fun k => { k with path := es }
/-- A release at .sys, and a plain store behind it. -/
def path2 : List PathEntry := [⟨0, 0, 0x7C, [1, 2, 3, 4], some (.sys, dev.party)⟩, ⟨1, 0, 0x80, [5, 6, 7, 8], none⟩]
def atomReq : AtomReq :=
  { port := 0, slice := hash7 0x80, who := r0, seq := 3, lane := 0, ctx := 0, va := 0x80, pa := 0x80, op := .add, ty := .n32
    data := 1, cmp := 0 }
def withDie (f : Die → Die) (s : State) : State := s.modDie 0 f
theorem witness_StoresReachMemory :
    let w := withFifo (fifoEntry .l .store (cell 0x7FFC)) dev
    let g := withFifo (fifoEntry .glob .store (cell 0x3FFFFFFC)) dev
    w.here r0 ∧ w.memOk ∧ w.g.log = [] ∧ w.g.fences = [] ∧ (∃ x, w.team? w.g.team = some x) ∧
    (w.core w.g.coreRef).sb = [] ∧ (g.die g.g.die).seals = [] ∧
    g.translate g.g.coreRef (.store r0 3 0) g.g.ctx 0x3FFFFFFC .write false = .ok 0x3FFFFFFC g :=
  ⟨by decide, by decide, by decide, by decide, ⟨team1, by decide⟩, by decide, by decide,
    hit_ok _ _ _ _ _ _ _ (by decide) (by decide) (by decide) (by decide) (by decide) (by decide)⟩
/-- The first on the path is a release; the second does not touch it, and in the other order of bytes it does. -/
theorem witness_StoresReachMemory_path : let s := onPath path2
    (s.core k0).path = path2 ∧ path2.map (fun e => (e.n, e.rel.map (·.1))) = [(0, some .sys), (1, none)] ∧
    path2.map (·.touches 0x80 4) = [false, true] ∧ path2.map (·.touches 0x7F 4) = [true, true] ∧
    path2.reverse.map (·.rel.isSome) = [false, true] := by decide
/-- Two stores of a core of die 0 to one line of die 1. -/
theorem witness_StoresReachMemory_bridge : let s := dev
    let far : Nat := 192 * gib
    s.homeDie far = 1 ∧ s.sameSlice (lineOf far) (lineOf (far + 4)) = true ∧ s.sameSlice (lineOf far) (lineOf (far + 128)) = false ∧
    (⟨0, 0, far, [1, 2, 3, 4], none⟩ : PathEntry).touches (far + 4) 4 = false ∧ s.homeDie 0 = 0 := by decide +kernel
theorem witness_StoresReachMemory_atomic :
    let s := withDie (fun d => { d with atom := [atomReq] }) (withFifo (fifoEntry .glob (.atomic .add) ⟨0, 0x80, 1, 0, none⟩)
      (withLog [pend 3 .atomic (.s 3) [⟨0, 0x80, 1, 0, none⟩]] dev))
    (s.die 0).atom = [atomReq] ∧ atomReq.who = r0 ∧ s.g.fifo.map (·.seq) = [atomReq.seq] ∧ (s.die s.g.die).seals = [] ∧
    s.poison = [] ∧ atomReq.ty.isFloat = false ∧ s.ahead = [] ∧ Ord.relaxed.acquires = false ∧ s.g.log.map (fun p => (p.seq, p.kind)) = [(3, .atomic)] := by decide
def withFlush (sco : Scope) (s : State) : State := { s with g := { s.g with cflush := some (3, sco) } }
theorem witness_StoresReachMemory_care : (withFlush .sys dev).g.cflush = some (3, .sys) ∧ dev.g.fifo = [] ∧
    (dev.core k0).path = [] ∧ (dev.dirtyLine 0 7).dirty.any (·.1 == 7) = true ∧ (dev.dirtyLine 0 7).memOk ∧
    dev.homeDie (7 * 128) = 0 ∧ hash7 (7 * 128) = 7 := by decide

/-- A page table of one bucket a size: a mapping of the highest page, and none. -/
def walkX (va : Nat) (cls : AccClass) : Walk := ⟨.load r0 3 0, 0, va, cls, false, some 0⟩
def lastPage : Nat := 0xFFFFFFFFFFF000
def pte : Nat := 1 + 2 + 4 + 0x123 * 2 ^ 24 + lastPage / 4096 * 2 ^ 84
def tabled : State := holding [(0x300000 + 128 * probeStart 4 lastPage 0, 16, pte)] dev
theorem witness_WalkerAndPager :
    let s := withDie (fun d => { d with walks := [walkX lastPage .read] }) tabled
    s.memOk ∧ (s.die 0).walks = [walkX lastPage .read] ∧ (s.die 0).ctxs.find? (·.ctx == 0) = some desc0 ∧ desc0.valid = true ∧
    s.walk desc0 lastPage = .found ⟨0, 0, lastPage, 0x123000, false, true, true⟩ ∧
    TlbEntry.permits ⟨0, 0, lastPage, 0x123000, false, true, true⟩ .read false = true ∧
    s.walk desc0 0 = .noMapping ∧ (s.die 0).slots = [] := by decide
def slot1 : FaultSlot :=
  { slot := 1023, ctx := 0, page := 1, cls := .write, va := 4096, clk := 0, seq := 1, reason := 0, written := false
    members := [walkX 4096 .write] }
theorem witness_WalkerAndPager_slots :
    let s := withDie (fun d => { d with slots := [slot1], pgrs := 6, pgra := 0x1000 }) dev
    let ans : BitVec 64 := 0x00000000000103FF
    (s.die 0).slots = [slot1] ∧ slot1.written = false ∧ (s.die 0).pgrs = 6 ∧ (s.die 0).pgwr = (s.die 0).pgrd ∧
    (s.die 0).pgfail = false ∧ s.poison = [] ∧ s.row 0x1000 ≠ .nothing ∧ ans.extractLsb' 12 4 = 0#4 ∧ ans.getLsbD 10 = false ∧
    (ans.extractLsb' 0 10).toNat = slot1.slot.val ∧ ans.extractLsb' 16 48 = slot1.seq.extractLsb' 0 48 ∧
    (s.die 0).waiting = [] ∧ ans.getLsbD 11 = false ∧ (ans ||| 0x800).getLsbD 11 = true := by decide

def waitingOn (w : Wait) : State := withRun (.waiting c0 w) dev
/-- A target that WINDOW has reached and one just above it; SEQ at its number; an append to the last free entry. -/
theorem witness_WaitsEnd :
    let s := waitingOn (.window 0 (some 63))
    let q := holding [(0x10080 + 24, 8, 5)] (waitingOn (.seq 1 5 (some 63)))
    s.here r0 ∧ (0 : Word64).toNat ≤ s.window.toNat ∧ s.window.toNat < (1 : Word64).toNat ∧ q.g.fifo = [] ∧ q.g.fences = [] ∧
    (q.core q.g.coreRef).path = [] ∧ q.ahead = [] ∧ q.ccbVa q.g.die q.g.ctx 1 + 24 = 0x10098 ∧
    q.groupSees q.g.coreRef q.g.ctx 0x10098 0x10098 ∧ (5 : Word64).toNat ≤ q.mem.nat 0x10098 8 ∧
    q.mem.nat 0x10098 8 < (6 : Word64).toNat := by decide +kernel
/-- A chain of command processor 0 on die 0 with one block at 0x20000: SEQ and WIDX as given. -/
def ccb (seq widx : Nat) : Nat := 0x100000000 + 2 ^ 48 + 0x20000 * 2 ^ 64 + widx * 2 ^ 128 + seq * 2 ^ 192
def qputting (seq i : Nat) : State :=
  holding [(0x10080, 128, ccb seq (i + 1))]
    (withFifo (fifoEntry .glob (.qput 1 (List.replicate 64 1) (some i)) ⟨0, 0, 0, 0, none⟩) dev)
theorem witness_WaitsEnd_append : let s := qputting 1 63
    s.here r0 ∧ s.memOk ∧ s.g.fences = [] ∧ (∀ p ∈ s.g.log, 3 ≤ p.seq) ∧ (s.core s.g.coreRef).path = [] ∧ s.poison = [] ∧
    (s.die s.g.die).seals = [] ∧ (⟨s.mem.nat 0x10080 128⟩ : Ccb).nblk = 1 ∧
    (⟨s.mem.nat 0x10080 128⟩ : Ccb).head % 4096 = 0 ∧ 63 < (⟨s.mem.nat 0x10080 128⟩ : Ccb).seq + 63 ∧ 0x20000 % 64 = 0 := by
  decide +kernel
theorem witness_WaitsEnd_sees : let s := qputting 1 63
    s.ccbVa s.g.die s.g.ctx 1 = 0x10080 ∧ s.groupSees s.g.coreRef s.g.ctx 0x10080 0x10080 ∧
    s.groupSees s.g.coreRef s.g.ctx 0x20000 0x20000 := by decide +kernel

/-- A record of an engine with its fields (bit offset, value). -/
def fields (xs : List (Nat × Nat)) : Nat := xs.foldl (fun n x => n + x.2 * 2 ^ x.1) 1
def recX (eng kind : Nat) (xs : List (Nat × Nat)) : ChainRec :=
  { c := chain1, idx := 0, raw := fields ((8, kind) :: xs), va := 0x20000, eng, inst := 0, status := none, launch := none
    begun := false, since := 0, next := 0, stage := 0, acc := [], todo := [], writes := [], dead := false }
def withRec (r : ChainRec) (s : State) : State := { s with recs := [r] }
/-- The ring's entry 0 with a valid phase, then with the other; an unknown KIND. -/
def offered (raw : Nat) : State := holding [(0x10080, 128, ccb 0 1), (0x20000, 64, raw)] dev
theorem witness_ChainRecords :
    let raw := fields [(8, 2)]
    let s := offered raw
    let b : Ccb := ⟨s.mem.nat 0x10080 128⟩
    s.memOk ∧ s.halts.find? (·.1 == chain1) = none ∧ s.firstAmong chain1 b = true ∧ s.rec? chain1 = none ∧ s.unserved.contains (0, 1) = false ∧ (s.die 0).ctxs.find? (·.ctx == 0) = some desc0 ∧
    desc0.valid = true ∧ desc0.chta.toNat + 128 * 1 = 0x10080 ∧ s.engineSees 0 0 0x10080 0x10080 ∧
    s.engineSees 0 0 0x20000 0x20000 ∧ b.state = 1 ∧ b.die = 0 ∧ b.eng = 0 ∧ b.inst = 0 ∧ b.nblk = 1 ∧ b.head = 0x20000 ∧
    b.seq = 0 ∧ bitsOf raw 35 1 = 0 ∧ raw % 2 = 1 - b.seq / 63 % 2 ∧ (raw - 1) % 2 ≠ 1 - b.seq / 63 % 2 ∧
    knownKind 0 (bitsOf raw 8 8) = true ∧ headerOk raw = true ∧ knownKind 0 (bitsOf (fields [(8, 4)]) 8 8) = false ∧
    0x10080 % 128 = 0 := by decide +kernel
/-- The last record before SEQ would pass 2^64 - 1; the first failure. -/
theorem witness_ChainRecords_publish :
    let r : ChainRec := { recX 0 2 [] with idx := 2 ^ 64 - 2, status := some 18 }
    let s := withRec r (holding [(0x10080, 128, ccb (2 ^ 64 - 2) 0)] dev)
    s.memOk ∧ s.rec? chain1 = some r ∧ r.status = some 18 ∧ r.dead = false ∧ s.engineSees 0 0 (r.va + 2) 0x20002 ∧
    s.engineSees 0 0 (s.ccbVa 0 0 1) 0x10080 ∧ 0x10080 + 128 ≤ 0x20002 ∧ s.keepsCtx 0 0 ∧
    (⟨s.mem.nat 0x10080 128⟩ : Ccb).seq = r.idx ∧ r.idx + 1 < 2 ^ 64 := by decide +kernel

/-- MWAIT of 4 bytes at 0x30000 for a value at least 5, met by 5 and not by 4, in time and late. -/
def mwaitX : ChainRec := recX 0 2 [(128, 0x30000), (192, 5), (256, 0xFFFFFFFF), (320, 2), (324, 1)]
def f (r : ChainRec) (lo n : Nat) : Nat := bitsOf r.raw lo n
theorem witness_CommandProcessor :
    let s (x : Nat) := withRec mwaitX (holding [(0x30000, 4, x)] dev)
    (s 5).memOk ∧ (s 5).rec? chain1 = some mwaitX ∧ mwaitX.eng = 0 ∧ mwaitX.status = none ∧ mwaitX.kind = 2 ∧
    f mwaitX 356 156 = 0 ∧ f mwaitX 320 3 < 6 ∧ (s 5).engineSees 0 0 0x30000 0x30000 ∧ f mwaitX 128 64 = 0x30000 ∧
    f mwaitX 192 64 ≤ (s 5).mem.nat 0x30000 4 ∧ (s 4).mem.nat 0x30000 4 < f mwaitX 192 64 ∧ f mwaitX 324 32 ≠ 0 ∧
    1024 * f mwaitX 324 32 ≤ ({ mwaitX with since := 1024 } : ChainRec).since ∧
    ¬ (1024 * f mwaitX 324 32 ≤ ({ mwaitX with since := 1023 } : ChainRec).since) ∧ mwaitX.begun = false ∧
    ({ mwaitX with begun := true } : ChainRec).next = 0 ∧ (s 5).aheadDie 0 0x30000 (128 - 0x30000 % 128) = false ∧
    ({ s 5 with ahead := [⟨k0, 0x30000, 4, .dev, ⟨0, 0, 0⟩, [0]⟩] } : State).aheadDie 0 0x30000 (128 - 0x30000 % 128) = true := by
  decide +kernel
def msignalX : ChainRec := recX 0 3 [(128, 0x30000), (192, 2 ^ 64 - 1), (256, 1), (258, 1)]
def launchX : ChainRec := recX 0 1 [(128, 0x40000)]
/-- The record of lrec0's launch, as memory holds it. -/
def lrecRaw : Nat :=
  4096 * 2 ^ 64 + 5 * 2 ^ 128 + 2 * 2 ^ 272 + 1 * 2 ^ 304 + 3 * 2 ^ 342 + 8 * 2 ^ 344 + 16 * 2 ^ 351 + 8 * 2 ^ 357
    + 2 * 2 ^ 363 + 4 * 2 ^ 400 + 7 * 2 ^ 608 + 0x2000 * 2 ^ 640
theorem witness_CommandProcessor_others :
    let s := withRec launchX (holding [(0x40000, 128, lrecRaw)] dev)
    s.noAtoms ∧ (dev.die 0).ctxs.map (·.valid) = [true] ∧ (⟨0, false, 0, 0, 0, 0, 0, 0, 0, 0⟩ : CtxDesc).valid = false ∧ lrec0.prtn = 0 ∧
    msignalX.kind = 3 ∧ f msignalX 259 253 = 0 ∧ f msignalX 256 2 = 1 ∧ f msignalX 128 64 % 8 = 0 ∧ launchX.kind = 1 ∧
    launchX.launch = none ∧ f launchX 192 320 = 0 ∧ f launchX 128 64 % 128 = 0 ∧ s.engineSees 0 0 0x40000 0x40000 ∧ s.memOk ∧
    (∀ d, s.keepsCtx d 0) ∧ s.recs.length ≤ 64 ∧ launchRec (s.mem.nat 0x40000 128) = lrec0 ∧
    launchCode (s.mem.nat 0x40000 128) (some 0) = none := by decide +kernel

/-- A descriptor at 0x50000 whose slots stand at the states given. -/
def structure' (sst0 sst1 gen0 : Nat) : List (Nat × Nat × Nat) :=
  [(0x50040, 8, sst0 * 2 ^ 8 + gen0 * 2 ^ 16), (0x50060, 8, sst1 * 2 ^ 8)]
def treeRec (eng kind : Nat) (xs : List (Nat × Nat)) : ChainRec := recX eng kind ((128, 0x50000) :: xs)
def onTree (r : ChainRec) (sst0 sst1 gen0 : Nat) : State := withRec r (holding (structure' sst0 sst1 gen0) dev)
def switchX : ChainRec := treeRec 1 3 []
def reclaimX : ChainRec := treeRec 2 1 [(192, 9)]
def skimX : ChainRec := treeRec 1 2 [(192, 0x60000)]
def buildX : ChainRec := treeRec 1 1 [(192, 0x70000), (256, 0x80000), (320, 0x90000), (384, 2 ^ 24), (416, 1)]
theorem witness_TreeEngines :
    let s := onTree switchX 2 2 0
    let d := s.mem.nat 0x50000 128
    s.memOk ∧ s.rec? chain1 = some switchX ∧ switchX.status = none ∧ s.hasTurn switchX = true ∧ s.noAtoms ∧ f switchX 128 64 = 0x50000 ∧
    s.engineSees 0 0 0x50000 0x50000 ∧ s.engineSees 0 0 0x50040 0x50040 ∧ s.engineSees 0 0 0x50060 0x50060 ∧
    switchX.eng = 1 ∧ switchX.kind = 3 ∧ f switchX 192 1 = 0 ∧ f switchX 193 319 = 0 ∧ bitsOf d 520 8 = 2 := by decide +kernel
theorem witness_TreeEngines_scraper :
    let s := onTree reclaimX 3 2 9
    let t := withRec reclaimX (holding [(0x50044, 4, 1)] s)
    let d (s : State) := s.mem.nat 0x50000 128
    reclaimX.eng = 2 ∧ reclaimX.kind = 1 ∧ f reclaimX 208 1 = 0 ∧ f reclaimX 210 302 = 0 ∧ bitsOf (d s) 520 8 = 3 ∧
    bitsOf (d s) 528 16 = f reclaimX 192 16 ∧ bitsOf (d s) 512 64 / 2 ^ 32 = 0 ∧ f reclaimX 209 1 = 0 ∧
    bitsOf (d t) 512 64 / 2 ^ 32 ≠ 0 ∧ t.deferredRecs 0 < 16 ∧ s.hasTurn reclaimX = true := by decide +kernel
theorem witness_TreeEngines_trowel :
    let s := onTree skimX 2 2 0
    let b := onTree buildX 0 2 0
    skimX.kind = 2 ∧ f skimX 256 1 = 0 ∧ f skimX 257 255 = 0 ∧ f skimX 192 64 % 8 = 0 ∧ bitsOf (s.mem.nat 0x50000 128) 520 8 = 2 ∧
    s.engineSees 0 0 0x60000 0x60000 ∧ buildX.kind = 1 ∧ f buildX 448 1 = 0 ∧ f buildX 451 61 = 0 ∧ f buildX 192 64 % 8 = 0 ∧
    f buildX 256 64 % 128 = 0 ∧ 0 < f buildX 384 32 ∧ f buildX 384 32 ≤ 2 ^ 24 ∧ f buildX 320 64 % 1024 = 0 ∧
    bitsOf (b.mem.nat 0x50000 128) 520 8 = 0 ∧ b.engineSees 0 0 0x80000 0x80000 := by decide +kernel
/-- Keys as a BUILD reads them: a malformed one ends it; a single patch gives a tree of its root alone. -/
theorem witness_TreeEngines_fails : (match gatherKeys chain1 (holding [(0x70000, 8, 2 ^ 30)] (onTree buildX 1 2 0)) false
    { buildX.build with nkey := 1 } with
    | .ok (.error st) _ => st
    | _ => 0) = 8 := by decide +kernel
theorem witness_TreeEngines_build : (match gatherKeys chain1 (holding [(0x90019, 2, 0x101)] (onTree buildX 1 2 0)) false
    { buildX.build with nkey := 1 } with
    | .ok (.ok ks) _ => (buildTree 1 ks).length
    | _ => 0) = 1 := by decide +kernel
/-- A node whose three writes are under way, and one node still to be written before its parent. -/
theorem witness_TreeEngines_writes :
    let r : ChainRec := { skimX with stage := 1, acc := [0, 9], writes := [⟨0x8007C, 4, 5⟩] }
    let b : ChainRec := { buildX with stage := 5, todo := [(0, [(3, 7), (0, 9)])], acc := [0, 4] }
    (onTree r 2 2 0).hasTurn r = true ∧ r.eng = 1 ∧ r.kind = 2 ∧ r.writes = ⟨0x8007C, 4, 5⟩ :: [] ∧
    (onTree b 1 2 0).hasTurn b = true ∧ f b 449 1 = 0 ∧ b.todo = [(0, (3, 7) :: [(0, 9)])] ∧
    (onTree b 1 2 0).engineSees 0 0 (f b 256 64 + 128 * 3) 0x80180 ∧ 0x80180 % 128 = 0 ∧ buildX.writes = [] ∧
    f { skimX with stage := 1, acc := [0, 9] } 192 64 = 0x60000 ∧ ({ skimX with stage := 1, acc := [0, 9] } : ChainRec).next = 0 := by
  decide +kernel
/-- The last child of the root, whose node the other die's instance writes; the largest BUILD of one instance alone, and one of
both while that of die 1 is free and while it serves another record. -/
theorem witness_TreeEngines_shared :
    let b : ChainRec := { buildX with stage := 5, todo := [(15, [(3, 7)])], acc := [0, 4] }
    let big : ChainRec := { treeRec 1 1 [(384, 65536)] with stage := 4 }
    let far : ChainRec := { treeRec 1 3 [] with c := ⟨1, 0, 2⟩ }
    let s : State := { dev with recs := [big] }
    (onTree b 1 2 0).engineSees (if (15 : Nat) < 8 then 0 else otherDie 0) 0 (f b 256 64 + 128 * 3) 0x80180 ∧
    f (treeRec 1 1 [(384, 65535)]) 384 32 < 65536 ∧ ¬ f big 384 32 < 65536 ∧ s.partnerBusy chain1 0 = false ∧
    ({ s with recs := [big, far] } : State).partnerBusy chain1 0 = true := by decide +kernel
theorem witness_TreeEngines_publish :
    let s := onTree { buildX with stage := 5, todo := [], acc := [0, 1] } 1 2 0
    s.recs.map (·.todo) = [[]] ∧ f buildX 449 1 = 0 ∧ f buildX 450 1 = 0 ∧ bitsOf (s.mem.nat 0x50000 128) 520 8 = 1 ∧ f buildX 416 32 = 1 ∧
    s.engineSees 0 0 0x50048 0x50048 ∧ s.engineSees 0 0 0x50050 0x50050 := by decide +kernel
theorem witness_TreeEngines_later :
    let s := onTree { buildX with stage := 1, todo := [(7, [])], acc := [0] } 1 2 0
    let b := onTree { buildX with stage := 2, acc := [18] } 1 2 0
    ({ buildX with stage := 5, todo := [(9, []), (0, [(1, 0)])] } : ChainRec).todo = (9, []) :: [(0, [(1, 0)])] ∧
    ({ buildX with stage := 1, todo := [] } : ChainRec).todo = [] ∧ (7 : Nat) < 8 ∧
    s.hasTurn { buildX with stage := 1, todo := [(7, [])], acc := [0] } = true ∧ f buildX 256 64 % 128 = 0 ∧ 0x80000 % 128 = 0 ∧
    s.engineSees 0 0 0x80000 0x80000 ∧ b.recs.map (·.acc) = [18 :: []] := by decide +kernel

/-! Teams, barriers, spawned groups -/

/-- Die 0 owns cluster 0, die 1 clusters 1 and 2; core 0 of die 0 asked a cycle ago, for an own take or a steal. -/
def ticketed (t0 t1 : Tickets) : State :=
  { dev with teams := [], launches := [{ launch1 with t0, t1 }], dies := mapVec (fun d => { d with clock := 1 }) dev.dies }
def placedG : Group := { (launch1.group k0 5 1 0 [] 0 0 0) with run := .placed }
theorem witness_TicketsAndTeams :
    let own : Tickets := ⟨0, 1, none, none, [⟨k0, 0⟩]⟩
    let s := ticketed own ⟨1, 3, none, none, []⟩
    (s.launch? 1).map (fun l => (l.key, l.range 0)) = some (1, own) ∧ lrec0.cw = 0 ∧ s.spawnFirst k0 = false ∧
    own.took ≠ some (s.die 0).clock ∧ s.nextAsk own 0 true = some k0 ∧
    (s.launch? 1).map (fun l => s.offers l 0) = some true ∧ s.canHold k0 lrec0 = true ∧ own.low < own.high ∧
    ({ own with low := 1 } : Tickets).high ≤ ({ own with low := 1 } : Tickets).low := by decide +kernel
theorem witness_TicketsAndTeams_steal :
    let far : Tickets := ⟨1, 3, some 1, none, [⟨k0, 0⟩]⟩
    let t := ticketed ⟨1, 1, none, none, []⟩ far
    far.stole ≠ some (t.die 1).clock ∧ far.took = some (t.die 1).clock ∧ t.nextAsk far 1 false = some k0 ∧
    t.nextAsk { far with took := none } 1 true = none ∧ t.spawnFirst k0 = false ∧
    (t.launch? 1).map (fun l => t.offers l 0) = some true ∧ t.canHold k0 lrec0 = true ∧ far.low < far.high ∧
    lrec0.nostl = false := by decide +kernel
theorem witness_TicketsAndTeams_start : let s : State := { dev with rest := [placedG] }
    launch1.phase = .running ∧ launch1.pre = none ∧ lrec0.coop = false ∧ (s.die 0).start ≠ some (s.die 0).clock ∧
    launch1.started.get 0 = none ∧ launch1.startedOn.contains placedG.coreRef = false ∧ placedG.launch = 1 ∧ placedG.die = 0 ∧ placedG.run = .placed ∧ placedG.spawned = false ∧
    placedG.clusterid.toNat = 0 := by decide +kernel

def bar3 : BarRef := .team k0 1 3
def arrival (count : Option Nat) : Arrival := ⟨r0, 0, 0, count⟩
def barClock (n : Nat) (s : State) : State := { s with dies := mapVec (fun d => { d with clock := n }) s.dies }
def barred (b : Barrier) (r : Run) : State := withRun r { dev with bars := [b] }
def seat0 : GroupRef × Nat := (r0, 1)
/-- The first of two arrivals, and the second after a first that came before a restore; a phase that is over. -/
theorem witness_BarriersAndRetirement :
    let s := barred ⟨bar3, 0, none, [], 0, 0, [arrival (some 2)], []⟩ .ready
    let t := barred ⟨bar3, 0, some 2, [], 1, 0, [arrival none], []⟩ .ready
    let w := barred ⟨bar3, 1, none, [], 0, 0, [], []⟩ (.waiting c0 (.barrier bar3 0 true 0))
    s.here r0 ∧ (s.bar bar3).sent = [arrival (some 2)] ∧ s.seatOf r0 = seat0 ∧ s.seatOf (arrival none).g ∉ (s.bar bar3).here ∧
    s.released (arrival (some 2)) = true ∧ (s.bar bar3).here = [] ∧ (s.bar bar3).past = 0 ∧ (s.bar bar3).count = none ∧
    (s.bar bar3).here.length + (s.bar bar3).past < 2 ∧ (s.bar bar3).here.length + 1 + (s.bar bar3).past < 2 ∧
    (t.bar bar3).past ≠ 0 ∧ (t.bar bar3).count = some 2 ∧ ¬ ((t.bar bar3).here.length + 1 + (t.bar bar3).past < 2) ∧
    (arrival none).cycle < ((barClock 1 s).die 0).clock ∧
    w.rest = [] ∧ w.meets bar3 = [w.g] ∧ w.phaseOver bar3 0 = true := by decide +kernel
/-- Without an explicit count: another group of the team has not arrived; it has exited, a cycle ago and in this one. -/
theorem witness_BarriersAndRetirement_missing :
    let s (run : Run) (left : Nat) : State := barClock 5 { barred ⟨bar3, 0, none, [], 0, 0, [arrival none], []⟩ .ready with
      rest := [{ dev.g with slot := 1, run, leftAt := left }] }
    let missing (s : State) : Bool := (s.meets bar3).any fun g => g.seat != seat0 && !(s.bar bar3).here.contains g.seat &&
      (!g.hasExited || decide ((s.die 0).clock - 1 < g.leftAt))
    (s .ready 0).seatOf r0 = seat0 ∧ missing (s .ready 0) = true ∧ missing (s .exiting 5) = true ∧ missing (s .exiting 4) = false ∧
    (s .ready 0).released (arrival none) = true ∧ (arrival none).cycle < ((s .ready 0).die 0).clock := by decide +kernel
/-- An exiting group whose stores are drained, and one whose arrival has not been counted. -/
theorem witness_BarriersAndRetirement_retires :
    let ex := withRun .exiting dev
    let early := barred ⟨bar3, 0, none, [], 0, 0, [arrival none], []⟩ .exiting
    ex.here r0 ∧ ex.g.run = .exiting ∧ ex.g.fifo = [] ∧ (∀ k ∈ (ex.core ex.g.coreRef).cmds, k.g = r0 → k.launch ≠ ex.g.launch) ∧
    (∀ x ∈ ex.bars, ∀ a ∈ x.sent, a.g ≠ r0) ∧ early.g.run = .exiting ∧ (∃ x ∈ early.bars, ∃ a ∈ x.sent, a.g = r0) := by
  decide +kernel

def spawnRec (entry : Word64) : SpawnRec := ⟨entry, List.replicate 14 7⟩
def withBin (timer : Nat) (formed : Bool) (s : State) : State := withDie (fun d =>
  let b : Bin := ⟨0, 1, 64, List.replicate 32 (spawnRec 64), timer⟩
  if formed then { d with formed := [b] } else { d with bins := [b] }) s
/-- SPT is 4: a timer at 4 and at 3; a formed bin of 32 records that core 0 can take. -/
theorem witness_SpawnedGroups :
    let s : State := { dev with g := { dev.g with spawnq := [spawnRec 64], launch := 1 } }
    let t := withBin 0 true dev
    (s.launch? 1).map (·.key) = some 1 ∧ (∀ m ∈ s.launches, ∀ d, m.spill.get d = (0, 0)) ∧ s.here r0 ∧ s.g.spawnq = [spawnRec 64] ∧
    s.g.log = [] ∧ s.g.fifo = [] ∧ (s.core s.g.coreRef).path = [] ∧ (s.die 0).bins = [] ∧ (s.die 0).formed = [] ∧
    lrec0.spt ≤ 4 ∧ 3 < lrec0.spt ∧ ((withBin 4 false dev).die 0).bins.map (·.timer) = [4] ∧
    (t.placeable 0).map (fun x => (x.1.recs.length, x.2.1.key, x.2.2)) = some (32, 1, (1, false)) ∧
    (t.die 0).start ≠ some (t.die 0).clock ∧ (t.freeSlots ⟨0, 1⟩).isEmpty = false ∧ s.g.fences = [] ∧
    (∀ g ∈ t.groups, g.spawned = true → g.die = 0 → g.run ≠ .placed) := by decide +kernel

/-- A record that arrived after another group's waits. -/
theorem witness_SpawnedGroups_waits :
    let h : Group := { dev.g with slot := 7, spawnq := [spawnRec 64], spawnAt := some 1 }
    let s : State := { dev with g := { dev.g with spawnq := [spawnRec 64], spawnAt := some 2 }, rest := [h] }
    s.g.spawnAt = some 2 ∧ h ∈ s.rest ∧ h.active = true ∧ h.die = s.g.die ∧ h.spawnq ≠ [] ∧ (∀ m ∈ h.spawnAt, m < 2) ∧
    h.spawnAt ≠ none ∧ s.g.fences = [] ∧ dev.forced 1 = false ∧ dev.rest = [] := by decide +kernel

/-! Engines of a core -/

def cmdX (eng : Eng) (i : Instr) (ext : List Word64) : Cmd :=
  { tag := 4, g := r0, launch := 1, team := 1, ctx := 0, eng, instr := i, ext, fmt := 0x33, pred := none, seq := 0, marks := []
    cap := [], phase := .waiting, cancel := false, recs := [], done := [] }
def withCmds (xs : List Cmd) (s : State) : State := s.modCore k0 fun k => { k with cmds := xs }
def moving (so n d : Word64) : State := withCmds [cmdX .copy (.copyXs xsX) [so, n, d]] dev
def copying (x : CopyArgs) (lay box : Nat) : State :=
  holding [(0x1000, 64, lay), (0x1040, 32, box)] (withCmds [cmdX .copy (.copyIn x) [0x1000, 0x1040, 0]] dev)
/-- A layout of one dimension of 8 elements of 32 bits, and the box that is all of it. -/
def layX : Nat := 8 * 2 ^ 256 + 2 ^ 432 + 6 * 2 ^ 440 + 0x2000 * 2 ^ 448
/-- A copy that ends where the window ends, and one a byte further. -/
theorem witness_CopyEngine :
    let s := moving 0x3FFE0 32 0x3FFE0
    let x := cmdX .copy (.copyXs xsX) [0x3FFE0, 32, 0x3FFE0]
    s.cmd? k0 4 = some x ∧ x.eng = .copy ∧ x.phase = .waiting ∧ s.cmdReady k0 x = true ∧ (s.core k0).isNext .copy 4 = true ∧
    (s.core k0).copying < 4 ∧ 0x3FFE0 + 32 ≤ s.sizeOf 1 (spaceOf xsX.src) ∧ 0x3FFE0 + 32 ≤ s.sizeOf 1 (spaceOf xsX.dst) ∧
    s.sizeOf 1 (spaceOf xsX.src) < 0x3FFE0 + 64 ∧ ({ x with cancel := true } : Cmd).cancel = true ∧
    (s.team? 1).map (·.errs) = some [] ∧ xsX.src ≠ xsX.dst ∧ (s.windowOf 1 .w).wf = true := by decide +kernel
theorem witness_CopyEngine_records :
    let s := copying copyX layX (8 * 2 ^ 160)
    (match copyPlan (s.mem.nat 0x1000 64) (s.mem.nat 0x1040 32) with
      | some p => decide (0 % p.es = 0 ∧ 0 + p.bytes = 32 ∧ 0 + p.bytes ≤ s.sizeOf 1 .a)
      | none => false) = true ∧
    s.coreSees k0 0 0x1000 0x1000 ∧ s.coreSees k0 0 0x1040 0x1040 := by decide +kernel

def jobX (kb : Nat) : Job := { tag := 4, kb, acc := List.replicate 16384 0, acc2 := [], ends := 0, stop := false, old := none }
def matrixCmd (n : Word64) : Cmd := cmdX .matrix (.mma mmaX) [0x3F000, 0x3F000, n]
def onMatrix (x : Cmd) (j : Option Job) (e : Option EpiJob) : State :=
  (withCmds [x] dev).modCore k0 fun k => { k with mx := { k.mx with job := j, epi := e } }
/-- One K-block whose last byte is the window's last, in a C-store that ends too early and in one that does not. -/
theorem witness_MatrixEngine :
    let x : Cmd := { matrixCmd 1 with instr := .mma { mmaX with ct := 1 }, ext := [0x3C000, 0x3C000, 1] }
    let s := onMatrix x none none
    (∀ w ∈ s.team? 1, w.errs = []) ∧ (s.core k0).mx.errs = [] ∧
    s.cmd? k0 4 = some x ∧ x.eng = .matrix ∧ x.phase = .waiting ∧ s.cmdReady k0 x = true ∧ (s.core k0).isNext .matrix 4 = true ∧
    (s.core k0).mx.job = none ∧ (s.core k0).mx.halted = [] ∧ 0x3C000 + 1 * strideA x.fmt ≤ s.sizeOf 1 .a ∧
    0x3C000 + 1 * strideB x.fmt false ≤ s.sizeOf 1 .w ∧ 65536 * 1 + 65536 ≤ s.sizeOf 1 .c ∧
    s.sizeOf 1 .c < 65536 * 2 + 65536 := by decide +kernel
theorem witness_MatrixEngine_job :
    let s := onMatrix (matrixCmd 1) (some (jobX 0)) none
    let t := onMatrix (matrixCmd 1) (some (jobX 1)) none
    (s.core k0).mx.job.map (fun j => (j.tag, j.kb, j.stop)) = some (4, 0, false) ∧ 0 < (1 : Word64).toNat ∧
    (t.core k0).mx.job.map (·.kb) = some 1 ∧ (1 : Word64).toNat ≤ 1 ∧ (jobX 1).acc.length = 16384 ∧
    (t.team? 1).isSome = true ∧ (t.windowOf 1 .c).wf = true := by decide +kernel
/-- MMA with all its blocks summed, which has only its write left, and the command behind it; one with a block to go; an end
while an earlier write is still to come. -/
theorem witness_MatrixEngine_overlap :
    let x : Cmd := { matrixCmd 1 with tag := 5, instr := .mma { mmaX with ct := 1 }, ext := [0x3C000, 0x3C000, 1] }
    let on (j : Job) (o : Option Job) : State := (withCmds [{ matrixCmd 1 with phase := .started }, x] dev).modCore k0 fun k =>
      { k with mx := { k.mx with job := some j, out := o } }
    let s := on (jobX 1) none
    s.lastWrite k0 (jobX 1) = true ∧ s.lastWrite k0 (jobX 0) = false ∧ s.cmdReady k0 x = true ∧ (s.core k0).mx.out = none ∧
    (s.core k0).isNext .matrix 5 = true ∧ ((on (jobX 0) (some { jobX 1 with tag := 3 })).core k0).mx.out ≠ none := by
  decide +kernel
def mldtX : MldtArgs := ⟨c0, .al, none, 0, 5, .s 10⟩
theorem witness_MatrixEngine_load :
    let x := cmdX .matrix (.mldt mldtX) [0]
    let s := onMatrix x (some (jobX 0)) none
    (s.core k0).mx.job.map (·.tag) = some x.tag ∧ (s.core k0).mx.out.isNone = true ∧ ((s.core k0).mx.tt 0).wf = true ∧
    loadTaper (s.windowOf 1 .w) (fmtTN x.fmt) (x.op 0) = none := by decide +kernel
def epiX : EpiArgs := ⟨c0, .al, 1, none, 7, .s 13⟩
theorem witness_MatrixEngine_epilogue :
    let x := cmdX .epilogue (.epi epiX) [0x7F00]
    let s := onMatrix x none none
    let t := onMatrix x none (some ⟨4, 0, 128, 0⟩)
    s.cmd? k0 4 = some x ∧ s.cmdReady k0 x = true ∧ (s.core k0).isNext .epilogue 4 = true ∧ (s.core k0).mx.epi = none ∧
    (match s.epiCheck x 1 with
      | .ok pb => pb == 0
      | .error _ => false) = true ∧ (t.core k0).mx.epi = some ⟨4, 0, 128, 0⟩ ∧ bitsOf 0 6 1 = 0 ∧
    (t.windowOf 1 .l).wf = true := by decide +kernel

/-- AMAX of a block whose update's page the pager must map first. -/
theorem witness_MatrixEngine_waits :
    let x := cmdX .epilogue (.epi epiX) [0x7F00]
    let pb : Nat := 2 ^ 6 + 2 ^ 40 * 2 ^ 256
    let t := onMatrix x none (some ⟨4, pb, 128, 0⟩)
    bitsOf pb 6 1 = 1 ∧ (match turnVia (viaCmd k0 x) 0 0 (some 0) t (bitsOf pb 256 64) 4 true with
      | .wait _ => true
      | _ => false) = true := by decide +kernel

/-! Lantern: a structure whose descriptor stands at 0x50000, with nodes at 0x60000 -/

def rayX (cont : Cont) (begun : Bool) (raw : Nat) : RayLane :=
  { tag := 4, trace := 4, g := r0, launch := 1, team := 1, ctx := 0, lane := 31, addr := 0xF80, hit := 123, table := 0x40000
    begun, state := .running, held := false, code := 0, rec' := raw, cont, node := none, part := [], top := none, bot := none
    counts := [], obj := none, poll := 0 }
/-- Direction z, TMIN 0 and TMAX infinite, structure 1. -/
def rayRec : Nat := 0x3F800000 * 2 ^ 160 + 0x7F800000 * 2 ^ 224 + 2 ^ 288
def tracing (ys : List RayLane) (phase : CmdPhase) : State :=
  ((withCmds [{ cmdX .lantern (.trace traceX) [0, 0x40000] with phase }] dev).modCore k0 fun k => { k with rays := ys })
def structured : List (Nat × Nat × Nat) := [(0x40008, 8, 0x50000), (0x50060, 8, 2 * 2 ^ 8 + 2 ^ 16), (0x50000, 1, 1)]
theorem witness_LanternSteps :
    let y := rayX .start false rayRec
    let s := holding structured (tracing [y] .started)
    let d := s.mem.nat 0x50000 128
    s.memOk ∧ s.ray? k0 4 31 = some y ∧ (s.cmd? k0 4).map (fun x => (x.cancel, x.phase)) = some (false, .started) ∧
    s.preempting 1 = false ∧ rayOk rayRec = true ∧ (rayExt (rayWord rayRec 6)).le (rayExt (rayWord rayRec 7)) = true ∧
    (∀ z ∈ (s.core k0).rays, z.held = false ∧ z.counts = []) ∧ 0x40000 % 8 = 0 ∧ rayWord rayRec 9 = 1 ∧
    s.coreSees k0 0 0x40008 0x40008 ∧ s.mem.nat 0x40008 8 = 0x50000 ∧ 0x50000 % 128 = 0 ∧ s.coreSees k0 0 0x50000 0x50000 ∧
    bitsOf d 0 1 = 1 ∧ bitsOf d (520 + 256 * 1) 8 = 2 ∧ bitsOf d (544 + 256 * 1) 32 + 1 < 2 ^ 32 ∧
    s.coreSees k0 0 0x50060 0x50060 ∧ s.ahead = [] ∧ s.noAtoms := by decide +kernel
def heldRec : Nat := 2 ^ 908 + 2 * 2 ^ 924
theorem witness_LanternSteps_resume :
    let y := rayX (.resume .fin none 0) false 0
    let z : RayLane := { rayX .loop true heldRec with tag := 3, state := .suspended, held := true }
    let w : Team := { team1 with l := Mem.setNat [] 0xF80 128 heldRec }
    let s : State := { tracing [z, y] .started with teams := [w] }
    s.memOk ∧ s.ray? k0 4 31 = some y ∧ z ∈ (s.core k0).rays ∧ z.held = true ∧ z.team = y.team ∧ z.addr = y.addr ∧
    (∀ q ∈ (s.core k0).rays, q ≠ z → q.held = false) ∧ z.counts = [] ∧ z.tag ≠ y.tag ∧ s.team? 1 = some w ∧ w.l.wf = true ∧ w.errs = [] ∧
    validSuspended (w.l.nat y.addr 128) = true := by decide +kernel
def refX : StructRef := { desc := 0x50000, slot := 1, inst := false, nodea := 0x60000, prima := 0x90000, nnode := 4, nprim := 4, gen := 1 }
/-- A node of generation 1 whose SEQ is even; its child 7 fenced. -/
def nodeX : Nat := 2 ^ 895 + 2 ^ 896
theorem witness_LanternSteps_nodes :
    let y : RayLane := { rayX (.visit 3 1 7) true rayRec with top := some refX }
    let p : RayLane := { rayX (.resolve false) true (rayRec + 2 ^ 951) with top := some refX }
    let s := holding [(0x60180, 128, nodeX), (0x60000, 128, nodeX)] (tracing [y] .started)
    bitsOf y.rec' 912 1 = 0 ∧ 3 < refX.nnode ∧ refX.nodea % 128 = 0 ∧ s.coreSees k0 0 (refX.nodea + 128 * 3) 0x60180 ∧
    bitsOf (s.mem.nat 0x60180 128) 992 32 % 2 = 0 ∧ bitsOf (s.mem.nat 0x60180 128) 896 16 = refX.gen ∧
    nodeOk (s.mem.nat 0x60180 128) = true ∧ s.ahead = [] ∧ p.poll = 0 ∧ s.coreSees k0 0 0x60000 0x60000 ∧
    bitsOf (s.mem.nat 0x60000 128) 888 8 &&& bitsOf p.rec' 944 8 ≠ 0 := by decide +kernel
/-- A stack of eight entries whose top one is of depth 31. -/
def fullStack : Nat := 8 * 2 ^ 904 + (3 * 2 ^ 8 + 7 * 2 ^ 5 + 31) * 2 ^ 704
theorem witness_LanternSteps_stack :
    let sp := bitsOf fullStack 904 4
    0 < sp ∧ sp ≤ 8 ∧ bitsOf fullStack (936 + (sp - 1)) 1 = 0 ∧ 0 < bitsOf fullStack (480 + 32 * (sp - 1)) 32 % 32 ∧
    bitsOf fullStack 912 1 = 0 := by decide +kernel
theorem witness_LanternSteps_ends :
    let d : RayLane := { rayX .loop true rayRec with state := .done }
    let s := tracing [d, { d with lane := 1, state := .suspended }] .started
    let t := tracing [d, { d with lane := 0, state := .cancelled }] .started
    (∀ q ∈ (s.core k0).rays, q.tag = 4 → q.begun = true ∧ q.state ≠ .running ∧ q.state ≠ .switched) ∧
    (∀ q ∈ (t.core k0).rays, q.tag = 4 → q.begun = true ∧ q.state ≠ .running ∧ q.state ≠ .switched) ∧
    (s.cmd? k0 4).map (fun x => (x.eng, x.phase, x.cancel)) = some (.lantern, .started, false) := by decide +kernel

/-! Wickline and collectives -/

def flitX (cls : Fin 4) : Flit := ⟨some chain1, cls, 9, 5, 11, .ack 0⟩
def locked (s : State) : State := { s with locked := true, lost := false }
theorem witness_WicklineFlits :
    let s := locked (withDie (fun d => { d with flits := [flitX 1, { flitX 2 with port := 0 }] }) dev)
    let d : State := { s with down := [.wickline 0 11] }
    s.memOk ∧ s.locked = true ∧ dev.locked = false ∧ s.lost = false ∧ (∀ x ∈ (s.die 0).flits, x.cls = 3 → x.port ≠ 11) ∧
    s.down.contains (.wickline 0 11) = false ∧ (flitX 1).cls ≠ 3 ∧ (flitX 3).cls = 3 ∧ d.down.contains (.wickline 0 11) = true ∧
    (flitX 1).chain = some chain1 ∧ s.engineSees 0 0 0x3FFFFF80 0x3FFFFF80 ∧ (s.die 0).arrived.any (·.src == 9) = false ∧ s.noAtoms ∧
    s.mustLand 0 1 = [] ∧ s.mustLand 1 1 = [] ∧ (flitX 1).body.payload ≤ 224 ∧ (s.die 0).shared 11 = false ∧
    (s.die 0).turnFor 11 1 = true ∧ (s.die 0).cuts = [] ∧
    s.window.toNat < (0 : Word64).toNat + 2 ∧ (1 : Word64).toNat ≤ s.window.toNat + 1 ∧
    s.window.toNat + 1 < (2 : Word64).toNat ∧ (0 : Word64).toNat + 2 ≤ ({ s with window := 2 } : State).window.toNat := by
  decide +kernel
/-- A write of window 0 that is still to be performed when window 2 begins; one more of the same device stands behind it. -/
theorem witness_WicklineFlits_late :
    let a : Arrived := ⟨0, 9, 0, .write chain1 true 0x80 [1, 2]⟩
    let s : State := { locked (withDie (fun d => { d with arrived := [a], arrivals := 1 }) dev) with window := 1 }
    s.locked = true ∧ a.body = .write chain1 true 0x80 [1, 2] ∧ (s.die 0).arrived = [a] ∧ (∀ e, e ≠ 0 → (s.die e).arrived = []) ∧
    s.noAtoms ∧ s.engineSees 0 0 0x80 0x80 ∧ a.win + 2 ≤ s.window.toNat + 1 ∧ s.mustLand 0 2 = [0] ∧
    (s.die 0).arrived.any (·.src == 9) = true := by decide +kernel
/-- Three classes wait for one port: a class with its turns left, and one that has had them; a flit of 225 bytes; a later line of
a PUT that has been refused; a flit for another device. -/
theorem witness_WicklineFlits_turns :
    let big : FlitBody := .write chain1 true 0 (List.replicate 209 0)
    let s := locked (withDie (fun d => { d with flits := [flitX 0, flitX 1, flitX 2], cuts := [⟨9, chain1, 4⟩] }) dev)
    (s.die 0).shared 11 = true ∧ (∀ k : Fin 3, (s.die 0).turnFor 11 k.castSucc = true) ∧
    ((withDie (fun d => { d with turns := d.turns.set 11 #v[4, 4, 0] }) s).die 0).turnFor 11 2 = false ∧ 224 < big.payload ∧
    (FlitBody.write chain1 true 0 (List.replicate 208 0)).payload ≤ 224 ∧ (s.die 0).cuts = [⟨9, chain1, 4⟩] ∧
    (s.die 0).arrived.any (·.src == 9) = false ∧ (s.lost = true ∨ (flitX 3).cls = 3) ∧ (4095 : BitVec 12) ≠ s.boot.devnum := by
  decide +kernel
/-- PUT of 128 bytes to the last line of a page, from the last of one; FWD and SIGNAL to another device, and to this one. -/
def putX : ChainRec := recX 3 1 [(128, 0x30F80), (192, 0x1F80), (256, 128), (280, 5)]
def fwdX : ChainRec := recX 3 2 [(128, 5), (192, 0x80)]
def signalX : ChainRec := recX 3 3 [(128, 5), (192, 8), (320, 2), (322, 1)]
theorem witness_WicklineFlits_records : let s := withRec putX dev
    s.rec? chain1 = some putX ∧ putX.eng = 3 ∧ putX.status = none ∧ putX.kind = 1 ∧ f putX 292 220 = 0 ∧
    BitVec.ofNat 12 (f putX 280 12) ≠ s.boot.devnum ∧ s.engineSees 0 0 0x30F80 0x30F80 ∧ f putX 128 64 % 4096 + f putX 256 24 ≤ 4096 ∧
    f putX 192 64 % 128 + f putX 256 24 ≤ 128 ∧ 0 < f putX 256 24 ∧ fwdX.kind = 2 ∧ f fwdX 140 52 = 0 ∧ f fwdX 192 64 % 128 = 0 ∧
    BitVec.ofNat 12 (f fwdX 128 12) ≠ s.boot.devnum ∧ signalX.kind = 3 ∧ f signalX 140 52 = 0 ∧ f signalX 323 189 = 0 ∧
    f signalX 320 2 = (2 : Fin 3).val ∧ f signalX 192 64 % 8 = 0 ∧ f signalX 322 1 = 1 ∧
    BitVec.ofNat 12 (f (recX 3 2 []) 128 12) = s.boot.devnum ∧ putX.begun = false ∧ (21 : Byte).toNat ∈ [0, 3, 4, 5, 7, 21] ∧
    ({ putX with begun := true } : ChainRec).acc = [] ∧ (1 : Word64).toNat ≤ s.window.toNat + 1 ∧ s.window.toNat + 1 < (2 : Word64).toNat ∧
    (∀ x ∈ (s.die 0).flits, x.chain ≠ some chain1) := by decide +kernel

def collX (r : ChainRec) (plans : List Plan) (mants : List (Nat × Nat × List Int)) (shares : List (Nat × Nat × List Byte)) : State :=
  { withRec r dev with colls := [⟨1, 2, some chain1, 0, [0], plans, [(0, 0, 9)], mants, shares, none⟩] }
def partX : CollPart := ⟨0, chain1, 0⟩
def planX (kind : BitVec 8) : Plan := ⟨partX, 1, 0, kind, 32, true, [0]⟩
def allreduceX : ChainRec := { recX 3 0x10 [(256, 0x30000), (320, 32), (385, 1)] with begun := true, stage := 2 }
def allgatherX : ChainRec := { recX 3 0x11 [(256, 0x30060), (320, 64), (384, 1)] with begun := true, stage := 1 }
theorem witness_CollectiveSteps :
    let s := collX allreduceX [planX 0x10] [(0, 0, List.replicate 32 1)] []
    let g := collX allgatherX [planX 0x11] [] [(0, 0, List.replicate 32 1)]
    s.memOk ∧ s.rec? chain1 = some allreduceX ∧ allreduceX.eng = 3 ∧ allreduceX.status = none ∧ allreduceX.begun = true ∧
    s.colls.length = 1 ∧ allreduceX.kind = 0x10 ∧ f allreduceX 385 32 = 1 ∧ f allgatherX 384 32 = 1 ∧
    1024 * 1 ≤ ({ allreduceX with since := 1024 } : ChainRec).since ∧ allreduceX.since < 1024 * 1 ∧ allreduceX.stage = 2 ∧
    allreduceX.next = 0 ∧ (planX 0x10).rank = 0 ∧ f allreduceX 320 32 = 32 ∧ f allreduceX 256 64 % 128 = 0 ∧
    s.engineSees 0 0 0x30000 0x30000 ∧ allgatherX.kind = 0x11 ∧ allgatherX.stage = 1 ∧ g.memOk := by decide +kernel
theorem witness_CollectiveSteps_ends :
    let s := collX allreduceX [planX 0x10] [(0, 0, List.replicate 32 1)] []
    let g := collX allgatherX [planX 0x11] [] [(0, 0, List.replicate 32 1)]
    (planX 0x10).part.dev = 0 ∧ (planX 0x10).n = 1 ∧ s.overs = [] ∧ ({ s with overs := [partX] } : State).overs = [partX] ∧
    (1 : Word64).toNat ≤ s.window.toNat + 1 ∧ s.window.toNat + 1 < (2 : Word64).toNat ∧
    g.colls.map (fun x => (x.devs, x.agreed)) = [([0], some true)] ∧ f allgatherX 320 32 % 32 = 0 ∧
    0 = allgatherX.next / (f allgatherX 320 32 / 32) ∧ (f allgatherX 256 64 + 32 * allgatherX.next) % 128 = 96 ∧
    g.engineSees 0 0 0x30060 0x30060 ∧ allgatherX.next + 1 < f allgatherX 320 32 / 32 * 1 := by decide +kernel

/-! The host and the management controllers -/

theorem witness_HostAccesses :
    let s := dev.dirtyLine 0 (2 ^ 44)
    s.memOk ∧ s.row (186 * gib - 1) ≠ .nothing ∧ s.row (186 * gib) = .nothing ∧ s.inDevice 0 = true ∧ s.inDevice (2 ^ 51) = false ∧
    s.row (2 ^ 44 * 128) = .host ∧ s.dirty.any (·.1 == 2 ^ 44) = true ∧ s.row (2 ^ 52 - 1) ≠ .nothing ∧ s.aheadHost 0 1 = false ∧
    ({ s with ahead := [⟨k0, 0, 4, .sys, ⟨0, 0, 0⟩, [0]⟩] } : State).aheadHost 3 1 = true := by decide +kernel
/-- Register values at their ends. -/
theorem witness_HostAccesses_registers :
    (0xFFFFFFFFFF000 : BitVec 64).toNat % 4096 = 0 ∧ (0xFFFFFFFFFF000 : BitVec 64).toNat < 2 ^ 52 ∧
    ¬ (0x10000000000000 : BitVec 64).toNat < 2 ^ 52 ∧ (16 : BitVec 64).toNat ≤ 16 ∧ 16 < (17 : BitVec 64).toNat ∧
    (5 : BitVec 64).toNat < 6 ∧ (0x1040 : BitVec 64).toNat % 64 = 0 ∧ dev.row 0x1040 ≠ .nothing ∧ dev.poison = [] := by decide +kernel

def hostCmd (raw : Option Nat) : HostCmd := ⟨0x1000, raw, 0, false⟩
def commanded (raw : Option Nat) (s : State) : State := withDie (fun d => { d with hcmds := [hostCmd raw] }) s
def command (cmd : Nat) (xs : List (Nat × Nat)) : Nat := fields ((0, cmd) :: xs) - 1
theorem witness_HostCommands :
    let inv := command 4 [(64, 0xFFFFFFFFFFF000), (128, 1)]
    let s := commanded (some inv) dev
    s.memOk ∧ (s.die 0).hcmds = hostCmd (some inv) :: [] ∧ (hostCmd (some inv)).addr = (0x1000 : BitVec 64).toNat ∧
    ((commanded none dev).die 0).hcmds = [hostCmd none] ∧ bitsOf (command 0 []) 0 8 = 0 ∧ 7 < bitsOf (command 8 []) 0 8 ∧
    s.row 0x1000 ≠ .nothing ∧ s.row 0x1001 ≠ .nothing ∧ bitsOf inv 256 256 = 0 ∧ bitsOf inv 16 4 = 0 ∧ bitsOf inv 0 8 = 4 ∧
    bitsOf inv 64 64 % 4096 = 0 ∧ 0 < 4096 * bitsOf inv 128 64 ∧ bitsOf (command 5 []) 0 8 = 5 ∧
    (∀ d : Fin 2, ∀ k : Fin 128, ∀ e ∈ (s.core ⟨d, k⟩).path, e.ctx ≠ 0) ∧ (∀ d, ∀ q ∈ (s.die d).atom, q.ctx ≠ 0) ∧
    (∀ r ∈ s.recs, r.c.ctx = 0 → r.writes = []) ∧ (∀ k, (s.die k).walks.length < 128) ∧ s.poisoned 0x1000 64 = false ∧
    ({ s with poison := [0x1000 / 128] } : State).poisoned 0x1000 64 = true := by
  decide +kernel
theorem witness_HostCommands_chains :
    let x := command 6 [(128, 4095), (192, 2 ^ 64 - 1)]
    let y := command 7 [(128, 1), (192, 1)]
    let s := commanded (some x) dev
    bitsOf x 0 8 = 6 ∧ bitsOf x 128 64 < 4096 ∧ s.engineSees 0 0 (s.ccbVa 0 0 4095) 0x8FF80 ∧ 0x8FF80 % 128 = 0 ∧
    bitsOf y 0 8 = 7 ∧ bitsOf y 192 64 ≤ 1 ∧ s.engineSees 0 0 (s.ccbVa 0 0 1) 0x10080 ∧
    (∀ q ∈ s.recs, ¬ (q.c.ctx = 0 ∧ q.c.ch = 1)) ∧ (∀ q ∈ s.halts, ¬ (q.1.ctx = 0 ∧ q.1.ch = 1)) := by decide +kernel

def withLaunch (l : Launch) (s : State) : State := { s with launches := [l] }
theorem witness_KillsAndPreemption :
    let kill := command 1 [(32, 7)]
    let pre := command 2 [(32, 7), (64, 0x100000), (128, 1024)]
    let s := commanded (some kill) dev
    s.memOk ∧ (s.launches.map (·.key)).Nodup ∧ (s.launch? 1).map (·.key) = some 1 ∧ launch1.kept = none ∧
    bitsOf kill 0 8 = 1 ∧ bitsOf kill 128 64 = 0 ∧ bitsOf (command 1 [(128, 1)]) 128 64 = 1 ∧
    (s.launches.find? fun m => m.ctx == 0 && m.record.lid == 7 && m.held).isSome = true ∧
    (s.launches.find? fun m => m.ctx == 0 && m.record.lid == 8 && m.held).isNone = true ∧ s.recs = [] ∧ s.halts = [] ∧
    (hostCmd (some kill)).begun = false ∧ (∀ m ∈ s.launches, m.kept.isNone = true) ∧ bitsOf pre 0 8 = 2 ∧ bitsOf pre 64 64 % 4096 = 0 ∧ 1024 ≤ bitsOf pre 128 64 ∧
    bitsOf pre 128 64 < 2 ^ 32 ∧ launch1.phase = .running ∧ launch1.pre = none ∧ s.row (bitsOf pre 64 64) ≠ .nothing ∧
    launch1.ctx = 0 ∧ launch1.record.lid = 7 ∧ (∀ m ∈ s.launches, m.key ≠ 1 → ¬ (m.ctx = 0 ∧ m.record.lid = 7)) := by
  decide +kernel
def preX (since : Nat) : Preempt := ⟨0, 0x1000, 0x100000, 1024, since, false, []⟩
def stopped (since : Nat) : State :=
  { dev with launches := [{ launch1 with pre := some (preX since) }], teams := [], g := { dev.g with run := .retired } }
theorem witness_KillsAndPreemption_deadline :
    (preX 1024).dl ≤ (preX 1024).since ∧ (preX 1023).since < (preX 1023).dl ∧ (preX 0).forced = false ∧
    (stopped 0).memOk ∧ launch1.lrec < 2 ^ 64 ∧ (∀ t ∈ (stopped 0).teams, t.launch ≠ 1) ∧
    (∀ m ∈ (stopped 0).launches, ∀ k, m.spill.get k = (0, 0)) ∧
    (∀ k, ((stopped 0).die k).bins = [] ∧ ((stopped 0).die k).formed = []) ∧
    (∀ g ∈ (stopped 0).groups, g.launch = 1 → g.active = false) ∧ (stopped 0).holdsRange 0x100000 256 = true := by
  decide +kernel
/-- A save area without groups of launch 7, as R396 lays its header out. -/
def areaX : List (Nat × Nat × Nat) := [(0x100000, 8, 1), (0x10002C, 4, 7), (0x100040, 8, 256), (0x100048, 8, 256)]
theorem witness_KillsAndPreemption_restore :
    let l : Launch := { launch1 with phase := .saved, kept := some ⟨[], [], [], [], []⟩ }
    let s := withLaunch l (holding areaX dev)
    let total := s.mem.nat 0x100048 8
    let m := s.mem.nat 0x100000 total
    total = 256 ∧ s.holdsRange 0x100000 256 = true ∧ s.poison = [] ∧ bitsOf m 0 8 = 1 ∧ bitsOf m 340 12 = 0 ∧
    (s.desc 0 0).valid = true ∧ (s.launches.find? fun q => q.ctx == 0 && q.record.lid == BitVec.ofNat 32 (bitsOf m 352 32)
      && q.phase == .saved).isSome = true ∧ areaOk m ⟨[], [], [], [], []⟩ [] = true := by decide +kernel

theorem witness_Management :
    let s : State := dev.modCore k0 fun k => { k with idle := 1024, gated := true }
    let i : State := withRun (.waiting c0 (.sleep 3)) s
    dev.memOk ∧ dev.plat.watts = [] ∧ 1000 * dev.boot.plim.toNat < 600001 ∧
    0 < min dev.plat.power.val (min (dev.plat.heat.get 0).val (dev.plat.heat.get 1).val) ∧
    (∀ l ∈ ({ dev with launches := [] } : State).launches, l.held = false) ∧ 1024 ≤ (i.core k0).idle ∧ i.coreIdle k0 = true ∧
    (dev.core k0).idle < 1024 ∧ (s.core k0).gated = true ∧ (∃ g ∈ s.groups, g.coreRef = k0 ∧ g.run = .ready) ∧
    (∃ g ∈ ({ s with rest := [placedG] } : State).groups, g.coreRef = k0 ∧ g.run = .placed) ∧
    dev.inReset = false ∧ dev.plat.trip = false ∧ (∀ d, dev.plat.hold.get d ≠ some .heat) ∧ dev.dirty = [] := by decide +kernel
/-- BOOTCFG words: one that passes its check where its R443 needs no more than 256, one that fails it, one of another device number. -/
theorem witness_Management_boot (h : Config.leastWlu 0 ≤ 256) :
    let good : Nat := 256 * 2 ^ 23 + 600 * 2 ^ 11
    bootOk (bootCfg good) = true ∧ bootOk (bootCfg (good + 1)) = false ∧
    (bootCfg (good + 2 ^ 40)).devnum ≠ (bootCfg good).devnum ∧ (bootCfg (good + 2 ^ 40)).ipart = (bootCfg good).ipart := by
  refine ⟨?_, ?_, by decide, by decide⟩
  · simp [bootOk, bootCfg, bitsOf]; exact h
  · simp [bootOk, bootCfg, bitsOf]

/-! Words and memory -/

def wordsX : List Instr := [.sadd sintX, .br ⟨c0, .al, .s 0, 0x3FFFFFFF⟩, .vfma ⟨c96, g0, .f32, .rdn, 7, .v 1, .v 2, .lit32⟩,
  .mma mmaExt, .skipCode 0]
theorem witness_EncodedWordsDecode : wordsX.all (fun i => i.isWord && i.wf 32) = true := by decide +kernel
theorem witness_ScalarWordsDecode : (Instr.sadd sintX).word.toNat % 4 ≠ 3 ∧ (Instr.sadd sintX).word.toNat / 2 ^ 11 % 8 ≤ 1 ∧
    (Instr.br ⟨c0, .al, .s 0, 0x3FFFFFFF⟩).word.toNat / 2 ^ 11 % 8 ≤ 1 := by decide +kernel
theorem witness_DecodedWordsEncode : decode 128 0x000003661E240010 0 =
    .ok (.sadd ⟨cSw, .al, .s64, false, 9, .s 7, .small 1⟩) := rfl
theorem witness_StepsKeepMemory : (placed 0x000003661E240010).memOk := by decide +kernel

end Sys2Proof.Tests
end

section
/-! PROOF. The check of VER comes before the opcode (R17). -/

namespace Sys2Proof

/-- VER is judged before the opcode (R17). -/
theorem decode_badVersion (vl : Nat) (w hi : BitVec 64) (hlen : w.extractLsb' 0 2 ≠ 3#2)
    (hver : w.extractLsb' 2 2 ≠ 0#2) : decode vl w hi = .error .badVersion := by
  have hv : ((Fields.split w).ver != 0#2) = true := bne_iff_ne.mpr hver
  have hl : (Fields.split w).len.toNat ≠ 3 := fun h => hlen (BitVec.eq_of_toNat_eq h)
  have hlt := (Fields.split w).len.isLt
  unfold decode
  match h : (Fields.split w).len.toNat with
  | 0 | 1 | 2 => simp only [h, hv, if_true]
  | 3 => exact absurd h hl
  | n + 4 => omega

namespace Machine

/-- A word that decoding rejects issues as an illegal instruction, with the sub-cause of the reason. -/
theorem State.examine_reject {s : State} {w : Word64} {hi : Word64} {r : Reject} (h : decode s.g.valloc w hi = .error r)
    (live : Option LiveWord) (place : Option TrapReq) :
    s.examine w hi live place = .run (.illegalInstruction r.sub w) s := by
  simp only [State.examine, h]

/-- Settles O13: a word is decoded only behind the check of VER, in whatever state it issues. -/
theorem badVersionTraps : Obligations.BadVersionTraps := by
  intro vl w hi hlen hver
  refine ⟨decode_badVersion vl w hi hlen hver, fun s live place => ⟨?_, rfl⟩⟩
  exact State.examine_reject (decode_badVersion s.g.valloc w hi hlen hver) live place

end Machine
end Sys2Proof
end

section
/-! PROOF. TRET: where it returns to, and what its issue comes to (R22, R32, R33, R106). -/

namespace Sys2Proof.Machine

/-! ### The place that TRET returns to (R33, R106) -/

/-- Bits [1:0] of a place are not 00 just where it is no multiple of an instruction word's alignment. -/
theorem lowBits_bne_zero_iff (x : Word) : (x.extractLsb' 0 2 != 0#2) = true ↔ x.toNat % 4 ≠ 0 := by
  rw [bne_iff_ne, ne_eq, ← BitVec.toNat_inj]
  simp

/-- The group that TRET leaves at a place: SC and TM restored, the watchdog restarted (R28, R33). -/
def Group.returnTo (g : Group) (pc : Word) (plane : Fin 4) : Group :=
  { (({ g with sc := g.ssc } : Group).setTm false).restartWatchdog with
    pc := pc, plane := plane, fresh := true, issued := false, run := .ready
    owes := if g.owes == some (g.xpc.extractLsb' 0 32) then g.owes else none
    errs := (g.clean (.special 1)).errs }

@[simp] theorem Group.returnTo_run (g : Group) (pc : Word) (p : Fin 4) : (g.returnTo pc p).run = .ready := rfl
@[simp] theorem Group.returnTo_status (g : Group) (pc : Word) (p : Fin 4) :
    (g.returnTo pc p).status = mkStatus g.ssc false g.plerr false := by
  simp only [Group.returnTo, Group.restartWatchdog_status, Group.ssc, Group.plerr, Group.tm, Group.setTm_status,
    mkStatus_ssc, mkStatus_plerr, mkStatus_tm]

@[simp] theorem Group.returnTo_tm (g : Group) (pc : Word) (p : Fin 4) : (g.returnTo pc p).tm = false := by
  rw [Group.tm, Group.returnTo_status, mkStatus_tm]

/-- The safe point of a TRET restarts a watchdog that TRET itself has restarted, which changes nothing. -/
theorem Group.returnTo_restartWatchdog (g : Group) (pc : Word) (p : Fin 4) :
    (g.returnTo pc p).restartWatchdog = g.returnTo pc p := by
  have hst : ((g.returnTo pc p).restartWatchdog).status = (g.returnTo pc p).status := by
    simp only [Group.restartWatchdog_status, Group.returnTo_status, Group.ssc, Group.plerr, Group.returnTo_tm,
      mkStatus_ssc, mkStatus_plerr]
  calc (g.returnTo pc p).restartWatchdog
      = { g.returnTo pc p with status := (g.returnTo pc p).restartWatchdog.status } := rfl
    _ = g.returnTo pc p := by rw [hst]

/-- OFF is no multiple of 4: cause 0x02 at the TRET, with OFF as XINFO. -/
theorem State.trapReturn_misaligned (s : State) (h : (s.g.xpc.setWidth 32 : Word).toNat % 4 ≠ 0) :
    s.trapReturn = s.enterTrap (s.g.trapHere 2 0 ((s.g.xpc.setWidth 32 : Word).setWidth 64)) := by
  rw [BitVec.setWidth_eq_extractLsb' (w := 32) (by decide)] at h ⊢
  exact if_pos ((lowBits_bne_zero_iff _).mpr h)

/-- RBASE is 0: the group returns to OFF itself. -/
theorem State.trapReturn_outside (s : State) (hal : (s.g.xpc.setWidth 32 : Word).toNat % 4 = 0)
    (hbase : s.g.xpc.toNat < 2 ^ 32) (hcopy : s.g.inOtherCopy (s.g.xpc.setWidth 32) = false) :
    s.trapReturn = { s with g := s.g.returnTo (s.g.xpc.setWidth 32) 0 } := by
  have hr : s.g.xpc.extractLsb' 32 32 = 0 := by
    apply BitVec.eq_of_toNat_eq
    rw [BitVec.extractLsb'_toNat, Nat.shiftRight_eq_div_pow, Nat.div_eq_of_lt hbase, Nat.zero_mod, BitVec.ofNat_eq_ofNat,
      BitVec.toNat_ofNat, Nat.zero_mod]
  rw [BitVec.setWidth_eq_extractLsb' (w := 32) (by decide)] at hal hcopy ⊢
  unfold State.trapReturn
  rw [if_neg fun h => (lowBits_bne_zero_iff _).mp h hal, if_pos hr, if_neg (by simp [hcopy])]
  rfl

/-- RBASE names a region whose copies hold OFF: the group returns to the plane and the offset in plane 0's copy. -/
theorem State.trapReturn_region (s : State) {r : Region} {o : Nat}
    (hr : s.g.regions.find? (fun q => q.base == r.base) = some r)
    (hpos : 0 < r.base) (ho : o < r.npl * r.stride) (hx : s.g.xpc.toNat = r.base * 2 ^ 32 + (r.base + o))
    (hlt : r.base + o < 2 ^ 32) (hal : (r.base + o) % 4 = 0) :
    s.trapReturn =
      { s with g := s.g.returnTo (BitVec.ofNat 32 (r.base + o % r.stride)) (Fin.ofNat 4 (o / r.stride)) } := by
  have hoff : (s.g.xpc.extractLsb' 0 32).toNat = r.base + o := by simp [hx]; omega
  have hbase : (s.g.xpc.extractLsb' 32 32).toNat = r.base := by
    simp [hx, Nat.shiftRight_eq_div_pow]; omega
  have hne : s.g.xpc.extractLsb' 32 32 ≠ 0 := fun h => by simp [h] at hbase; omega
  unfold State.trapReturn
  rw [if_neg fun h => (lowBits_bne_zero_iff _).mp h (hoff ▸ hal), if_neg hne]
  simp only [hbase, hr, hoff]
  rw [if_pos ⟨by omega, by omega⟩, Nat.add_sub_cancel_left]
  rfl

/-! ### TRET (R22, R33) -/

/-- A safe point after which the group goes on. -/
theorem State.safePoint_ready (s : State) (sp : Bool) (h : sp = false ∨ s.preempting s.g.launch = false) :
    (s.safePoint sp fun _ => .ready) =
      { s with g := { (if sp then s.g.restartWatchdog else s.g) with run := .ready } } := by
  unfold State.safePoint
  exact if_neg (by rcases h with h | h <;> simp [State.stopping, h])

theorem exec_tret (x : Plain) (s : State) : exec (.tret x) s = execTret x s := rfl

/-- In trap mode with nothing outstanding and no deferred fault, TRET returns at once, with its safe point behind it. -/
theorem exec_tret_idle {x : Plain} {s : State} (hc : x.cond.holds s.g.sc = true) (htm : s.g.tm = true)
    (hlog : s.g.log = []) (hdef : s.g.deferred = []) :
    exec (.tret x) s = .next (if s.trapReturn.g.run = .ready then s.trapReturn.safePoint x.c.sp fun _ => .ready
      else s.trapReturn) := by
  simp only [exec_tret, execTret, hc, htm, if_true, State.boundary, hlog, List.isEmpty_nil, State.settle, hdef, earliest,
    Bool.not_true, Bool.and_false, Bool.false_eq_true, if_false]

/-- TRET to a place that is good. -/
theorem exec_tret_returns {x : Plain} {s : State} {pc : Word} {p : Fin 4} (hc : x.cond.holds s.g.sc = true)
    (htm : s.g.tm = true) (hlog : s.g.log = []) (hdef : s.g.deferred = [])
    (hsp : x.c.sp = false ∨ s.preempting s.g.launch = false) (hto : s.trapReturn = { s with g := s.g.returnTo pc p }) :
    exec (.tret x) s = .next { s with g := s.g.returnTo pc p } := by
  rw [exec_tret_idle hc htm hlog hdef, hto, if_pos (Group.returnTo_run ..),
    State.safePoint_ready { s with g := s.g.returnTo pc p } _ hsp]
  simp only [Group.returnTo_restartWatchdog, ite_self]
  rfl

/-- TRET parks while results are outstanding (R22). -/
theorem exec_tret_parks {x : Plain} {s : State} (hc : x.cond.holds s.g.sc = true) (htm : s.g.tm = true)
    (hlog : s.g.log ≠ []) :
    exec (.tret x) s = .next { s with g := { s.g with run := .parked (.tret x.c.sp) } } := by
  rcases State.boundary_cases s (.tret x.c.sp) with ⟨_, h⟩ | ⟨h, _⟩
  · simp only [exec_tret, execTret, hc, htm, if_true, h]
  · exact absurd h hlog

/-- TRET outside trap mode is an illegal instruction with sub-cause 6. -/
theorem exec_tret_untrapped {x : Plain} {s : State} (hc : x.cond.holds s.g.sc = true) (htm : s.g.tm = false) :
    exec (.tret x) s = s.traps (s.g.trapHere 1 6 (Instr.tret x).word) := by
  simp only [exec_tret, execTret, hc, htm, if_true, Bool.false_eq_true, if_false]
  rfl

/-- A trap met in trap mode aborts the launch (R32). -/
theorem State.enterTrap_abort {s : State} (htm : s.g.tm = true) (t : TrapReq) :
    s.enterTrap t = s.abortLaunch s.g.launch (s.report 2 t.code t.sub t.info (s.g.xpc.extractLsb' 32 32) t.off) := by
  rcases s.enterTrap_cases t with ⟨h, -⟩ | ⟨-, h⟩
  · simp [htm] at h
  · exact h

/-- Settles O8: TRET's park, its return outside and inside a region, its bad target and its use outside trap mode. -/
theorem trapReturn : Obligations.TrapReturn := by
  intro x s hc
  refine ⟨exec_tret_parks hc, ?outside, ?region, ?misaligned, exec_tret_untrapped hc⟩
  case outside =>
    intro htm hlog hdef hal hbase hcopy hsp
    refine ⟨_, exec_tret_returns hc htm hlog hdef hsp (s.trapReturn_outside hal hbase hcopy),
      rfl, Group.returnTo_tm .., rfl, rfl, rfl, rfl, rfl⟩
  case region =>
    intro htm hlog hdef r o _ hpos ho hr hx hlt ho4 hr4 hsp hnpl
    have hto := s.trapReturn_region hr hpos ho hx hlt (by omega)
    refine ⟨_, exec_tret_returns hc htm hlog hdef hsp hto, rfl, Group.returnTo_tm .., rfl, ?_⟩
    have hp : o / r.stride < 4 := Nat.lt_of_lt_of_le (Nat.div_lt_of_lt_mul (by rwa [Nat.mul_comm])) hnpl
    exact Nat.mod_eq_of_lt hp
  case misaligned =>
    intro htm hlog hdef hal
    rw [exec_tret_idle hc htm hlog hdef, s.trapReturn_misaligned hal, State.enterTrap_abort htm]
    rfl

end Sys2Proof.Machine
end

section
/-! PROOF. Class-0 shifts and the rotation (R59, R61): what a class-0 operation writes, and what each shift function of
the model computes at every amount. -/

namespace Sys2Proof.Machine

/-! ### What a class-0 operation writes (R58, R59) -/

/-- A class-0 operation whose COND holds writes the result of its operation at the type's width, with the flags of it. -/
theorem State.alu_eq_wroteScalar {x : SInt} {s : State} (hc : x.cond.holds s.g.sc = true) (op : AluOp) :
    let w := scalarWidth x.ty
    let r := op w x.ty ((s.g.src x.c x.ty x.a).setWidth w) ((s.g.src x.c x.ty x.b).setWidth w) (s.g.srcWhole x.c x.b)
    .next (s.alu x op) = s.wroteScalar x.c x.d x.fs (extendResult x.ty r.1) r.2.c r.2.v := by
  simp only [State.alu, State.onceG, State.once, hc, if_true]
  rfl

/-! ### The shift functions at every amount (R61) -/

section
variable {w : Nat} (a : BitVec w) (n : Nat)

theorem shiftLeft_eq_mul : shiftLeft a n = if n < w then BitVec.ofNat w (a.toNat * 2 ^ n) else 0 := by
  have hmul : a <<< n = BitVec.ofNat w (a.toNat * 2 ^ n) := by
    apply BitVec.eq_of_toNat_eq
    rw [BitVec.toNat_shiftLeft, Nat.shiftLeft_eq, BitVec.toNat_ofNat]
  rw [shiftLeft, hmul]

theorem shiftRight_eq_div : shiftRight a n = if n < w then BitVec.ofNat w (a.toNat / 2 ^ n) else 0 := by
  have hdiv : a >>> n = BitVec.ofNat w (a.toNat / 2 ^ n) := by
    rw [← Nat.shiftRight_eq_div_pow, ← BitVec.toNat_ushiftRight, BitVec.ofNat_toNat, BitVec.setWidth_eq]
  rw [shiftRight, hdiv]

/-- `Int`'s division by a positive number rounds toward −∞, as R61 asks. -/
theorem shiftArith_eq_div : shiftArith a n = if n < w then BitVec.ofInt w (a.toInt / 2 ^ n)
    else if a.getLsbD (w - 1) then BitVec.allOnes w else 0 := by
  have hdiv : a.sshiftRight n = BitVec.ofInt w (a.toInt / 2 ^ n) := by
    have hpow : ((2 ^ n : Nat) : Int) = 2 ^ n := Int.natCast_pow 2 n
    rw [BitVec.sshiftRight, Int.shiftRight_eq_div_pow, hpow]
  rw [shiftArith, hdiv, BitVec.msb_eq_getLsbD_last]

/-- Bit `i` of a rotation to the right is the bit `n` places above it, round the word. -/
theorem getLsbD_rotateRight_eq_mod {i : Nat} (hi : i < w) :
    (a.rotateRight n).getLsbD i = a.getLsbD ((i + n) % w) := by
  have hn : n % w < w := Nat.mod_lt n (by omega)
  rw [← Nat.add_mod_mod, BitVec.getLsbD_rotateRight]
  rcases Nat.lt_or_ge (i + n % w) w with hlt | hge
  · have hin : i < w - n % w := by omega
    simp only [hin, decide_true, cond_true, Nat.mod_eq_of_lt hlt, Nat.add_comm]
  · have hout : ¬ i < w - n % w := by omega
    have hwrap : (i + n % w) % w = i - (w - n % w) := by
      rw [Nat.mod_eq_sub_mod hge, Nat.mod_eq_of_lt (by omega)]
      omega
    simp only [hout, hi, decide_false, decide_true, cond_false, Bool.true_and, hwrap]

end

/-- The inline constant −1 read whole is 2^64 − 1. -/
theorem Group.srcWhole_neg_one (g : Group) (c : Ctl) : (g.srcWhole c (.neg 0)).toNat = 2 ^ 64 - 1 := by
  have hone : g.srcWhole c (.neg 0) = BitVec.allOnes 64 := by
    change inlineInt (.neg 0) = BitVec.allOnes 64
    decide
  rw [hone, BitVec.toNat_allOnes]

/-- Settles O3: each shift by its arithmetic form at every amount, and the inline −1 as an amount. -/
theorem scalarShifts : Obligations.ScalarShifts := by
  refine ⟨fun x s hc => ⟨?left, ?right, ?arith, ?rotation⟩, Group.srcWhole_neg_one⟩
  case left =>
    rw [← shiftLeft_eq_mul]
    exact State.alu_eq_wroteScalar hc _
  case right =>
    rw [← shiftRight_eq_div]
    exact State.alu_eq_wroteScalar hc _
  case arith =>
    rw [← shiftArith_eq_div]
    exact State.alu_eq_wroteScalar hc _
  case rotation =>
    refine ⟨_, State.alu_eq_wroteScalar hc _, fun i hi => ?_⟩
    rw [BitVec.rotateRight_mod_eq_rotateRight, getLsbD_rotateRight_eq_mod _ _ hi]

end Sys2Proof.Machine
end

section
/-! PROOF. Class-2 operations on whole 32-bit elements (R121), and the lane shifts at every amount (R122). -/

namespace Sys2Proof.Machine

/-! ### An operation on a 32-bit type works on the lane's whole elements (R120, R121) -/

theorem elemWidth_of_isW32 {ty : Ty} (h : ty.isW32 = true) : elemWidth ty = 32 := by
  cases ty with
  | s32 | n32 | b32 => rfl
  | _ => cases h

/-- At width 32 a lane has one element. -/
theorem mapElems_32 (f : Word → Word → Word) (x y : Word) : mapElems 32 f x y = f x y := by
  simp [mapElems]

/-- At width 32 a constant enters the one element as it is read. -/
theorem Group.lanePacked_32 (g : Group) (c : Ctl) (o : Operand) (i : Lane) : g.lanePacked c 32 o i = g.lane32 c o i := by
  simp [Group.lanePacked, replicateElems]

/-- A two-source operation of class 2 on a 32-bit type writes its result on the two whole sources of each lane. -/
theorem State.elementwise_eq_wroteLanes {x : VBinary} (h : x.ty.isW32 = true) (s : State) (f : ElemOp) :
    .next (s.elementwise x f) = s.wroteLanes x.c x.g x.d fun i =>
      f 32 x.ty (s.g.lane32 x.c x.a i) (s.g.lane32 x.c x.b i) := by
  simp only [State.elementwise, State.lanes, Group.elementwise]
  rw [elemWidth_of_isW32 h]
  simp only [mapElems_32, Group.lanePacked_32]
  rfl

/-! ### The shift amount (R122) -/

/-- Of an S register a lane reads the low 32 bits. -/
theorem Group.lane32_s_toNat (g : Group) (c : Ctl) (n : Fin 64) (i : Lane) :
    (g.lane32 c (.s n) i).toNat = (g.readS n).toNat % 2 ^ 32 := by
  change ((g.readS n).extractLsb' 0 32).toNat = _
  rw [BitVec.extractLsb'_toNat, Nat.shiftRight_zero]

/-- The inline constant −1 read by a lane has every bit set. -/
theorem Group.lane32_neg_one (g : Group) (c : Ctl) (i : Lane) : g.lane32 c (.neg 0) i = 0xFFFFFFFF := by
  change (inlineInt (.neg 0)).extractLsb' 0 32 = 0xFFFFFFFF
  decide

/-- The arithmetic shift of a 32-bit element, with the element's sign bit and the word of ones as a lane has them. -/
theorem shiftArith_word_eq_div (a : Word) (n : Nat) : shiftArith a n =
    if n < 32 then BitVec.ofInt 32 (a.toInt / 2 ^ n) else if a.getLsbD 31 then 0xFFFFFFFF else 0 :=
  shiftArith_eq_div a n

/-- Settles O17: each lane shift by its arithmetic form at every amount, and what an S register and −1 give as an
amount. -/
theorem vectorShifts : Obligations.VectorShifts := by
  refine ⟨fun x s hty => ⟨?left, ?right, ?arith⟩, fun g c n i => ⟨g.lane32_s_toNat c n i, g.lane32_neg_one c i⟩⟩
  case left =>
    simp only [← shiftLeft_eq_mul]
    exact State.elementwise_eq_wroteLanes hty s _
  case right =>
    simp only [← shiftRight_eq_div]
    exact State.elementwise_eq_wroteLanes hty s _
  case arith =>
    simp only [← shiftArith_word_eq_div]
    exact State.elementwise_eq_wroteLanes hty s _

end Sys2Proof.Machine
end

section
/-! PROOF. VFABS and VFNEG (R130): the bits of what they write, and the fields that their words leave zero. -/

namespace Sys2Proof.Machine

/-! ### The sign bit as a weight -/

theorem signWeight_eq_two_pow (ty : Ty) : signWeight ty = 2 ^ (if ty = .f32 then 31 else 15) := by
  unfold signWeight
  split <;> rfl

section
variable {k : Nat} (hk : k < 32) (v t : Nat)
include hk

/-- A remainder by 2^t keeps the bits below t and clears the others. -/
theorem getLsbD_ofNat_mod_two_pow :
    (BitVec.ofNat 32 (v % 2 ^ t)).getLsbD k = (decide (k < t) && (BitVec.ofNat 32 v).getLsbD k) := by
  simp only [BitVec.getLsbD_ofNat, hk, decide_true, Bool.true_and, Nat.testBit_mod_two_pow]

/-- Adding 2^t within t + 1 bits inverts bit t and keeps the bits below it. -/
theorem getLsbD_ofNat_add_two_pow_mod :
    (BitVec.ofNat 32 ((v + 2 ^ t) % (2 * 2 ^ t))).getLsbD k =
      if k < t then (BitVec.ofNat 32 v).getLsbD k else decide (k = t) && !(BitVec.ofNat 32 v).getLsbD k := by
  rw [← Nat.pow_succ', Nat.add_comm, getLsbD_ofNat_mod_two_pow hk]
  simp only [BitVec.getLsbD_ofNat, hk, decide_true, Bool.true_and]
  rcases Nat.lt_trichotomy k t with hlt | rfl | hgt
  · rw [if_pos hlt, Nat.testBit_two_pow_add_gt hlt, decide_eq_true (Nat.lt_succ_of_lt hlt), Bool.true_and]
  · simp [Nat.testBit_two_pow_add_eq]
  · have hout : ¬ k < t + 1 := Nat.not_lt.mpr hgt
    have hne : ¬ k = t := Nat.ne_of_gt hgt
    have hge : ¬ k < t := Nat.lt_asymm hgt
    simp only [hout, hne, hge, decide_false, Bool.false_and, if_false]

end

/-! ### The words (R34, R130) -/

/-- Bits [49:34] of a word are its fields C and B: the eight fields behind them fill the 34 bits below. -/
theorem Fields.join_extract_cb (f : Fields) : f.join.extractLsb' 34 16 = f.c ++ f.b := by
  have hlow : (f.fn ++ f.c ++ f.b).extractLsb' 0 16 = f.c ++ f.b := by
    apply BitVec.eq_of_getLsbD_eq
    intro i hi
    have hc : i - 8 < 8 := by omega
    simp only [BitVec.getLsbD_extractLsb', BitVec.getLsbD_append, Nat.zero_add, hi, hc, decide_true, Bool.true_and,
      if_true]
  unfold Fields.join
  iterate 8 refine (BitVec.extractLsb'_append_eq_of_le (by decide)).trans ?_
  exact hlow

/-- A one-source word of classes 2 and 3 has zeros for B and C. -/
theorem VUnary.join_extract_cb (x : VUnary) (op : BitVec 8) : (x.fields op).join.extractLsb' 34 16 = 0 := by
  rw [Fields.join_extract_cb]
  exact BitVec.zero_append_zero

/-- Settles O21: the value modulo the sign's weight for VFABS, plus that weight for VFNEG, bit by bit; and the words. -/
theorem floatSigns : Obligations.FloatSigns := by
  intro x s _
  refine ⟨⟨_, _, rfl, rfl, fun i k hk => ⟨?abs, ?neg⟩⟩, ?words⟩
  case abs =>
    rw [signWeight_eq_two_pow]
    exact getLsbD_ofNat_mod_two_pow hk _ _
  case neg =>
    rw [signWeight_eq_two_pow]
    exact getLsbD_ofNat_add_two_pow_mod hk _ _
  case words =>
    simp only [List.forall_mem_cons]
    exact ⟨VUnary.join_extract_cb x _, VUnary.join_extract_cb x _, List.forall_mem_nil _⟩

end Sys2Proof.Machine
end
